-- ==== Sys2Proof/Word.lean ====
section
/-!
DEFINITION. The byte and word types of the device structures (spec R6, R7) and the plainest arithmetic on counts.
-/
namespace Sys2Proof

/-- One byte of a device structure, a register image or a frame. -/
abbrev Byte := BitVec 8

/-- A run of bytes, lowest address first (R7: little-endian). -/
abbrev Bytes := List Byte

/-- A sparse table: keys strictly rising, no entry equal to the default an unlisted key reads as.
The one form in which the model holds anything addressed by a number. -/
abbrev Tbl (α : Type) := List (Nat × α)

/-- The four dies that can be named by a rule: 0 FA, 1 FB (R97). -/
abbrev Die := Nat

end Sys2Proof
end

