-- ==== Sys2Proof/Syntax.lean ====
section
/-!
DEFINITION. The commands of the block: one constructor per row of spec/opcode_table.json, with the operands that the
environment supplies (spec chapters 01-16; notes/assumptions/2.md).

A mailbox command carries its header and its payload as bytes, so that every check of a field, a reserved byte or a
length is the model's own (R463, R468). An event of the field side, of the ring or of a pin carries what was measured or
received. An event that stands for the expiry of one of the block's own timers carries at most the instance it belongs to.
-/
namespace Sys2Proof

/-- The three mailbox transports (R456); a ring command names its originating station. -/
inductive Via where
  | ring (station : Nat)
  | pcie
  | qspi
deriving DecidableEq, Repr

/-- The two ports that reach the map of R401. -/
inductive HostPort where
  | pcie
  | qspi
deriving DecidableEq, Repr

/-- A command as the control core takes it: where it came from, its slot in the bank (0 on the ring) and the header
fields of R463 other than OPCODE and LENGTH (the row and the payload give those). -/
structure CmdHdr where
  via    : Via
  slot   : Nat
  flags  : BitVec 16
  tag    : BitVec 32
  target : BitVec 32
deriving DecidableEq, Repr

/-- A resource held under a lease (R47). -/
inductive LeaseRes where
  | dma (ch : Nat)
  | skein (ts : Nat)
  | handover (cluster : Nat)
  | serialMem
  | kilzar (decompressor : Bool)
  | staging
  | fwUpdate
deriving DecidableEq, Repr

/-- What a sense pair showed in a row (R55, R70, R86): the sensed amplitude in any unit of the driven one, negative where
its polarity or phase is reversed, the driven amplitude, and whether the output stood at its limit of ±2.9 V. -/
structure SenseIn where
  sensed  : Int
  driven  : Nat
  atLimit : Bool
deriving DecidableEq, Repr

/-- What the field side gives a row. -/
structure RowInput where
  /-- the modulator samples of each slice in the order of f_MOD, as the values that their codes stand for in units of
  2^-31 FS; a sample that is not listed is 0 (R144) -/
  mods      : List (Nat × List Int)
  /-- the response of each channel to its test current in units of 2^-31 FS, 0 where not listed (R87) -/
  test      : List (Nat × Int)
  /-- the sense pair of each cluster; a cluster that is not listed had no reading -/
  sense     : List (Nat × SenseIn)
  /-- the channels whose clamp, the clusters whose current limit and whose over-voltage last past B_N -/
  clampHeld : List Nat
  limitHeld : List Nat
  overVolt  : List Nat
  /-- the dies of which the supply monitor saw a rail outside its range in the row (R85, R95) -/
  supplyOut : List Nat
deriving DecidableEq, Repr

/-- A row in which nothing reached the field side. -/
def RowInput.quiet : RowInput := ⟨[], [], [], [], [], [], []⟩

/-- What a scan read from one TEDS node (R79, R80). -/
structure TedsNode where
  rom       : BitVec 64
  checkOk   : Bool
  supported : Bool
  /-- the template's maximum and nominal excitation in millivolts (rms for SINE and SQUARE), 0 where it gives none -/
  maxMv     : Nat
  nomMv     : Nat
  /-- the template's rated output in nV/V -/
  ratedNv   : Nat
  /-- c_00 … c_50 of template 41, binary32, empty where the node has none -/
  coeffs    : List (BitVec 32)
  bytes     : Bytes
deriving DecidableEq, Repr

/-- A Sync, with its Follow_Up where it is two-step, as the port received it (R246, R249): the origin's timestamp in 2^-32 ns,
the correction in 2^-16 ns, the offset that the servo's filter gives in 1/256 ns, the hops from the grandmaster and its
clockIdentity. -/
structure PtpSync where
  port   : Nat
  domain : Nat
  origin : Nat
  corr   : Int
  offset : Int
  hops   : Nat
  gmId   : BitVec 64
  /-- log2 of the Sync interval that it announces, in seconds -/
  interval : Int
deriving DecidableEq, Repr

/-- An Announce as the port received it (R246, R253, R264), with the data set that the best master clock algorithm compares:
priority1, clockClass, clockAccuracy, offsetScaledLogVariance, priority2, clockIdentity and stepsRemoved. -/
structure PtpAnnounce where
  port   : Nat
  domain : Nat
  gmId   : BitVec 64
  prio1  : Nat
  cls    : Nat
  acc    : Nat
  var    : Nat
  prio2  : Nat
  steps  : Nat
  utc    : BitVec 16
  leap61 : Bool
  leap59 : Bool
deriving DecidableEq, Repr

/-- A delay message as the port received it (R246): a neighbour's Pdelay_Req; the answer to the port's own request, its
turnaround in 2^-16 ns; or a Delay_Resp with the foreign master's receipt time in 2^-32 ns. -/
inductive PdelayMsg where
  | req (id domain : Nat)
  | resp (id : Nat) (turnaround : Int)
  | delayResp (id : Nat) (received : Nat) (corr : Int)
deriving DecidableEq, Repr

/-- A Zimir frame as received (R363, R364). -/
structure ZFrame where
  version : Nat
  kind    : Nat
  flags   : BitVec 8
  hops    : Nat
  src     : Nat
  dst     : Nat
  epoch   : Nat
  seq     : Nat
  subtype : Nat
  row     : Nat
  payload : Bytes
  hcheck  : BitVec 32
deriving DecidableEq, Repr

/-- A HELLO (R374). -/
structure HelloMsg where
  uid     : BitVec 64
  verMin  : Nat
  verMax  : Nat
  root    : Bool
  station : Nat
  digest  : BitVec 32
  session : Nat
  port    : Nat
  nextSeq : Nat
deriving DecidableEq, Repr

/-- A BEAT (R375). -/
structure BeatMsg where
  uid      : BitVec 64
  station  : Nat
  port     : Nat
  wrap     : Bool
  leaving  : Bool
  reason   : Nat
  topo     : Nat
  freqHops : Nat
  freqQual : Nat
  row      : Nat
deriving DecidableEq, Repr

/-- What the patrol scrubber met in its next stretch of MD (R584). -/
inductive ScrubResult where
  | clean (passEnd : Bool)
  | corrected
  | inSkein (id : Nat) (addr : Nat)
  | inClassBuffer (cls : Nat) (row : Nat) (addr : Nat)
  | inRowQueue (row : Nat) (addr : Nat)
  | inReplay (seq : Nat) (addr : Nat)
  | unused (addr : Nat)
deriving DecidableEq, Repr

/-- The wake sources of R567, with the code that LAST_WAKE gives them (R589). -/
inductive WakeSrc where
  | wakeIn
  | di (input : Nat)
  | timeEvent (n : Nat)
  | sentinel (channel : Nat)
  | mgWake
  | sealSw
deriving DecidableEq, Repr

/-- The commands: the rows of spec/opcode_table.json, in its order. -/
inductive Instr where
  -- rows, leases, power-fail input
  | rowBoundary (i : RowInput)
  | rowStreamStart
  | syncOutPulseEnd
  | tsStep
  | leaseExpiry (r : LeaseRes)
  | leaseRevoked (r : LeaseRes)
  | resourceRelease (r : LeaseRes)
  /-- `samples` equal samples of PFW -/
  | pfwAsserted (samples : Nat)
  | pfwDeasserted (samples : Nat)
  | pfwRecoveryTimeout
  -- excitation and field faults
  | excCurrentLimit (cl : Nat)
  | excShort (cl : Nat) (kind : Nat)
  | excRetry (cl : Nat)
  | polarityCheckDone (cl : Nat) (ok : Bool)
  | excRampDone (cl : Nat)
  | senseOpen (cl : Nat) (neg : Bool)
  | senseShort (cl : Nat)
  | senseReversed (cl : Nat)
  | senseRestored (cl : Nat)
  | signalOpen (ch : Nat) (neg : Bool)
  | signalRestored (ch : Nat)
  | clamp (ch : Nat)
  | modOverloadActive (slice : Nat) (neg : Bool)
  | modOverloadClear (slice : Nat)
  | pinOvervoltage (cl : Nat)
  | vfReversed (die : Die)
  | vfOutOfRange (die : Die)
  | vfInRange (die : Die)
  | vfCollapse (die : Die)
  -- TEDS; a scan ends with the nodes that it has read, or with none where its bus was faulty at the start (R82)
  | tedsScan (h : CmdHdr) (p : Bytes)
  | tedsScanDone (cl : Nat) (nodes : Option (List TedsNode))
  | tedsRead (h : CmdHdr) (p : Bytes)
  | tedsApply (h : CmdHdr) (p : Bytes)
  -- rotation
  | rotStepStart (cl : Nat)
  | rotPhaseEnd (cl : Nat)
  | ladderGrant (rg : Nat)
  | rotCalDone (cl : Nat)
  | rotWindowEnd (cl : Nat) (dTdt : Nat)
  | rotDeferExpired (cl : Nat)
  | rotClearSuspect (h : CmdHdr) (p : Bytes)
  -- auxiliary converter and temperatures
  | auxResult (die : Die) (value : BitVec 24)
  | regionSensorConversion (temps : List Int)
  | tempStale (die : Die) (entry : Nat)
  -- SYNC and calibration
  | sync (h : CmdHdr) (p : Bytes)
  | syncIn
  | firRead (h : CmdHdr) (p : Bytes)
  | calPoint (h : CmdHdr) (p : Bytes)
  | calSolve (h : CmdHdr) (p : Bytes)
  | calAbort (h : CmdHdr) (p : Bytes)
  | phaseMeasure (h : CmdHdr) (p : Bytes)
  | skewMeasure (h : CmdHdr) (p : Bytes)
  | fdtLearn (h : CmdHdr) (p : Bytes)
  | calDone
  | swatchStage (h : CmdHdr) (p : Bytes)
  | swatchStoreWritten (ok : Bool)
  -- time unit
  | tbSnapshotCapture
  | tbIncrWrite (n : Nat) (byHost : Bool) (w : BitVec 48)
  | tbSlewWrite (n : Nat) (byHost : Bool) (offset : BitVec 48) (rate : BitVec 16)
  | tbSlewDone (n : Nat)
  | timeIncr (h : CmdHdr) (p : Bytes)
  | timeSlew (h : CmdHdr) (p : Bytes)
  | timeStepTb3 (h : CmdHdr) (p : Bytes)
  | timeTod (h : CmdHdr) (p : Bytes)
  | asymMeasure (h : CmdHdr) (p : Bytes)
  | asymPhaseDone
  | ptpSyncRx (m : PtpSync)
  | ptpSyncForward (port : Nat) (domain : Nat) (seq : Nat) (ingress : Nat) (correction : Int)
  | ptpSyncTx (dom : Nat)
  | ptpPdelayTx (port : Nat)
  | ptpPdelayRx (port : Nat) (m : PdelayMsg)
  | ptpAnnounceTx (dom : Nat)
  | ptpAnnounceRx (m : PtpAnnounce)
  | ptpMgmtDrop (port : Nat)
  | syncLossTimeout (dom : Nat)
  | acqTimeout
  | ppsInEdge (stamp : Nat)
  | ppsInLost
  | ppsOutRise
  | ppsOutEnd
  | freqSourceLost
  | freqHoldoverEnd
  | freqSourceChanged
  | teArm (h : CmdHdr) (p : Bytes)
  | teDisarm (h : CmdHdr) (p : Bytes)
  | teFire (n : Nat)
  | tePulseEnd (n : Nat)
  | tbTxqRead (byHost : Bool)
  | txqOverflow
  -- sequencers and capture
  | tsArm (h : CmdHdr) (p : Bytes)
  | tsDisarm (h : CmdHdr) (p : Bytes)
  | captureLogWrite
  | skeinClosed (id : Nat)
  | capMarkSet (h : CmdHdr) (p : Bytes)
  | capMarkClear (h : CmdHdr) (p : Bytes)
  | capRewind (h : CmdHdr) (p : Bytes)
  | skeinNext (h : CmdHdr) (p : Bytes)
  | skeinRead (h : CmdHdr) (p : Bytes)
  -- Kilzar
  | kzCompress (tag : Nat) (job : Bytes) (input : Bytes)
  | kzDecompress (tag : Nat) (job : Bytes) (input : Bytes)
  | kzJobDone (decompressor : Bool)
  | kzContextTimeout
  -- ring
  | linkModeTimeout (port : Nat)
  | blockLock (port : Nat) (mode : Nat)
  | helloTx (port : Nat)
  | hello (port : Nat) (m : HelloMsg)
  | helloTimeout (port : Nat)
  | heldOutRetry (port : Nat)
  | enum (port : Nat) (next : Nat) (ringVer : Nat) (rootUid : BitVec 64) (slow : BitVec 64)
  | enumTimeout (next : Nat)
  | enumDone (count : Nat) (ringVer : Nat) (topo : Nat) (uids : List (BitVec 64)) (slow : BitVec 64)
  | topology (topo : Nat) (count : Nat) (linkUp : BitVec 64) (order : List Nat) (slow : BitVec 64) (left : List (Nat × Nat))
  | admitReq (station : Nat) (rate : Nat) (row : Nat)
  | admitRsp (granted : Bool) (free : Nat)
  | admitRspTimeout
  | zimirFrameRx (port : Nat) (etherType : Nat) (uncorr : Nat) (fcsOk : Bool) (f : ZFrame)
  | guaranteedFrameRx (f : ZFrame)
  | skeinFrameRx (f : ZFrame)
  | cmdFrameRx (f : ZFrame)
  | rspFrameRx (f : ZFrame)
  | replayReq (requester : Nat) (first : Nat) (count : Nat)
  | replayNak (originator : Nat) (first : Nat) (count : Nat) (oldest : Nat)
  | gapWaitExpiry (originator : Nat) (seq : Nat)
  | replayExpired (originator : Nat) (seq : Nat)
  | replayWindowExpiry (seq : Nat)
  | beatTx (port : Nat)
  | beatRx (port : Nat) (m : BeatMsg)
  | beatMissed (port : Nat)
  | linkDown (port : Nat)
  | beDropped (port : Nat)
  -- frame engines
  | frameCycleEnd
  | feHeartbeat (checkOk : Bool)
  | feHeartbeatMissed (agrees : Bool)
  | feFence
  | feSwitch (h : CmdHdr) (p : Bytes)
  | feReset (h : CmdHdr) (p : Bytes)
  | feResetDone (eng : Nat) (pass : Bool)
  | feResyncDone (eng : Nat)
  | feSelftestStep (mismatch : Bool) (pct : Nat)
  -- host port
  | pciePerst
  | pcieConfigRequest (offset : Nat)
  | hostLinkUp (gen : Nat) (width : Nat) (mps : Nat) (reversed : Bool)
  | hostLinkDown
  | hostLinkDegraded (gen : Nat) (width : Nat)
  | hostFlr
  | registerWrite (port : HostPort) (offset : Nat) (data : Bytes) (mem : List (Nat × Bytes))
  | wideRegisterLowRead (port : HostPort) (offset : Nat) (size : Nat)
  | msixUnmask (v : Nat)
  | qspiRead (offset : Nat) (words : Nat)
  | qspiWrite (offset : Nat) (data : Bytes) (mem : List (Nat × Bytes))
  | qspiStatus
  -- DMA; `desc` is what a fetch of the descriptor returned, `data` what reads of its source returned and the channel wrote
  | dmaStart (n : Nat) (via : Via) (desc : Bytes)
  | dmaPause (n : Nat)
  | dmaResume (n : Nat) (desc : Bytes)
  | dmaAbort (n : Nat)
  | dmaPaused (n : Nat) (data : Bytes)
  | dmaDescriptorDone (n : Nat) (data : Bytes) (next : Bytes)
  | dmaReadError (n : Nat) (data : Bytes)
  | dmaRrdWrite (n : Nat) (v : BitVec 32)
  | deliveryEntry (f : ZFrame)
  | dmaThresholdTimeout (n : Nat)
  | dmaDrainRequest
  | dmaPausedPower (n : Nat) (data : Bytes)
  | dmaAbortPower (n : Nat) (data : Bytes)
  -- mailbox and patterns
  | mbxPost (port : HostPort) (mask : BitVec 8)
  | mbxReadyClear (port : HostPort) (mask : BitVec 8)
  | mbxTimeout (port : HostPort) (slot : Nat)
  | nop (h : CmdHdr) (p : Bytes)
  | ident (h : CmdHdr) (p : Bytes)
  | regRead (h : CmdHdr) (p : Bytes)
  | regWrite (h : CmdHdr) (p : Bytes)
  | reset (h : CmdHdr) (p : Bytes)
  | patSet (h : CmdHdr) (p : Bytes)
  | patGet (h : CmdHdr) (p : Bytes)
  | patDiscard (h : CmdHdr) (p : Bytes)
  | commitAt (h : CmdHdr) (p : Bytes)
  | commitCancel (h : CmdHdr) (p : Bytes)
  | patSave (h : CmdHdr) (p : Bytes)
  | patSaved (slot : Nat)
  | patLoad (h : CmdHdr) (p : Bytes)
  | ringReplay (h : CmdHdr) (p : Bytes)
  -- interrupts, inputs, queues
  | icClaim (mgmt : Bool)
  | icComplete (mgmt : Bool) (src : Nat)
  | icMaskWrite (mgmt : Bool) (n : Nat) (mask : BitVec 64)
  | coreDoorbell (fromMgmt : Bool)
  | interruptSourcePend (src : Nat) (level : Bool)
  /-- `samples` equal samples of an input, `level` after INVERT -/
  | diEdge (input : Nat) (level : Bool) (samples : Nat)
  | qWrite (q : Nat) (words : List (BitVec 32)) (last : Bool)
  | qDrop (q : Nat)
  | qFlush (q : Nat)
  | qStale (q : Nat)
  -- seal, authorisation, trail, debug, update
  /-- `samples` equal samples of SEAL_SW -/
  | sealSwChange (opened : Bool) (samples : Nat)
  | lifecycleSet (h : CmdHdr) (p : Bytes)
  | keyInstall (h : CmdHdr) (p : Bytes)
  | keyRevoke (h : CmdHdr) (p : Bytes)
  | authChallenge (h : CmdHdr) (p : Bytes)
  | nonceExpiry
  | authLockoutEnd
  | auditRecordWrite (readBackOk : Bool)
  | auditTokenRefill (code : Nat)
  | trailRead (h : CmdHdr) (p : Bytes)
  | trailClear (h : CmdHdr) (p : Bytes)
  | trailCleared
  | debugSet (h : CmdHdr) (p : Bytes)
  | metroId (h : CmdHdr) (p : Bytes)
  | updateBegin (h : CmdHdr) (p : Bytes)
  | fwChrysalisReady
  | updateWrite (h : CmdHdr) (p : Bytes)
  | updateVerify (h : CmdHdr) (p : Bytes)
  | fwVerifyDone
  | updateActivate (h : CmdHdr) (p : Bytes)
  -- cast-on, power states, management
  | logicPowerOnReset
  | castOn (memoryOk feA feB : Bool)
  | resetNAssert (railLost : Bool)
  | fieldDiePowerUp (die : Die)
  | isoLanesLocked (die : Die)
  | isoLaneLost (die : Die) (lane : Nat)
  | isoLaneRetrained (die : Die) (lane : Nat)
  | pwrState (h : CmdHdr) (p : Bytes)
  | bindOff (h : CmdHdr) (p : Bytes)
  | bindOffDone
  | hlogRead (h : CmdHdr) (p : Bytes)
  | wake (src : WakeSrc)
  | sentinelSample (samples : List (Nat × Int))
  | rtcAlarm
  | mgWake
  | mgRead (block : Nat) (reg : Nat) (index : Nat)
  | coreWatchdog (mgmt : Bool)
  | sensorUpdate (vals : List (Int × Nat))
  | sensorAlarmClear (die : Die)
  | mdScrub (r : ScrubResult)
  | hlogFlush
  | vaonLost
  | powerStateChanged
  | debugAttached
  | announceReceiptTimeout (dom : Nat)
  | syncCopyLost (dom : Nat)
deriving DecidableEq, Repr

end Sys2Proof
end

