-- ==== Sys2Proof/Decode.lean ====
section
/-!
DEFINITION. The command that a word spells. The rows of spec/opcode_table.json carry no bits: a command reaches the block
through the mailbox (R463), a register port (R402), the ring (R364) or a pin, and no row is spelt by one word of bits.
-/
namespace Sys2Proof

/-- No row of the table gives bits, so no word spells a command. -/
def decodeTableWord (_nbits _w : Nat) : Option Instr := none

end Sys2Proof
end

