-- ==== Sys2Proof/Config.lean ====
section
/-!
DEFINITION. What one PX256 fixes and the spec does not state: fuses, straps, keys, ROM contents whose values the manual
does not print, and the free values of the model. Every constant here is opaque: no proof can see a value of it, so a
statement about it holds for every value (notes/assumptions/3.md and the entries named below).
-/
namespace Sys2Proof.Config

/-- UID of the device (R463, R489); a fuse. -/
opaque uid : BitVec 64
/-- The stepping is B0, and the stepping byte of MBX_IDENT: 0xA0 or 0xB0 (R3, R401). -/
opaque isB0 : Bool
def stepping : BitVec 8 := if isB0 then 0xB0 else 0xA0
/-- RELEASE of the firmware image in each slot (R401, R549); the major release is 3 on a modelled device (R3). -/
opaque fwMinor : Nat → BitVec 8
/-- FW_ID of the image that production wrote into each slot (R533, R549). -/
opaque fwId : Nat → BitVec 256
/-- Stream length and decompressed image length that production wrote (R549). -/
opaque secVersion : Nat → Nat
/-- The device key (R537): fused, readable by no port. -/
opaque deviceKey : BitVec 256
/-- Goltuda release key and production key, as x and y (R525, R551). -/
opaque releaseKey : BitVec 512
opaque productionKey : BitVec 512
/-- Factory trim of a slice for a gain code: OFFSET, GAIN (2.30), PHASE (R107). -/
opaque factoryTrim : Nat → Nat → Int × Nat × Int
/-- Factory latencies RX_LAT and TX_LAT of a port (R247, R254). -/
opaque rxLat : Nat → BitVec 16
opaque txLat : Nat → BitVec 16
/-- Levels of the strap balls at a release of the logic power-on reset (R597): MG_ADDR0–2, ZA_MEDIA, ZB_MEDIA, VSEL_1–4. -/
opaque straps : Nat → BitVec 9
/-- FIR and half-band coefficients in LD ROM as binary32: set, order, tap (R151). -/
opaque firTap : Nat → Nat → Nat → BitVec 32
/-- The match hash of the compressor over the next 8 bytes (R332). -/
opaque kzHash : BitVec 64 → Nat
/-- MEMORY of the cast-on header: the audit trail lies in FRAM (R581). -/
opaque memoryFram : Bool
/-- Where in configuration space the PCI Express and the MSI-X capability begin (R395 gives no place). -/
opaque pcieCapSlot : Nat
opaque msixCapSlot : Nat
/-- SUBSYS_VENDOR and SUBSYS_ID of the cast-on header (R395, R581). -/
opaque subsysVendor : BitVec 16
opaque subsysId : BitVec 16

/-! ### Free values (R177, R530 and the rules named): what a rule leaves open while the machine goes on. -/

/-- A random number of the nonce generator (R529), fresh for every draw. -/
opaque freeNonce : Nat → BitVec 128
/-- A value that a rule leaves open, fresh for every draw: bytes of a retimed capture, an unsettled stitch. -/
opaque freeWord : Nat → BitVec 64
/-- Phase in 1/4096 of a turn of a vector that has no direction (R120, R220). -/
opaque zeroPhase : Int
/-- Which neighbour on its grid the demodulator's reference takes for the sine of a step (R145 names the function and no
width of it). -/
opaque sineUp : Nat → Bool
/-- The step from row to row that the fractional-delay interpolator takes from the latest row values (R224). -/
opaque skewSlope : List Int → Int
/-- Whether Horner's scheme nests the powers of t inside those of x (R177), and whether a step is fused. -/
opaque hornerTInner : Bool
opaque hornerFused : Bool
/-- Whether a quotient that is not exact is rounded up to a register's unit, where the rule names no rounding (R120, R129,
R254); else it is rounded down. -/
opaque roundsUp : Int → Nat → Bool

/-- Bytes of MD that the class buffers, the log and the replay window share (R298). The spec gives no capacity; without buffers
no pattern leaves the log less than 64 MiB beside the largest replay window, 256 MiB (R299, R383; DEDUCED,
notes/assumptions/17.md). -/
opaque mdRest : Nat
def mdBytes : Nat := 320 * 2 ^ 20 + mdRest
/-- DETAIL of a BAD_PARAM that a header field causes: R470 defines it for payload fields only. -/
opaque headerDetail : BitVec 16
/-- Which of the two structures that a whole-pattern check compares DETAIL names (R470 leaves it open): check 0 K − HB − f
(ROW_CFG, CHAIN_CFG), 1 K and CARRIER (ROW_CFG, EXC_CFG), 2 a class with no members (TS_PROG, SKC_CFG). -/
opaque wholeFirst : Nat → Bool
/-- UID of a station that the root has not met through HELLO: R359 does not say how the root learns it. -/
opaque stationUid : Nat → BitVec 64

/-- currentUtcOffset and leap flags of the source of each domain at a grandmaster with SRC FREE or PPS_TOD (R253): no rule says
where the source gives them. -/
opaque sourceUtc : Nat → BitVec 16
opaque sourceLeap61 : Nat → Bool
opaque sourceLeap59 : Nat → Bool
/-- clockClass that a grandmaster announces while its base is in ACQUIRING or UNSET: R253 names none. -/
opaque acquiringClass : BitVec 8

end Sys2Proof.Config
end

