-- ==== Sys2Proof/Machine/Tbl.lean ====
section
/-!
DEFINITION. The operations on sparse tables (Tbl): the one canonical form in which the model holds registers, buffers and
memories addressed by a number, and the bit masks that it keeps as numbers. notes/assumptions/5.md.
-/
namespace Sys2Proof.Machine

/-- The canonical form: keys strictly rising and no entry equal to the default. -/
def Tbl.wf {α : Type} [DecidableEq α] (d : α) : Tbl α → Bool
  | [] => true
  | [(_, v)] => v ≠ d
  | (k, v) :: (k', v') :: r => k < k' && v ≠ d && Tbl.wf d ((k', v') :: r)

/-- What key `k` reads as: its entry, or the default where none is listed. -/
def Tbl.get {α : Type} (d : α) : Tbl α → Nat → α
  | [], _ => d
  | (k', v) :: r, k => if k = k' then v else Tbl.get d r k

/-- Put `v` at a key that is absent from the table's head, or replace it (no test for the default). -/
def Tbl.put {α : Type} : Tbl α → Nat → α → Tbl α
  | [], k, v => [(k, v)]
  | (k', v') :: r, k, v =>
    if k < k' then (k, v) :: (k', v') :: r
    else if k = k' then (k, v) :: r
    else (k', v') :: Tbl.put r k v

/-- Remove a key, wherever it stands: a table in canonical form lists it once at most. -/
def Tbl.del {α : Type} : Tbl α → Nat → Tbl α
  | [], _ => []
  | (k', v') :: r, k => if k = k' then Tbl.del r k else (k', v') :: Tbl.del r k

/-- Write `v` at `k`, keeping the canonical form: writing the default removes the entry. -/
def Tbl.set {α : Type} [DecidableEq α] (d : α) (t : Tbl α) (k : Nat) (v : α) : Tbl α :=
  if v = d then Tbl.del t k else Tbl.put t k v

/-- Change the entry at `k`. -/
def Tbl.upd {α : Type} [DecidableEq α] (d : α) (t : Tbl α) (k : Nat) (f : α → α) : Tbl α :=
  Tbl.set d t k (f (Tbl.get d t k))

/-- Write `f k` at every key of a list. -/
def Tbl.updAll {α : Type} [DecidableEq α] (d : α) (t : Tbl α) (ks : List Nat) (f : Nat → α → α) : Tbl α :=
  ks.foldl (fun t k => Tbl.upd d t k (f k)) t

/-- Write consecutive entries from key `k`: the bytes of a run. -/
def Tbl.setRun {α : Type} [DecidableEq α] (d : α) (t : Tbl α) (k : Nat) : List α → Tbl α
  | [] => t
  | v :: r => Tbl.setRun d (Tbl.set d t k v) (k + 1) r

/-- Read `n` consecutive entries from key `k`. -/
def Tbl.run {α : Type} (d : α) (t : Tbl α) (k n : Nat) : List α :=
  (List.range n).map fun i => Tbl.get d t (k + i)

/-- Saturating count (the "saturating at" of the register tables). -/
def sat (lim n : Nat) : Nat := if n ≤ lim then n else lim

/-- A mask held as a number: bit `i` set or cleared. -/
def bitSet (m i : Nat) (b : Bool) : Nat :=
  if b then m ||| (1 <<< i) else if m.testBit i then m - (1 <<< i) else m

/-- Bits of `m` that are not in `c`: what writing 1s clears (R11, W1C). -/
def clearBits (m c : Nat) : Nat := m - (m &&& c)

/-- The numbers below `n` whose bit is set in the mask. -/
def bitsOf (n m : Nat) : List Nat := (List.range n).filter fun i => m.testBit i

/-- How many bits below `n` are set. -/
def popcount : Nat → Nat → Nat
  | 0, _ => 0
  | n + 1, m => (if m.testBit n then 1 else 0) + popcount n m

/-- Quotient rounded up. -/
def ceilDiv (a b : Nat) : Nat := (a + b - 1) / b

/-- Keep at most the first `n` entries: a list bounded in depth, newest first. -/
def bounded {α : Type} (n : Nat) (l : List α) : List α := l.take n

end Sys2Proof.Machine
end

