-- ==== Sys2Proof/Machine/Num.lean ====
section
/-!
DEFINITION. Bytes, fields and arithmetic of the device structures: little-endian numbers (R7), two's complement, rounding
to nearest with ties to even, binary32 and binary64 (R177, R181, R188, R206), CRC-32C (R319), SHA-256 and HMAC (R533,
R537), and the verification of an ECDSA P-256 signature (R529, R551).
-/
namespace Sys2Proof.Machine

/-! ### Bytes and fields -/

/-- The low `n` bytes of a number, least significant first (R7). -/
def le : Nat → Nat → Bytes
  | 0, _ => []
  | n + 1, v => BitVec.ofNat 8 v :: le n (v / 256)

/-- The number that little-endian bytes spell. -/
def leVal : Bytes → Nat
  | [] => 0
  | b :: r => b.toNat + 256 * leVal r

/-- Big-endian bytes: Ethernet and PTP fields (R7), digests, tokens and signatures (R529). -/
def be (n v : Nat) : Bytes := (le n v).reverse

def beVal (b : Bytes) : Nat := leVal b.reverse

/-- The `n` bytes at an offset; bytes beyond the end are absent. -/
def slice (b : Bytes) (off n : Nat) : Bytes := (b.drop off).take n

/-- The little-endian field of `n` bytes at an offset. -/
def fld (b : Bytes) (off n : Nat) : Nat := leVal (slice b off n)

/-- Bits [lo+w-1:lo] of a number (R6). -/
def bits (v lo w : Nat) : Nat := (v >>> lo) % 2 ^ w

/-- Bytes `b` with the field of `n` bytes at `off` set. -/
def putFld (b : Bytes) (off n v : Nat) : Bytes := b.take off ++ le n v ++ b.drop (off + n)

def zeros (n : Nat) : Bytes := List.replicate n 0

def allZero (b : Bytes) : Bool := b.all (· == 0)

/-- The two's-complement number of width `w` that the bits `v` spell. -/
def signed (w v : Nat) : Int := if 2 * (v % 2 ^ w) < 2 ^ w then (v % 2 ^ w : Nat) else (v % 2 ^ w : Nat) - (2 ^ w : Nat)

/-- The `w` bits of a two's-complement number. -/
def unsigned (w : Nat) (i : Int) : Nat := (i % (2 ^ w : Nat)).toNat

def b2n (b : Bool) : Nat := if b then 1 else 0

def clampI (lo hi v : Int) : Int := if v < lo then lo else if hi < v then hi else v

/-! ### Rounding -/

/-- num/den to the nearest integer, ties to even. -/
def rneNat (num den : Nat) : Nat :=
  let q := num / den
  let r := num % den
  if 2 * r < den then q else if 2 * r = den then q + q % 2 else q + 1

def rne (num : Int) (den : Nat) : Int := if num < 0 then -(rneNat num.natAbs den : Int) else rneNat num.natAbs den

/-- num/den to the nearest integer, a tie away from 0. -/
def nearest (num : Int) (den : Nat) : Int :=
  if num < 0 then -(((2 * num.natAbs + den) / (2 * den) : Nat) : Int) else ((2 * num.natAbs + den) / (2 * den) : Nat)

/-- num/den in a register's unit: exact where it divides, else one of its two neighbours. -/
def quot (num : Int) (den : Nat) : Int :=
  if num % den = 0 then num / den else if Config.roundsUp num den then num / den + 1 else num / den

/-! ### Binary floating point: finite values only -/

/-- The finite value (−1)^neg · m · 2^e, with a signed zero. -/
structure Fp where
  neg : Bool
  m   : Nat
  e   : Int
deriving DecidableEq, Repr

def Fp.zero : Fp := ⟨false, 0, 0⟩

/-- m·2^e with the bits below the quantum 2^(e+k) rounded away, ties to even. -/
def Fp.cut (x : Fp) (k : Nat) : Fp := if k = 0 then x else { x with m := rneNat x.m (2 ^ k), e := x.e + k }

/-- Rounded to `p` significant bits. The exponents that the unit meets keep clear of binary64's limits (R178, R190), so
no exponent bound is laid on binary64 here. -/
def Fp.round (p : Nat) (x : Fp) : Fp := if x.m = 0 then x else x.cut (x.m.log2 + 1 - p)

def Fp.ofInt (v : Int) (e : Int) : Fp := ⟨v < 0, v.natAbs, e⟩

/-- The exact value as an integer in units of 2^e, e at most the value's own exponent. -/
def Fp.units (x : Fp) (e : Int) : Int :=
  let v : Int := x.m * 2 ^ (x.e - e).toNat
  if x.neg then -v else v

def minI (a b : Int) : Int := if a < b then a else b
def maxI (a b : Int) : Int := if a < b then b else a

def Fp.addExact (x y : Fp) : Fp :=
  let e := minI x.e y.e
  let s := x.units e + y.units e
  if x.m = 0 ∧ y.m = 0 then ⟨x.neg && y.neg, 0, 0⟩ else Fp.ofInt s e

def Fp.negate (x : Fp) : Fp := { x with neg := !x.neg }

def Fp.mulExact (x y : Fp) : Fp := ⟨x.neg != y.neg, x.m * y.m, x.e + y.e⟩

/-- binary64 sum, difference, product, fused product and sum, quotient. -/
def Fp.add (x y : Fp) : Fp := (x.addExact y).round 53
def Fp.sub (x y : Fp) : Fp := (x.addExact y.negate).round 53
def Fp.mul (x y : Fp) : Fp := (x.mulExact y).round 53
def Fp.fma (x y z : Fp) : Fp := ((x.mulExact y).addExact z).round 53
def Fp.div (x y : Fp) : Fp :=
  if x.m = 0 then ⟨x.neg != y.neg, 0, 0⟩ else
    let k := 60 + y.m.log2
    let n := x.m * 2 ^ k
    let q := n / y.m
    let sticky := if n % y.m = 0 then 0 else 1
    Fp.round 53 ⟨x.neg != y.neg, 2 * q + sticky, x.e - y.e - k - 1⟩

/-- Order of two finite values. -/
def Fp.lt (x y : Fp) : Bool := x.units (minI x.e y.e) < y.units (minI x.e y.e)
def Fp.le (x y : Fp) : Bool := !(Fp.lt y x)

/-- A format of `p` significant bits and smallest quantum 2^qmin, packed with `w` exponent bits. -/
def Fp.pack (p w : Nat) (qmin : Int) (x : Fp) : Nat :=
  let sgn := b2n x.neg * 2 ^ (p - 1 + w)
  if x.m = 0 then sgn else
    let want : Int := (x.m.log2 : Int) + 1 - p
    let k := if want < qmin - x.e then qmin - x.e else want
    let y := if 0 < k then x.cut k.toNat else { x with m := x.m * 2 ^ (-k).toNat, e := x.e + k }
    let y := if y.m = 2 ^ p then { y with m := 2 ^ (p - 1), e := y.e + 1 } else y
    if y.m < 2 ^ (p - 1) then sgn + y.m
    else sgn + (y.e - qmin + 1).toNat * 2 ^ (p - 1) + (y.m - 2 ^ (p - 1))

/-- A finite value of a format; none for an infinity or a NaN. -/
def Fp.unpack (p w : Nat) (qmin : Int) (b : Nat) : Option Fp :=
  let neg := b.testBit (p - 1 + w)
  let ex := (b / 2 ^ (p - 1)) % 2 ^ w
  let fr := b % 2 ^ (p - 1)
  if ex = 2 ^ w - 1 then none
  else if ex = 0 then some ⟨neg, fr, qmin⟩
  else some ⟨neg, fr + 2 ^ (p - 1), qmin + ex - 1⟩

/-- To the nearest binary32, ties to even, for a magnitude that binary32 holds. -/
def Fp.to32 (x : Fp) : Nat := Fp.pack 24 8 (-149) x
def Fp.of32 (b : Nat) : Option Fp := Fp.unpack 24 8 (-149) b
def Fp.to64 (x : Fp) : Nat := Fp.pack 53 11 (-1074) x
def Fp.of64 (b : Nat) : Option Fp := Fp.unpack 53 11 (-1074) b

/-- A binary32 field known to be finite (checked when the structure was staged). -/
def Fp.get32 (b : Nat) : Fp := (Fp.of32 b).getD Fp.zero
def Fp.get64 (b : Nat) : Fp := (Fp.of64 b).getD Fp.zero

def finite32 (b : Nat) : Bool := (Fp.of32 b).isSome

/-- The largest finite binary32 value. -/
def Fp.max32 : Fp := ⟨false, 2 ^ 24 - 1, 104⟩

/-- Whether the magnitude exceeds the largest finite binary32 value (R181). -/
def Fp.over32 (x : Fp) : Bool := Fp.lt Fp.max32 { x with neg := false }

/-- To the nearest integer, ties to even, in units of 2^e. -/
def Fp.toUnits (x : Fp) (e : Int) : Int :=
  if e ≤ x.e then x.units e
  else
    let q : Int := rneNat x.m (2 ^ (e - x.e).toNat)
    if x.neg then -q else q

/-! ### CRC-32C (R319): reflected polynomial 0x82F6_3B78, start and final complement. -/

def crcBit : Nat → Nat → Nat
  | 0, c => c
  | n + 1, c => crcBit n (if c % 2 = 1 then (c / 2) ^^^ 0x82F63B78 else c / 2)

def crcBytes (c : Nat) : Bytes → Nat
  | [] => c
  | b :: r => crcBytes (crcBit 8 (c ^^^ b.toNat)) r

def crc32c (b : Bytes) : Nat := (crcBytes 0xFFFFFFFF b) ^^^ 0xFFFFFFFF

/-! ### SHA-256 and HMAC-SHA-256 -/

/-- The 64 round constants as one number, the first in its most significant 32 bits. -/
def shaConsts : Nat :=
  0x428a2f9871374491b5c0fbcfe9b5dba53956c25b59f111f1923f82a4ab1c5ed5d807aa9812835b01243185be550c7dc372be5d7480deb1fe9bdc06a7c19bf174 * 2 ^ 1536 +
  0xe49b69c1efbe47860fc19dc6240ca1cc2de92c6f4a7484aa5cb0a9dc76f988da983e5152a831c66db00327c8bf597fc7c6e00bf3d5a7914706ca635114292967 * 2 ^ 1024 +
  0x27b70a852e1b21384d2c6dfc53380d13650a7354766a0abb81c2c92e92722c85a2bfe8a1a81a664bc24b8b70c76c51a3d192e819d6990624f40e3585106aa070 * 2 ^ 512 +
  0x19a4c1161e376c082748774c34b0bcb5391c0cb34ed8aa4a5b9cca4f682e6ff3748f82ee78a5636f84c878148cc7020890befffaa4506cebbef9a3f7c67178f2

/-- What a block's rounds work on: the chaining value as one 256-bit number, a in its most significant word, and the last 16
words of the schedule, the word of the present round first. -/
structure ShaWork where
  chain : Nat
  sched : List Nat
deriving DecidableEq, Repr

def cyc (x n : Nat) : Nat := x / 2 ^ n + x % 2 ^ n * 2 ^ (32 - n)

/-- Word `i` of the chaining value, 0 = a to 7 = h. -/
def ShaWork.word (x : ShaWork) (i : Nat) : Nat := bits x.chain (32 * (7 - i)) 32

/-- The schedule moves on by one word. -/
def shaNext (l : List Nat) : List Nat :=
  let x := l.getD 1 0
  let y := l.getD 14 0
  l.drop 1 ++ [(l.headD 0 + (cyc x 7 ^^^ cyc x 18 ^^^ x / 8) + l.getD 9 0 + (cyc y 17 ^^^ cyc y 19 ^^^ y / 1024)) % 2 ^ 32]

/-- The rounds that are left, `n` of 64: every word moves one place down, the new a enters on top and e takes what is added
to d. -/
def shaRounds : Nat → ShaWork → ShaWork
  | 0, x => x
  | n + 1, x =>
    let a := x.word 0
    let e := x.word 4
    let pick := (e &&& x.word 5) ||| ((2 ^ 32 - 1 - e) &&& x.word 6)
    let most := (a &&& (x.word 1 ||| x.word 2)) ||| (x.word 1 &&& x.word 2)
    let add := x.word 7 + (cyc e 6 ^^^ cyc e 11 ^^^ cyc e 25) + pick + bits shaConsts (32 * n) 32 + x.sched.headD 0
    let top := (add + (cyc a 2 ^^^ cyc a 13 ^^^ cyc a 22) + most) % 2 ^ 32
    let low := bits x.chain 32 96 + (x.word 3 + add) % 2 ^ 32 * 2 ^ 96
    shaRounds n ⟨low + bits x.chain 160 96 * 2 ^ 128 + top * 2 ^ 224, shaNext x.sched⟩

/-- Word by word sum of two chaining values. -/
def shaAdd (x y : Nat) : Nat :=
  (List.range 8).foldl (fun t i => t + (bits x (32 * i) 32 + bits y (32 * i) 32) % 2 ^ 32 * 2 ^ (32 * i)) 0

/-- The chaining value after `n` blocks of a padded message. -/
def shaChain : Nat → Nat → Bytes → Nat
  | 0, v, _ => v
  | n + 1, v, b =>
    let w := (List.range 16).map fun i => beVal (slice b (4 * i) 4)
    shaChain n (shaAdd v (shaRounds 64 ⟨v, w⟩).chain) (b.drop 64)

def sha256 (b : Bytes) : BitVec 256 :=
  let tail := [0x80] ++ zeros ((119 - b.length % 64) % 64) ++ be 8 (8 * b.length)
  BitVec.ofNat 256 (shaChain ((b.length + tail.length) / 64)
    0x6a09e667bb67ae853c6ef372a54ff53a510e527f9b05688c1f83d9ab5be0cd19 (b ++ tail))

/-- A digest as the bytes in which it is written: most significant first. -/
def digestBytes (d : BitVec 256) : Bytes := be 32 d.toNat

def hmac (key msg : Bytes) : BitVec 256 :=
  let k := key ++ zeros (64 - key.length)
  sha256 (k.map (· ^^^ 0x5C) ++ digestBytes (sha256 (k.map (· ^^^ 0x36) ++ msg)))

/-! ### ECDSA over P-256: points in Jacobian coordinates, none the point at infinity by Z = 0. -/

def ecP : Nat := 0xFFFFFFFF00000001000000000000000000000000FFFFFFFFFFFFFFFFFFFFFFFF
def ecN : Nat := 0xFFFFFFFF00000000FFFFFFFFFFFFFFFFBCE6FAADA7179E84F3B9CAC2FC632551
def ecB : Nat := 0x5AC635D8AA3A93E7B3EBBD55769886BC651D06B0CC53B0F63BCE3C3E27D2604B
def ecGx : Nat := 0x6B17D1F2E12C4247F8BCE6E563A440F277037D812DEB33A0F4A13945D898C296
def ecGy : Nat := 0x4FE342E2FE1A7F9B8EE7EB4A7C0F9E162BCE33576B315ECECBB6406837BF51F5

/-- a^x mod m over the low `n` bits of x. -/
def powMod (m : Nat) : Nat → Nat → Nat → Nat
  | 0, _, _ => 1 % m
  | n + 1, a, x =>
    let r := powMod m n (a * a % m) (x / 2)
    if x % 2 = 1 then r * a % m else r

def invMod (m a : Nat) : Nat := powMod m 256 (a % m) (m - 2)

def ecSub (a b : Nat) : Nat := (a + ecP - b % ecP) % ecP

structure EcPt where
  x : Nat
  y : Nat
  z : Nat
deriving DecidableEq, Repr

def EcPt.inf : EcPt := ⟨1, 1, 0⟩

def ecDbl (p : EcPt) : EcPt :=
  if p.z = 0 ∨ p.y = 0 then EcPt.inf else
    let yy := p.y * p.y % ecP
    let s := 4 * p.x * yy % ecP
    let zz := p.z * p.z % ecP
    let m := 3 * (ecSub p.x zz) * (p.x + zz) % ecP
    let x := ecSub (m * m % ecP) (2 * s)
    ⟨x, ecSub (m * ecSub s x % ecP) (8 * (yy * yy % ecP)), 2 * p.y * p.z % ecP⟩

def ecAdd (p q : EcPt) : EcPt :=
  if p.z = 0 then q else if q.z = 0 then p else
    let pz2 := p.z * p.z % ecP
    let qz2 := q.z * q.z % ecP
    let u1 := p.x * qz2 % ecP
    let u2 := q.x * pz2 % ecP
    let s1 := p.y * qz2 % ecP * q.z % ecP
    let s2 := q.y * pz2 % ecP * p.z % ecP
    if u1 = u2 then (if s1 = s2 then ecDbl p else EcPt.inf) else
      let h := ecSub u2 u1
      let r := ecSub s2 s1
      let h2 := h * h % ecP
      let h3 := h2 * h % ecP
      let v := u1 * h2 % ecP
      let x := ecSub (ecSub (r * r % ecP) h3) (2 * v)
      ⟨x, ecSub (r * ecSub v x % ecP) (s1 * h3 % ecP), p.z * q.z % ecP * h % ecP⟩

/-- k·P over the low `n` bits of k. -/
def ecMul : Nat → Nat → EcPt → EcPt
  | 0, _, _ => EcPt.inf
  | n + 1, k, p =>
    let q := ecMul n (k / 2) (ecDbl p)
    if k % 2 = 1 then ecAdd p q else q

/-- Verification of a signature (r, s) on a digest under a public key x ‖ y. -/
def ecdsaVerify (key : BitVec 512) (digest : BitVec 256) (r s : Nat) : Bool :=
  let x := key.toNat / 2 ^ 256
  let y := key.toNat % 2 ^ 256
  let onCurve := x < ecP && y < ecP && (y * y % ecP == (x * x % ecP * x + (ecP - 3) * x + ecB) % ecP)
  if !onCurve || r = 0 || s = 0 || ecN ≤ r || ecN ≤ s then false else
    let w := invMod ecN s
    let u1 := digest.toNat * w % ecN
    let u2 := r * w % ecN
    let p := ecAdd (ecMul 256 u1 ⟨ecGx, ecGy, 1⟩) (ecMul 256 u2 ⟨x, y, 1⟩)
    if p.z = 0 then false else
      let zi := invMod ecP p.z
      (p.x * (zi * zi % ecP) % ecP) % ecN == r

end Sys2Proof.Machine
end

