-- ==== Sys2Proof/Machine/State.lean ====
section
/-!
DEFINITION. The state of the block as plain data: one structure per block of the spec, its registers' fields under their
own names, its queues and buffers, and the queue of waiting commands (R10, R24). Reserved fields read as 0 and are not
held (R14). State.reset is the state at the release of the logic power-on reset, before cast-on (R561, R573); values the
spec does not state are named in notes/assumptions/4.md.
-/
namespace Sys2Proof.Machine

/-- A boundary or a base in units of 2^-32 ns (R234). -/
abbrev Fns := Nat

/-! ### Rows, channels and clusters (chapters 01, 02, 03, 04) -/

/-- Why no stream is open, or that one is (R165, R244, R261, R482). -/
inductive StreamPhase where
  /-- no stream is asked for: before cast-on, in WATCH, after bind-off -/
  | closed
  /-- a new epoch waits for its base to be loaded (R244) -/
  | waitBase
  /-- a new epoch waits for a SYNC (SYNC_START, R165) -/
  | waitSync
  /-- a new epoch waits for its first boundary (R261) -/
  | waitStart
  | running
deriving DecidableEq, Repr

/-- The row stream and its grid (R29, R142, R261, R266). -/
structure RowSt where
  phase     : StreamPhase
  /-- index of the row in production -/
  row       : Nat
  /-- B_(-1) of the epoch and the last boundary, in the selected base -/
  start     : Fns
  last      : Fns
  /-- instant from which the waiting stream counts as ready (R261, R482) -/
  readyAt   : Fns
  /-- B_(-1) fixed by a START event or a SYNC (R165, R271) -/
  startAt   : Option Fns
  /-- the pattern epoch in force (R479) -/
  epoch     : Nat
  /-- the row stream is refused admission (R378) -/
  refused   : Bool
deriving DecidableEq, Repr

/-- Decimation chain: CIC order, half-band stages, FIR set (R150). -/
structure Chain where
  order  : Nat
  hb     : Nat
  firSet : Nat
deriving DecidableEq, Repr

/-- The chain in force and a transition under R161. -/
structure ChainSt where
  cur      : Chain
  k        : Nat
  /-- chain of the clusters not yet switched -/
  old      : Option Chain
  switched : Nat
  /-- first row after the transition (R156 TRANSITION) -/
  transEnd : Nat
deriving DecidableEq, Repr

/-- FLT_SYNCSTAT (R167), the pending running SYNC (R165) and the SYNC_OUT ball (R168). -/
structure SyncSt where
  count   : Nat
  lastSrc : Nat
  offGrid : Bool
  phaseErr : Int
  lastRow : Nat
  /-- source of the SYNC that acts at the next boundary: 0 none, 1 SYNC_IN, 2 command, 3 time event -/
  pending : Nat
  outHigh : Bool
deriving DecidableEq, Repr

/-- What the filter engine and the detectors hold per channel (R73, R74, R90, R94, R158). -/
structure Chan where
  /-- rows below this index carry UNS -/
  unsEnd    : Nat
  openP     : Bool
  openN     : Bool
  /-- the clamp is engaged in the row in production, and was in the last row -/
  clampNow  : Bool
  clampLast : Bool
  latched   : Bool
  /-- flags of the row in production that come with it: RCF, HND -/
  rcf       : Bool
  hnd       : Bool
  /-- history of the signal-open detectors (R95): bit j is set when their statistic was out of band j rows before the last
  produced row; 128 rows -/
  hist      : Nat
  /-- the test-current response of the latest odd-index row was out of band (R87) -/
  testOut   : Bool
deriving DecidableEq, Repr

def Chan.init : Chan := ⟨0, false, false, false, false, false, false, false, 0, false⟩

/-- One correction set of a slice (R107), with TB2 at its calibration. -/
structure CorrSet where
  offset : Int
  gain   : Nat
  phase  : Int
  calAt  : Option Fns
deriving DecidableEq, Repr

/-- What is held per physical slice besides its correction sets: overload detector (0 none, 1 positive, 2 negative, 3 and 4
one that has cleared within the row in production), failure count and SUSPECT mark (R125, R612). -/
structure Slice where
  ovl     : Nat
  fails   : Nat
  suspect : Bool
  /-- the overload detector was active in the last row produced -/
  ovlLast : Bool
  /-- rows below this index are unsettled: what a spare shows instead of a channel's UNS (R122, R158, R612) -/
  unsEnd  : Nat
deriving DecidableEq, Repr

def Slice.init : Slice := ⟨0, 0, false, false, 0⟩

/-- The state of one decimation chain (R160): CIC integrators and combs, the half-band delay lines and the FIR delay line,
newest value first. -/
structure ChainMem where
  ints  : List Int
  combs : List Int
  hb    : List (List Fp)
  fir   : List Fp
deriving DecidableEq, Repr

/-- STATE of FLT_EXSTAT_nn (R70) but for LIMIT, which a driver in current limit shows in place of the sequence that it is
in (Drv.inLimit). -/
inductive DrvState where
  | parked | check | ramp | regulating | fourWire | fallback | shortParked | reversedParked | thermalParked
deriving DecidableEq, Repr

/-- An excitation driver: FLT_EXSTAT_nn and what its sequences hold (R63, R68, R70, R89, R91). -/
structure Drv where
  st       : DrvState
  live     : Nat
  latched  : Nat
  ratio    : Nat
  retries  : Nat
  /-- in current limit now (R63): STATE shows LIMIT, and the sequence goes on when the limit ends -/
  inLimit  : Bool
  /-- in current limit when the row in production began (R63), and the first row of the unbroken run of such rows (R95) -/
  limit    : Bool
  limFrom  : Nat
  /-- WFT holds from the onset of a short until the first row in REGULATING (R91) -/
  wftHold  : Bool
  /-- the ramp in progress belongs to a short already declared (R91) -/
  retrying : Bool
  /-- a sense fault has cleared and six-wire operation returns at the next boundary (R90) -/
  restoring : Bool
  /-- histories of the three sense detectors, as Chan.hist: below 50 %, below 25 % at the limit, reversed (R86, R95) -/
  histOpen  : Nat
  histShort : Nat
  histRev   : Nat
deriving DecidableEq, Repr

def Drv.init : Drv := ⟨.parked, 0, 0, 0, 0, false, false, 0, false, false, false, 0, 0, 0⟩

/-- PHASE of FLT_ROTSTAT_nn (R129). -/
inductive RotPhase where
  | disabled | cal | ladderWait | settle | shadow | defer | frozen | paused | noSpare
deriving DecidableEq, Repr

/-- The measurement phases of R112. -/
inductive MeasPhase where
  | zero | gainPos | gainNeg | phase | done
deriving DecidableEq, Repr

/-- What the calibration integrator holds of one measurement phase (R120): sums of the demodulated samples, in phase and in
quadrature, in units of 2^-61 FS, and how many samples. -/
structure PhaseSum where
  i : Int
  q : Int
  n : Nat
deriving DecidableEq, Repr

def PhaseSum.zero : PhaseSum := ⟨0, 0, 0⟩

/-- A rotation step with the values in force when it began (R112, R119, R122). -/
structure RotStep where
  window   : Nat
  tol      : Nat
  rateGate : Nat
  deferMax : Nat
  /-- C of R112 without the rows spent waiting, and the rows spent waiting (R114) -/
  cRows    : Nat
  waited   : Nat
  /-- rows of the measurement phases, C − L, and how many of them have been integrated -/
  mRows    : Nat
  elapsed  : Nat
  /-- the ZERO part of the row in which the wait for the ladder began has been integrated -/
  zeroDone : Bool
  meas     : MeasPhase
  /-- the integrator, by phase: 0 ZERO, 1 GAIN_POS, 2 GAIN_NEG, 3 PHASE -/
  sums     : Tbl PhaseSum
  /-- gain code for which the spare is calibrated -/
  gain     : Nat
  /-- first row of the settling and of the shadow window -/
  settleAt : Nat
  shadowAt : Nat
  /-- differences of the latest rows of the window, newest first, in units of 2^-61 FS -/
  diffs    : List Int
  deferred : Nat
  /-- a spare with a new set waits in OPEN while frozen (R127) -/
  waiting  : Bool
deriving DecidableEq, Repr

def RotStep.init : RotStep := ⟨64, 20, 10, 16, 0, 0, 0, 0, false, .done, [], 7, 0, 0, [], 0, false⟩

/-- FLT_ROTSTAT_nn (R129) and the step in progress. -/
structure Rot where
  phase      : RotPhase
  target     : Nat
  lastDiff   : Int
  lastResult : Nat
  tcalEff    : Nat
  hndRow     : Nat
  step       : RotStep
  /-- slots that ROT_CLEAR_SUSPECT returns at the next row boundary (R27, R126) -/
  clears     : List Nat
  /-- the window has ended within the row in production: the spare stays on its source until the row boundary, at which the next
  step begins (R100, R112) -/
  ended      : Bool
deriving DecidableEq, Repr

def Rot.init : Rot := ⟨.paused, 0, 0, 0, 0, 0, RotStep.init, [], false⟩

/-- The live map of a cluster (R20, R22), its driver and its rotation. -/
structure Cluster where
  slots      : List Nat
  spare      : Nat
  spareValid : Bool
  mapSeq     : Nat
  drv        : Drv
  rot        : Rot
deriving DecidableEq, Repr

def Cluster.init : Cluster := ⟨[0, 1, 2, 3, 4, 5, 6, 7], 8, true, 0, Drv.init, Rot.init⟩

/-- Arbitration state of one resource (R42, R43): lost consecutive grants per position, and the round-robin pointer
(0 before the first position, p + 1 after position p). -/
structure Arb where
  lost : Tbl Nat
  ptr  : Nat
deriving DecidableEq, Repr

def Arb.init : Arb := ⟨[], 0⟩

/-- A region's reference ladder (R114). -/
structure Ladder where
  holder  : Option Nat
  waiting : List Nat
  arb     : Arb
deriving DecidableEq, Repr

def Ladder.init : Ladder := ⟨none, [], Arb.init⟩

/-- A field die (R84, R85, R562, R564). -/
structure FieldDie where
  powered   : Bool
  /-- enabled and on its way through R562 -/
  starting  : Bool
  railsOk   : Bool
  reversed  : Bool
  /-- VF_OUT_OF_RANGE stands -/
  outRange  : Bool
  /-- both rails are back in range within the row in production: WFT ends with it (R85) -/
  rangeBack : Bool
  /-- the rails have collapsed while powered, and VF_OUT_OF_RANGE is still to be declared: the first row that the die did
  not convert (R85) -/
  stopRow   : Option Nat
  /-- powered once since cast-on: the factory trims have been read (R562 step 3) -/
  trimmed   : Bool
  /-- leaves PARKED at the next boundary (R562 step 4) -/
  unpark    : Bool
  /-- data lanes without lock, and lanes retrained in the row in production (R564) -/
  lanesLost : List Nat
  lanesBack : List Nat
  /-- powered down by a temperature alarm (R582) -/
  alarmed   : Bool
  /-- history of the supply monitor, as Chan.hist (R95) -/
  hist      : Nat
deriving DecidableEq, Repr

def FieldDie.init : FieldDie := ⟨false, false, true, false, false, false, none, false, false, [], [], false, 0⟩

/-- FLT_WFLAST (R99). -/
structure WfLast where
  kind   : Nat
  scope  : Nat
  onset  : Nat
  detect : Nat
  valid  : Bool
  count  : Nat
deriving DecidableEq, Repr

/-- A FAULT marker (R97). -/
structure Marker where
  kind   : Nat
  scope  : Nat
  onset  : Nat
  detect : Nat
deriving DecidableEq, Repr

/-- What the step of a row is evaluated against besides its stitches (R281): comparators initialised, asserted and
deasserted, STABLE, the inputs, the time events that fired, and TB2 at B_N (R286); and what its frame says of it. -/
structure RowEv where
  init    : Nat
  rise    : Nat
  fall    : Nat
  stable  : Nat
  diLevel : Nat
  diRise  : Nat
  diFall  : Nat
  te      : Nat
  tb2     : Fns
  /-- the row's ROW_TIME (R269): base, flags, t_N in both bases -/
  base    : Nat
  tflags  : Nat
  timeSel : Fns
  timeOther : Fns
  /-- the pattern epoch and the STREAM_CFG in force in the row, and the stream's weighing points (R368, R479) -/
  epoch   : Nat
  stream  : Bytes
  wpMask  : Nat
  /-- an uncorrectable word in the row queue, or in the class buffers whose bit is set (R584) -/
  mdFrame : Bool
  mdCls   : Nat
deriving DecidableEq, Repr

def RowEv.none : RowEv := ⟨0, 0, 0, 0, 0, 0, 0, 0, 0, 0, 0, 0, 0, 0, [], 0, false, 0⟩

/-- A produced row: its S32 stitches, L32 values with their flag bytes, W64 stitches, and the comparator states after
it (R195–R198, R308). `w64` lists every stitch formed. -/
structure RowRec where
  row  : Nat
  s32  : Tbl Nat
  l32  : Tbl (Nat × Nat)
  w64  : Tbl Nat
  cmp0 : Nat
  ev   : RowEv
deriving DecidableEq, Repr

/-- The filter engine and the row stream. -/
structure Flt where
  rows     : RowSt
  chain    : ChainSt
  sync     : SyncSt
  clusters : Tbl Cluster
  chans    : Tbl Chan
  slices   : Tbl Slice
  /-- correction sets, keyed by 8·slice + gain code; unlisted: the set read from the fuses -/
  corr     : Tbl CorrSet
  ladders  : Tbl Ladder
  dies     : Tbl FieldDie
  /-- the demodulated and filtered values of the slices in the last row, in units of 2^-31 FS: in phase and in quadrature -/
  inPhase  : Tbl Int
  quad     : Tbl Int
  /-- the chains of the slices, in phase and in quadrature; an unlisted one is cleared -/
  chainI   : Tbl ChainMem
  chainQ   : Tbl ChainMem
  /-- the latest row values that each channel's skew interpolator holds, newest first (R224) -/
  skewRows : Tbl (List Int)
  wfLast   : WfLast
  /-- FLT_THR_ww and the edges of the last row, one bit per comparator q (R169, R173) -/
  thrState : Nat
  thrInit  : Nat
  thrEvent : Nat
  thrRise  : Nat
  thrFall  : Nat
  /-- produced rows, newest first: the class buffers' and the row queue's content (R298, R432) -/
  recent   : List RowRec
deriving DecidableEq, Repr

/-! ### Auxiliary converters and linearisation (chapters 03, 05) -/

/-- An auxiliary result as AUXDATA_xx and AUX_RESULT_xx_ii hold it (R136). -/
structure AuxData where
  value   : Nat
  entry   : Nat
  ovr     : Bool
  isNew   : Bool
  scanRow : Nat
  /-- the result reported AUX_SOURCE_FAULT (R139, R183) -/
  faulty  : Bool
deriving DecidableEq, Repr

def AuxData.init : AuxData := ⟨0, 0, false, false, 0, false⟩

/-- An auxiliary converter (R134–R138). -/
structure AuxSt where
  data     : AuxData
  results  : Tbl AuxData
  lost     : Nat
  ovrLatch : Bool
  ovrCount : Nat
  running  : Bool
  next     : Nat
  scanRow  : Nat
deriving DecidableEq, Repr

def AuxSt.init : AuxSt := ⟨AuxData.init, [], 0, false, 0, false, 0, 0⟩

/-- The temperature of a channel (R183, R187): θ as binary64 before clamping, state and age. -/
structure TempCh where
  theta : BitVec 64
  /-- 0 live, 1 waiting for the first result, 2 stale -/
  st    : Nat
  age   : Nat
  /-- TB2 at the last usable result, or when the wait for the first one began (R185) -/
  since : Fns
deriving DecidableEq, Repr

def TempCh.init : TempCh := ⟨0x4034000000000000, 0, 0, 0⟩

/-- The linearisation and combination unit. -/
structure Lin where
  temps    : Tbl TempCh
  /-- θ in use after clamping, and whether it was clamped, at the last row -/
  clamped  : Nat
  stable   : Nat
  /-- clean consecutive W values of each weighing point, newest first, binary32 (R192) -/
  motion   : Tbl (List (BitVec 32))
  lOvf     : Bool
  wOvf     : Bool
  tempSub  : Bool
  lastCh   : Nat
  lastWp   : Nat
  ovfCount : Nat
  subNow   : Nat
  /-- channels and weighing points whose last stitch overflowed (R203) -/
  ovfCh    : Nat
  ovfWp    : Nat
  /-- weighing points whose configuration changes in the row in production (RCF, R191) -/
  wpRcf    : Nat
  /-- changes of WP_CFG in the last 128 rows, oldest first: the row from which the new one holds, the weighing point, and the
  channels of the old one (R96) -/
  wpPast   : List (Nat × Nat × Nat)
  /-- channels whose LIN_CFG or TEMP_CFG changes in the row in production (R197) -/
  linRcf   : Nat
  /-- region sensors in 1/128 °C (R184) -/
  region   : Tbl Int
deriving DecidableEq, Repr

/-! ### Calibration (chapter 06) -/

/-- The measurement kinds. -/
inductive MeasKind where
  | point | phase | skew | fdt
deriving DecidableEq, Repr

/-- Accumulator of one channel of a measurement: in binary64 sum and extremes of x_s, rows, and whether a row was flagged
(R214, R215); exact sums of the row values in phase and in quadrature (R220), and of x_s times sine and cosine (R225); the
largest detector statistics (R228). -/
structure MeasAcc where
  sum     : BitVec 64
  lo      : BitVec 64
  hi      : BitVec 64
  rows    : Nat
  flagged : Bool
  inPhase : Int
  quad    : Int
  sine    : Int
  cosine  : Int
  quadMax : Nat
  testMax : Nat
deriving DecidableEq, Repr

def MeasAcc.init : MeasAcc := ⟨0, 0, 0, 0, false, 0, 0, 0, 0, 0, 0⟩

/-- A running measurement (R204, R205): channel mask, cluster mask, window and arguments. -/
structure Meas where
  kind   : MeasKind
  mask   : Nat
  point  : Nat
  n      : Nat
  first  : Nat
  ref    : Nat
  exp    : Nat
  via    : Nat
  acc    : Tbl MeasAcc
  /-- gain and excitation per channel when the window began (R214) -/
  cond   : Tbl Nat
  /-- gain and excitation, and PHASE_TRIM, per channel in the latest row of the window (R220) -/
  condEnd : Tbl Nat
  trim   : Tbl Int
deriving DecidableEq, Repr

/-- FLT_CALRES_ccc (R219) with the condition recorded for each point (R214). -/
structure CalRes where
  mean0    : Int
  mean1    : Int
  pOffset  : Int
  pGain    : Nat
  spread   : Nat
  residual : Int
  reason   : Nat
  points   : Nat
  proposal : Bool
  cond0    : Nat
  cond1    : Nat
  zeroOnly : Bool
  theta    : BitVec 32
  /-- condition and θ that the proposal was solved from (R207, R217) -/
  pCond    : Nat
  pTheta   : BitVec 32
deriving DecidableEq, Repr

def CalRes.init : CalRes := ⟨0, 0, 0, 0, 0, 0, 0, 0, false, 0, 0, false, 0, 0, 0⟩

/-- FLT_TRIMRES_ccc (R226). -/
structure TrimRes where
  delta   : Int
  pTrim   : Int
  dtau    : Int
  pSkew   : Int
  phValid : Bool
  skValid : Bool
deriving DecidableEq, Repr

def TrimRes.init : TrimRes := ⟨0, 0, 0, 0, false, false⟩

/-- The calibration engine, the swatch store (two copies of 256 records) and FDT_PROPOSAL_nn. -/
structure Cal where
  running  : Option Meas
  res      : Tbl CalRes
  trims    : Tbl TrimRes
  fdt      : Tbl Nat
  mismatch : Nat
  swRow    : Tbl Nat
  store0   : Tbl Bytes
  store1   : Tbl Bytes
deriving DecidableEq, Repr

/-! ### Time unit (chapter 07) -/

/-- STATE of TB_STAT_n (R240). -/
inductive BaseState where
  | unset | acquiring | locked | holdover | freerun | localBase | host
deriving DecidableEq, Repr

/-- currentUtcOffset and the leap flags (R253). -/
structure Utc where
  offset : BitVec 16
  leap61 : Bool
  leap59 : Bool
deriving DecidableEq, Repr

/-- A time base with its registers and the servo's counts (R232–R245, R249, R264). -/
structure Base where
  val      : Fns
  incr     : Nat
  slewOfs  : Int
  slewRate : Nat
  /-- remaining slew in units of 2^-32 ns -/
  slewRem  : Int
  /-- part of a unit of the slew that the ticks so far have earned, in 10^-9 -/
  slewFrac : Nat
  st       : BaseState
  reload   : Bool
  path     : Nat
  reject   : Nat
  hops     : Nat
  offset   : Int
  gmId     : BitVec 64
  cls      : Nat
  inLock   : Nat
  over4    : Nat
  overJump : Nat
  /-- clockClass announced when the base last became LOCKED (R264) -/
  clsLock  : Nat
  /-- hops of the Sync copy at ZA and at ZB, none where lost (R249) -/
  copyA    : Option Nat
  copyB    : Option Nat
  /-- TB2 at the latest Sync of the domain (R264) -/
  syncAt   : Option Fns
  /-- the domain has failed and not yet recovered (R241, R264) -/
  failed   : Bool
  /-- currentUtcOffset and leap flags last announced for the domain (R253) -/
  utc      : Option Utc
  /-- the foreign grandmaster selected at an EXTERNAL port, by its Announce (R246) -/
  master   : Option PtpAnnounce
deriving DecidableEq, Repr

def Base.init (st : BaseState) : Base :=
  ⟨0, 0x000A00000000, 0, 0, 0, 0, st, false, 0, 0, 0, 0, 0, 255, 0, 0, 0, 255, none, none, none, false, none, none⟩

/-- TB_PORT_ZA and TB_PORT_ZB (R254), RX_LAT and TX_LAT being Config's. -/
structure TbPort where
  delays    : List Nat
  pdState   : Nat
  pdCount   : Nat
  ofs0      : Int
  ofs1      : Int
  ofs2      : Int
  proposal  : Int
  propValid : Bool
  /-- the delay request that waits for its answer: sequenceId and egress stamp -/
  asked     : Option (Nat × Fns)
  /-- ingress stamp less origin and correction of the last Sync at an end-to-end port, in 2^-32 ns -/
  down      : Option Int
deriving DecidableEq, Repr

def TbPort.init : TbPort := ⟨[], 0, 0, 0, 0, 0, 0, false, none, none⟩

/-- The asymmetry procedure (R277): port, phase and held base; while a phase runs, the TB2 value at which its window ends, and
sum and count of the offsets taken, in 1/256 ns. -/
structure Asym where
  port  : Nat
  phase : Nat
  base  : Nat
  ends  : Option Fns
  sum   : Int
  count : Nat
deriving DecidableEq, Repr

/-- A time event: its TE_CFG, TB_TESTAT_nn and its output (R270, R273). -/
structure TimeEv where
  cfg    : Bytes
  /-- 0 IDLE, 1 ARMED, 2 FIRED, 3 LATE -/
  st     : Nat
  result : Nat
  fires  : Nat
  row    : Nat
  /-- next firing time -/
  next   : Fns
  out    : Bool
  pulse  : Bool
  /-- TB2 at the end of a PULSE -/
  pulseEnd : Fns
  /-- a step or a load has carried the base across its time (R272) -/
  crossed : Bool
deriving DecidableEq, Repr

def TimeEv.init : TimeEv := ⟨[], 0, 0, 0, 0, 0, false, false, 0, false⟩

/-- A decided switch of the row grid to the other base (R265). -/
structure BaseSwitch where
  dest : Nat
  at_ : Fns
deriving DecidableEq, Repr

/-- Frequency along the ring (R255, R256). -/
inductive FreqState where
  | ownRef
  | port (p : Nat)
  | holdover (next : Nat)
deriving DecidableEq, Repr

/-- A PTP message the station has sent or forwarded (R246–R249, R253): messageType, port, domain, sequenceId, correction in
2^-16 ns, the timestamp that a Follow_Up or a delay answer carries, and what an Announce carries. -/
structure PtpOut where
  msgType : Nat
  port    : Nat
  domain  : Nat
  seq     : Nat
  corr    : Int
  time    : Fns
  cls     : Nat
  utc     : Option Utc
deriving DecidableEq, Repr

/-- A measurement record for the host (R243): base, offset and mean path delay in 1/256 ns, correction in 2^-16 ns. -/
structure ExtRec where
  base   : Nat
  offset : Int
  delay  : Nat
  corr   : Int
deriving DecidableEq, Repr

/-- The time unit. -/
structure TimeU where
  b0       : Base
  b1       : Base
  b2       : Base
  b3       : Base
  selected : Nat
  snap0    : Fns
  snap1    : Fns
  snap2    : Fns
  snap3    : Fns
  snapRow  : Nat
  za       : TbPort
  zb       : TbPort
  tod      : Option Nat
  ppsStamp : Fns
  ppsCount : Nat
  /-- TB2 at the latest edge of PPS_IN (R252) -/
  ppsAt    : Option Fns
  ppsLost  : Bool
  ppsOut   : Bool
  /-- TB2 at the end of the PPS_OUT pulse -/
  ppsEnd   : Fns
  events   : Tbl TimeEv
  txqOvf   : Bool
  txqCount : Nat
  /-- dropped stamps that TXQ_OVERFLOW has still to report -/
  txqDue   : Nat
  asym     : Option Asym
  switch   : Option BaseSwitch
  /-- remaining grid slew in units of 2^-32 ns (R266) -/
  gridRem  : Int
  /-- part of a unit of the grid slew that the rows so far have earned, in 10^-9 -/
  gridFrac : Nat
  freq     : FreqState
  freqSrc  : Nat
  ptpSeq   : Nat
  sent     : List PtpOut
  mgmtDrops : Nat
  /-- measurement records passed to the host under SERVO_EXT, newest first (R243) -/
  extRecs  : List ExtRec
deriving DecidableEq, Repr

/-! ### Sequencers and capture (chapter 08) -/

/-- A sequencer timer (R286): elapsed value at its last update, and its start while it runs. -/
structure Tmr where
  running  : Bool
  value    : Nat
  /-- counted in the epoch in progress: a timer that started in an earlier one has a negative start -/
  startRow : Int
  startTb2 : Fns
deriving DecidableEq, Repr

def Tmr.init : Tmr := ⟨false, 0, 0, 0⟩

/-- Hold-off (R293): the row X and TB2 at B_X from which it runs, and the suppressed OPENs still to come. -/
structure HoldOff where
  row  : Nat
  tb2  : Fns
  left : Nat
deriving DecidableEq, Repr

/-- RUN of TS_STAT_n (R312). -/
inductive SeqRun where
  | idle | running | halted
deriving DecidableEq, Repr

/-- A trigger sequencer (R279, R287–R293, R312). -/
structure Seq where
  st        : Nat
  run       : SeqRun
  /-- the outputs now, after the last step, and before it: an arming sets the outputs at once, and a condition sees them as the
  last step left them (R281, R287) -/
  out       : Nat
  seen      : Nat
  outPrev   : Nat
  missed    : Nat
  heldOff   : Nat
  lastTrig  : Nat
  lastSkein : Nat
  cnt       : List Nat
  tmr       : List Tmr
  /-- row whose step an accepted arming or disarming acts before, or at (R27, R287, R288) -/
  armAt     : Option Nat
  disarmAt  : Option Nat
  /-- the next step is the first after arming (COND ARMED) -/
  first     : Bool
  /-- the pending STACK OPEN: its row T, its class, and the pattern epoch in row T (R292, R303) -/
  pendingOpen : Option (Nat × Nat × Nat)
  hold      : Option HoldOff
  /-- rows whose step has not completed (lease of R47) -/
  late      : Nat
  /-- which lane wrote an overflow episode: TRIGGER_MISSED by CAPTURE_BLOCKED has been reported -/
  blockedEp : Bool
deriving DecidableEq, Repr

def Seq.init : Seq :=
  ⟨0, .idle, 0, 0, 0, 0, 0, 0, 0, [0, 0, 0, 0], [Tmr.init, Tmr.init, Tmr.init, Tmr.init], none, none, false, none, none,
    0, false⟩

/-- A reduction of one member (R308, R309). SUM, M1: integers for S32, binary64 bits for L32 and W64 members;
MIN, MAX: codes, or binary32 bits. -/
structure Red where
  n        : Nat
  sumI     : Int
  m1I      : Int
  sumF     : BitVec 64
  m1F      : BitVec 64
  minV     : Int
  maxV     : Int
  argMax   : Nat
  flags    : Nat
  duration : Nat
deriving DecidableEq, Repr

def Red.init : Red := ⟨0, 0, 0, 0, 0, 0, 0, 0, 0, 0⟩

/-- A chunk in the log (R304). -/
structure Chunk where
  kind    : Nat
  count   : Nat
  first   : Nat
  payload : Bytes
deriving DecidableEq, Repr

/-- A mark entry of a trailer (R310). -/
structure MarkEnt where
  row   : Nat
  state : Nat
  user  : Nat
  cnt   : Nat
  tmr   : Nat
deriving DecidableEq, Repr

/-- A resident skein: header data (R303), progress (R290, R296), chunks, marks and reductions (R305). -/
structure Skein where
  id        : Nat
  seq       : Nat
  cls       : Nat
  cfg       : Bytes
  trig      : Nat
  first     : Nat
  pre       : Nat
  patEpoch  : Nat
  base      : Nat
  tflags    : Nat
  timeSel   : Fns
  timeOther : Fns
  wpMask    : Nat
  /-- counts as open (R290) -/
  isOpen    : Bool
  /-- last row, once it is known, and the end cause (R296, R305) -/
  last      : Option Nat
  endCause  : Nat
  /-- next row that the writer moves, and the next row that the reducers read -/
  moved     : Nat
  reduced   : Nat
  captured  : Nat
  missing   : Nat
  chunks    : List Chunk
  marks     : List MarkEnt
  marksLost : Nat
  trflags   : Nat
  wftOnset  : Nat
  reds      : Tbl Red
  /-- trailer resident (R305) -/
  closed    : Bool
  /-- the epoch has ended: the writer does not wait for the 128 rows (R300) -/
  flush     : Bool
  /-- the header stands in the log, and the trailer's place is kept -/
  headed    : Bool
  lossEp    : Bool
  /-- a new epoch has begun: rows not yet moved are no longer held (R298) -/
  gone      : Bool
deriving DecidableEq, Repr

/-- CAP_MARK_m (R307). -/
structure CapMark where
  id      : Nat
  valid   : Bool
  protect : Bool
  lost    : Bool
deriving DecidableEq, Repr

def CapMark.init : CapMark := ⟨0, false, false, false⟩

/-- The capture store (R298–R307, R313). -/
structure Cap where
  seqs      : Tbl Seq
  /-- resident skeins, oldest first -/
  skeins    : List Skein
  nextId    : Nat
  marks     : Tbl CapMark
  blocked   : Bool
  gapRows   : Nat
  overflows : Nat
  marksLost : Nat
  newestId  : Nat
  /-- readout cursor per transport (R492): the last SKEIN_ID returned -/
  cursors   : Tbl Nat
  /-- first row held by the class buffer of class 4·sequencer + class, in the current epoch (R298) -/
  since     : Tbl (Option Nat)
deriving DecidableEq, Repr

/-! ### Kilzar (chapter 09) -/

/-- KZ_STAT_C and KZ_STAT_D (R345). -/
structure KzStat where
  result     : Nat
  holder     : Nat
  busy       : Bool
  isOpen     : Bool
  inBit      : Nat
  inUsed     : Nat
  outWritten : Nat
  blockOut   : Nat
  errors     : Nat
  streamOut  : Nat
deriving DecidableEq, Repr

def KzStat.init : KzStat := ⟨0, 0, false, false, 0, 0, 0, 0, 0, 0⟩

/-- What a job taken by an engine reports when it ends (R344, R345), with the bytes that it has written. -/
structure KzEnd where
  result    : Nat
  holder    : Nat
  isOpen    : Bool
  inBit     : Nat
  inUsed    : Nat
  blockOut  : Nat
  streamOut : Nat
  out       : Bytes
deriving DecidableEq, Repr

/-- A job that a holder has posted at an engine: it competes until the engine takes it (R42). -/
structure KzReq where
  tag   : Nat
  job   : Bytes
  input : Bytes
deriving DecidableEq, Repr

/-- The host context of the compressor (R335): stream parameters, original bytes in written blocks, bytes of the open
block, whether the header has been written, stream bytes written, and a trailer still to be written (R337). -/
structure KzComp where
  stat    : KzStat
  level   : Nat
  kind    : Nat
  stride  : Nat
  origSize : Nat
  orig    : Bytes
  block   : Bytes
  headed  : Bool
  written : Nat
  closing : Bool
  /-- original bytes of the latest block written (R345) -/
  lastBlk : Nat
  job     : Option KzEnd
  /-- holder of the job that runs -/
  runner  : Nat
  /-- the holder answered last, and the job status (R343, R344) -/
  told    : Option (Nat × Nat)
  waiting : List KzReq
  arb     : Arb
deriving DecidableEq, Repr

def KzComp.init : KzComp := ⟨KzStat.init, 0, 0, 1, 0, [], [], false, 0, false, 0, none, 0, none, [], Arb.init⟩

/-- The decompressor's context (R342): stream bytes received from its start up to the first unconsumed one, and the bits
of that byte already consumed; original bytes written; whether the context is kept without a lease for 100 ms. -/
structure KzDec where
  stat   : KzStat
  fed    : Bytes
  bitPos : Nat
  out    : Bytes
  kept   : Bool
  job    : Option KzEnd
  runner : Nat
  told   : Option (Nat × Nat)
  waiting : List KzReq
  arb     : Arb
deriving DecidableEq, Repr

def KzDec.init : KzDec := ⟨KzStat.init, [], 0, [], false, none, 0, none, [], Arb.init⟩

/-! ### Ring (chapter 10) -/

/-- STATE of ZR_PORT_Zx (R355). -/
inductive PortState where
  | down | negotiating | blockLock | hello | up | heldOut | off
deriving DecidableEq, Repr

/-- A ring port (R355) with its link bring-up and BEAT watch. -/
structure Port where
  st        : PortState
  mode      : Nat
  wrap      : Bool
  version   : Nat
  holdCause : Nat
  neighbour : Nat
  nbValid   : Bool
  fcsErr    : Nat
  fecUncorr : Nat
  beDropped : Nat
  linkDowns : Nat
  nbUid     : BitVec 64
  /-- mode attempted while no link (R351) -/
  tryMode   : Nat
  helloSeen : Bool
  beatsMissed : Nat
  /-- the neighbour's last LEAVING reason (R388), 0 none -/
  leaving   : Nat
  /-- BE_DROPPED reported in this second (R380) -/
  beSecond  : Option Nat
  /-- TB2 at which the wire is free, and at which the MGMT shaper lets the next frame go (R366) -/
  freeAt    : Fns
  mgmtTat   : Fns
deriving DecidableEq, Repr

def Port.init : Port :=
  ⟨.down, 0, false, 0, 0, 0, false, 0, 0, 0, 0, 0, 1, false, 0, 0, none, 0, 0⟩

/-- A frame that waits at an egress, with its port: 0 ZA, 1 ZB, 2 the root's PCIe endpoint. A forwarded copy whose original
turned out bad ends with an invalid FCS (R366). -/
structure Egr where
  port  : Nat
  frame : ZFrame
  fcsOk : Bool
deriving DecidableEq, Repr

/-- A frame that has left: with the station number and the EtherType of its Ethernet header (R363). -/
structure Sent where
  port      : Nat
  sender    : Nat
  etherType : Nat
  frame     : ZFrame
  fcsOk     : Bool
deriving DecidableEq, Repr

/-- A gap in an originator's SEQ series (R384, R385). -/
structure Gap where
  first : Nat
  count : Nat
deriving DecidableEq, Repr

/-- ZR_RXSRC_nn with the receipt map: bit d − 1 set when SEQ high − d has been received (R384, R391). `spans` are the ranges as
they were skipped, each until all of it has been received or given up. -/
structure RxSrc where
  started  : Bool
  high     : Nat
  map      : Nat
  gaps     : List Gap
  spans    : List Gap
  reqs     : Nat
  recovered : Nat
  expired  : Nat
  dups     : Nat
deriving DecidableEq, Repr

def RxSrc.init : RxSrc := ⟨false, 0, 0, [], [], 0, 0, 0, 0⟩

/-- The state of the ring at this station (R359, R376, R378, R390, R392). -/
structure Ring where
  za       : Port
  zb       : Port
  crossed  : Bool
  station  : Nat
  numbered : Bool
  enumerated : Bool
  count    : Nat
  version  : Nat
  /-- 0 NONE, 1 CLOSED, 2 WRAPPED, 3 SPLIT, 4 ENUMERATING -/
  state    : Nat
  topoEpoch : Nat
  session  : Nat
  uids     : List (BitVec 64)
  linkUp   : Nat
  order    : List Nat
  /-- a TOPOLOGY received and not yet applied (R376) -/
  nextTopo : Option (Nat × Nat × List Nat)
  /-- lowest link version met so far while enumerating -/
  enumVer  : Nat
  enumSent : Bool
  ledger   : Tbl Nat
  /-- SESSION + 1 of each UID that a HELLO has named (R388) -/
  sessions : Tbl Nat
  gSeq     : Nat
  beSeq    : Nat
  /-- frames in the replay region, oldest first (R383) -/
  replay   : List ZFrame
  served   : Nat
  naks     : Nat
  rx       : Tbl RxSrc
  /-- CMD frames held behind a gap, per R461 -/
  heldCmds : List ZFrame
  /-- frames that wait at the egresses, newest first, and what has left, newest first (R366) -/
  egress   : List Egr
  wire     : List Sent
  /-- TB2 at which the bucket of G_RES is full again (R386) -/
  resTat   : Fns
  /-- WATCH has taken the links down and none has carried a frame since; the guaranteed frames that wait for one, oldest
  first, each with the TB2 of its assembly (R570) -/
  away     : Bool
  waiting  : List (Fns × ZFrame)
  /-- counted drops of R365 by cause: own SRC, HOPS, HCHECK or FCS, VERSION, second wrap -/
  drops    : Tbl Nat
  /-- skein bytes received by a requester (R371) -/
  skeinRx  : List ZFrame
  /-- REPLAY_WR: write offset in the replay region (R438) -/
  replayWr : Nat
  /-- replay requests sent whose gaps are still open: originator, first SEQ, count (R385, R440) -/
  asked    : List (Nat × Nat × Nat)
  /-- CMD and RSP frames accepted by SEQ that their own rows have not taken yet (R384) -/
  accepted : List ZFrame
  /-- ENUM has left by ZB in this enumeration (R359) -/
  enumOut  : Bool
  /-- this root has met one with a lower UID: its ports stay held out until ROLE changes (R358) -/
  conflict : Bool
  /-- hops of the order that run mode 2, as far as the station has learned (R378) -/
  slow     : Nat
  /-- stations that have announced that they leave, with REASON, as the root has learned (R388) -/
  left     : List (Nat × Nat)
  /-- Σ G_s by the last ADMIT_RSP (R354, R374) -/
  admitted : Nat
  /-- first station whose G_DATA the root has not decided since the enumeration, and the requests that wait for their turn:
  station, RATE, ROW (R378) -/
  admitNext : Nat
  admitWait : List (Nat × Nat × Nat)
  /-- lower rates of stations and the rows at which they take effect (R379) -/
  lowering : List (Nat × Nat × Nat)
deriving DecidableEq, Repr

/-! ### Host port and DMA (chapter 11) -/

/-- The PCIe and QSPI ports (R396–R407). -/
structure HostP where
  gen       : Nat
  width     : Nat
  reversed  : Bool
  fwReady   : Bool
  mps       : Nat
  badacc    : Nat
  linkDowns : Nat
  /-- the link has come up since cast-on (R399) -/
  cameUp    : Bool
  qsMask    : Nat
  qsPend    : Nat
  /-- MSI-X table bytes, pending bits, and messages sent per vector (R395, R405) -/
  msixTbl   : Tbl Byte
  msixPend  : Nat
  msgs      : Tbl Nat
  /-- latched values of the wide registers, by offset; 65536 is added for a register of the QSPI bank (R402) -/
  latch     : Tbl Bytes
  lastBad   : Nat
  /-- the bytes that the last read returned at its port -/
  readData  : Bytes
  /-- configuration requests answered with retry and with completion (R396) -/
  cfgRetry  : Nat
  cfgDone   : Nat
  inReset   : Bool
deriving DecidableEq, Repr

/-- STATE of DMA_STAT_nn (R411). -/
inductive DmaState where
  | idle | running | pausing | paused | draining | pausedPower | stopped
deriving DecidableEq, Repr

/-- A DMA channel (R411–R429). -/
structure DmaCh where
  delivery  : Bool
  px64      : Bool
  writeback : Bool
  localCopy : Bool
  /-- reserved bits written to DMA_CFG_nn [31:16] and [7:4] (R429) -/
  rsvSet    : Bool
  kindMask  : Nat
  px64Skein : Nat
  desc      : Nat
  st        : DmaState
  result    : Nat
  owner     : Nat
  short     : Bool
  doneDesc  : Nat
  posDesc   : Nat
  posLine   : Nat
  posIn     : Nat
  bytes     : Nat
  rbase     : Nat
  rsize     : Nat
  wr        : Nat
  rd        : Nat
  thr       : Nat
  timeout   : Nat
  fullDrops : Nat
  /-- the descriptor in progress -/
  cur       : Bytes
  /-- entries since the last threshold vector, and whether TIMEOUT runs -/
  thrCount  : Nat
  fullEp    : Bool
  aborting  : Bool
  /-- the ended job of the KZ descriptor in progress (R415); RESULT 8 stands for a job that was refused (R338, R342) -/
  kz        : Option KzEnd
deriving DecidableEq, Repr

def DmaCh.init : DmaCh :=
  ⟨false, false, false, false, false, 0, 0, 0, .idle, 0, 0, false, 0, 0, 0, 0, 0, 0, 16, 0, 0, 16, 1000, 0, [], 0,
    false, false, none⟩

/-! ### Frame engines (chapter 12) -/

/-- A_STATE and B_STATE of FE_STAT (R454). -/
inductive EngState where
  | active | ready | resync | selftest | faulty
deriving DecidableEq, Repr

/-- The state record of a frame cycle (R438). -/
structure FeRec where
  nextRow  : Nat
  epoch    : Nat
  gSeq     : Nat
  beSeq    : Nat
  oldest   : Nat
  markerRd : Nat
  doLevel  : Nat
  doPulse  : Nat
  topo     : Nat
  slew     : Bool
  holdover : Bool
  gridRem  : Int
  frameCrc : BitVec 32
  /-- WR, entries since the last threshold vector, STATE and BYTES of each delivery channel -/
  dma      : Tbl (Nat × Nat × Nat × Nat)
  /-- write offset in the replay region -/
  replayWr : Nat
  /-- CHECK as the active engine computed it -/
  check    : BitVec 32
deriving DecidableEq, Repr

/-- A full state copy (R440): the last good record, the committed STREAM_CFG, RING_CFG, TIME_CFG, FE_CFG and output mapping, and
the outstanding replay requests as originator, first SEQ and count. -/
structure FeCopy where
  good  : Option FeRec
  cfg   : List Bytes
  asked : List (Nat × Nat × Nat)
deriving DecidableEq, Repr

/-- The two frame engines (R431–R454) and the output latches (R434, R515). -/
structure Fe where
  active   : Nat
  a        : EngState
  b        : EngState
  hold     : Bool
  misses   : Nat
  switches : Nat
  copyErr  : Nat
  lastRow  : Nat
  cause    : Nat
  passPct  : Nat
  passes   : Nat
  mismatch : Nat
  /-- the record sent at the last frame-cycle end, and the last good record the standby keeps -/
  sentRec  : Option FeRec
  lastRec  : Option FeRec
  /-- FE_SWITCH waits for the next frame-cycle end (R447) -/
  switchReq : Bool
  /-- engines whose automatic reset has been used since their last full copy (R448) -/
  autoUsed : Nat
  /-- a mismatch on the cycle being checked (R450) -/
  recheck  : Bool
  /-- an old engine still to be fenced (R445) -/
  fence    : Option Nat
  /-- first row not yet handed to a frame (R438) -/
  nextRow  : Nat
  markerRd : Nat
  doLevel  : Nat
  doPulse  : Nat
  /-- outputs at high impedance (R515) -/
  doHighZ  : Nat
  lastData : List ZFrame
  bothFailed : Bool
  /-- TB2 at the last good heartbeat (R40) -/
  beatAt   : Option Fns
  /-- next guaranteed SEQ at the last frame-cycle end: FRAME_CRC covers the frames from it on (R438) -/
  cycleSeq : Nat
  /-- the last full state copy of the standby (R440) -/
  copy     : Option FeCopy
deriving DecidableEq, Repr

/-! ### Mailbox and patterns (chapter 13) -/

/-- A pattern: the structures that differ from the factory default, keyed by 65536·STRUCT + INDEX (R476). -/
abbrev Pat := Tbl Bytes

/-- An outstanding command (R456, R466). -/
structure Outst where
  via    : Via
  slot   : Nat
  span   : Nat
  tag    : BitVec 32
  /-- forwarded to the ring and waiting for its RSP (R462) -/
  remote : Bool
  /-- answered by the watchdog: a later response is discarded (R467) -/
  dead   : Bool
deriving DecidableEq, Repr

/-- A mailbox response (R464). -/
structure Resp where
  via    : Via
  slot   : Nat
  opcode : Nat
  status : Nat
  tag    : BitVec 32
  epoch  : Nat
  detail : Nat
  payload : Bytes
deriving DecidableEq, Repr

/-- A command or response bank (R457–R459). -/
structure Bank where
  cmd       : Tbl Byte
  rsp       : Tbl Byte
  busy      : Nat
  ready     : Nat
  terr      : Nat
  terrCode  : Nat
  terrCount : Nat
  /-- span of the command posted at a slot -/
  spans     : Tbl Nat
deriving DecidableEq, Repr

def Bank.init : Bank := ⟨[], [], 0, 0, 0, 0, 0, []⟩

/-- A pending commit (R472, R480, R481). -/
structure Commit where
  pat   : Pat
  row   : Nat
  cls   : Nat
  owner : Nat
  /-- structures that the commit changes, as pattern keys -/
  keys  : List Nat
deriving DecidableEq, Repr

/-- A commit that waits for ADMIT_RSP or for the swatch store (R477 steps 4 and 6). -/
structure CommitWait where
  hdr    : Option CmdHdr
  te     : Option Nat
  commit : Commit
  /-- waits for the ADMIT_RSP; otherwise for the swatch store -/
  onRing : Bool
deriving DecidableEq, Repr

/-- The mailbox and the pattern staging store. -/
structure Mbx where
  pcie      : Bank
  qspi      : Bank
  out       : List Outst
  /-- responses written, newest first -/
  last      : Option Resp
  force     : Pat
  pending   : Option Commit
  staged    : Option Pat
  stageOwner : Nat
  wait      : Option CommitWait
  commits   : Nat
  lateCount : Nat
  /-- the blob of each slot of the pattern store; none written (R349, R580) -/
  store     : Tbl Bytes
  /-- PAT_SAVE in progress: slot, transport and blob (R489) -/
  saving    : Option (Nat × Nat × Bytes)
deriving DecidableEq, Repr

/-! ### Interrupts, inputs and queues (chapter 14) -/

/-- The interrupt controller and the input filters (R495–R512). -/
structure Ic where
  pend      : Nat
  actPend   : Nat
  /-- level sources whose cause is asserted -/
  level     : Nat
  activeC   : Nat
  activeM   : Nat
  cmask     : Nat
  mmask     : Nat
  counts    : Tbl Nat
  withdrawn : Nat
  bad       : Nat
  hpend     : Nat
  diLevel   : Nat
  diRaw     : Nat
  /-- equal samples, after INVERT, that differ from the filtered level so far, per input (R509, R511) -/
  diCount   : Tbl Nat
  /-- filtered edges of DI0–DI15 that belong to the row in production -/
  diRise    : Nat
  diFall    : Nat
  /-- time events that fired in the row in production (R281 TE_FIRED) -/
  teFired   : Nat
  fatal     : Bool
  /-- the value the last claim returned (R499) -/
  claim     : Nat
deriving DecidableEq, Repr

/-- An item of a queue (R516, R520). -/
structure QItem where
  words     : List (BitVec 32)
  complete  : Bool
  truncated : Bool
deriving DecidableEq, Repr

/-- A queue (R516–R521). -/
structure Queue where
  items    : List QItem
  high     : Nat
  stale    : Bool
  staleRun : Bool
  ovf      : Nat
  trunc    : Nat
  drops    : Nat
  staleCfg : Nat
  /-- the producer's remaining words are discarded until its next start-of-item (R518, R520) -/
  discard  : Bool
  ovfEp    : Bool
  /-- a word waits for space (STALL) -/
  stalled  : List (BitVec 32)
  /-- of Q0: the arbitration of the mailbox intake (R42) -/
  arb      : Arb
  /-- TB2 at the last read (R40) -/
  readAt   : Option Fns
deriving DecidableEq, Repr

def Queue.init (stale : Nat) : Queue := ⟨[], 0, false, true, 0, 0, 0, stale, false, false, [], Arb.init, none⟩

/-- A health-log record (R585). -/
structure HRec where
  entry   : Nat
  code    : Nat
  subject : Nat
  row     : Nat
  time    : Nat
  arg     : Nat
deriving DecidableEq, Repr

/-! ### Leases (chapter 01) -/

/-- MG_LEASE_LAST (R49), the leases declared faulty and the holders barred until reset (R47, R48). -/
structure Leases where
  tag      : Nat
  resource : Nat
  cause    : Nat
  valid    : Bool
  row      : Nat
  count    : Nat
  /-- declared faulty: resource and cause (0 expiry, 1 declared) -/
  faulty   : List (LeaseRes × Nat)
  barred   : List (LeaseRes × Nat)
  /-- resources with the value of TB2 at which their lease was last renewed (R40) -/
  renewed  : List (LeaseRes × Fns)
  /-- the core last granted the external serial-memory controller (0 none, 1 control core, 2 management core), and the
  controller's arbitration (R42, R43) -/
  serial    : Nat
  serialArb : Arb
deriving DecidableEq, Repr

/-! ### Seal, audit trail and update (chapter 15) -/

/-- Lifecycle (R524). -/
inductive Lifecycle where
  | blank | opened | sealed | service
deriving DecidableEq, Repr

/-- A token bucket of a code (R540): tokens missing from the burst of 4, and events suppressed since the last record. -/
structure Bucket where
  missing    : Nat
  suppressed : Nat
deriving DecidableEq, Repr

def Bucket.init : Bucket := ⟨0, 0⟩

/-- An authority key slot (R528). -/
structure KeySlot where
  hash    : BitVec 256
  filled  : Bool
  revoked : Bool
deriving DecidableEq, Repr

def KeySlot.init : KeySlot := ⟨0, false, false⟩

/-- CHRYSALIS of SEAL_STAT (R554). -/
inductive Chrysalis where
  | none | erasing | writing | verifying | verified | failed
deriving DecidableEq, Repr

/-- An image staged into a firmware slot (R549, R550): its bytes, the length named at UPDATE_BEGIN, and its identity once it
has been verified. -/
structure FwSlot where
  bytes   : Tbl Byte
  length  : Nat
  release : Nat
  fwId    : BitVec 256
  secVer  : Nat
deriving DecidableEq, Repr

/-- The seal logic, the audit trail and the update path. -/
structure Seal where
  life       : Lifecycle
  /-- the BLANK fuse is programmed (R532) -/
  blankFuse  : Bool
  swOpen     : Bool
  /-- equal samples of SEAL_SW that differ from the accepted level so far (R526) -/
  swCount    : Nat
  debug      : Nat
  granted    : Nat
  fullSeen   : Bool
  authLock   : Bool
  breaks     : Nat
  fuses      : Nat
  /-- pending COCOON break with its real-time clock second (R526) -/
  cocoonBreak : Option Nat
  aonLost    : Bool
  /-- the two copies of the seal record, where valid: lifecycle and SEAL_BREAKS (R532) -/
  record     : Option (Lifecycle × Nat)
  record2    : Option (Lifecycle × Nat)
  keys       : Tbl KeySlot
  nonce      : Option (BitVec 128)
  refusals   : Nat
  secMin     : Nat
  fwSlot     : Nat
  /-- SEQ and SLOT of the two copies of the cast-on header, where valid (R581) -/
  hdr0       : Option (Nat × Nat)
  hdr1       : Option (Nat × Nat)
  chrysalis  : Chrysalis
  /-- an unlisted slot holds the image that production wrote -/
  slots      : Tbl (Option FwSlot)
  updOwner   : Nat
  -- the trail
  trail      : Tbl Bytes
  next       : Nat
  /-- 0 RECORDING, 1 FULL, 2 CLEARING -/
  trailSt    : Nat
  recno      : Nat
  readMark   : Nat
  suppressed : Nat
  overflow   : Nat
  lostFull   : Nat
  torn       : Nat
  lastMac    : BitVec 128
  /-- MAC and RECNO of the last record before a clear in progress (R546) -/
  clearInfo  : BitVec 128 × Nat
  intakeShut : Bool
  /-- the intake is shut, and the record that was in progress then is not yet complete (R543) -/
  finishing  : Bool
  /-- events lost at the intake since the last AUDIT_OVERFLOW (R541) and while it was shut (R543) -/
  lostIntake : Nat
  lostPower  : Nat
  buckets    : Tbl Bucket
  /-- digests of the legally relevant set (R533) -/
  param      : BitVec 256
  metro      : BitVec 256
deriving DecidableEq, Repr

/-- The header copy in force: the valid one with the higher SEQ (R581). -/
def Seal.header (e : Seal) : Option (Nat × Nat) :=
  match e.hdr0, e.hdr1 with
  | some a, some b => some (if a.1 < b.1 then b else a)
  | some a, none => some a
  | none, r => r

/-- The slot selection (R549). -/
def Seal.slotSel (e : Seal) : Nat := (e.header.map (·.2)).getD 0

/-- The other copy is written with SEQ + 1 (R581). -/
def Seal.select (e : Seal) (slot : Nat) : Seal :=
  let seq := ((e.header.map (·.1)).getD 0 + 1) % 2 ^ 32
  if e.hdr0.isSome && e.header == e.hdr0 then { e with hdr1 := some (seq, slot) } else { e with hdr0 := some (seq, slot) }

/-! ### Power and management (chapter 16) -/

/-- Power states (R565). -/
inductive PwrState where
  | active | watch | doze | cocoon
deriving DecidableEq, Repr

/-- Targets of a bind-off (R577, R588). -/
inductive BindTarget where
  | watch | cocoon | holdReset | castOn
deriving DecidableEq, Repr

/-- A sensor (R582, R583). -/
structure Sensor where
  value   : Int
  element : Nat
  st      : Nat
  peak    : Int
  alarms  : Nat
  /-- updated since cast-on: PEAK holds a value -/
  seen    : Bool
deriving DecidableEq, Repr

def Sensor.init : Sensor := ⟨0, 0, 0, 0, 0, false⟩

/-- The power manager, the management core and the always-on domain (R560–R591). -/
structure Pm where
  st        : PwrState
  binding   : Option BindTarget
  /-- entry to DOZE under way (R566) -/
  toDoze    : Bool
  pfw       : Bool
  /-- equal samples of PFW that differ from the filtered level so far (R578) -/
  pfwCount  : Nat
  /-- the 100 ms wait after PFW deasserts runs (R578) -/
  pfwWait   : Bool
  emergency : Bool
  /-- TB2 at the last wake and the state it left (R591) -/
  woke      : Option (Fns × PwrState)
  /-- no usable serial memory was found (R575) -/
  noMem     : Bool
  lastWake  : Nat
  wakeSubj  : Nat
  resetCause : Nat
  castOnMs  : Nat
  cocoons   : Nat
  /-- the logic reset is asserted: LD and MD are held (R561) -/
  inReset   : Bool
  /-- BIND_OFF with THEN 0: reset is held until RESET_N or a power cycle -/
  held      : Bool
  /-- a device reset follows the response, with its RESET_CAUSE (R489, R552) -/
  resetReq  : Option Nat
  railsOk   : Bool
  /-- cast-on has run since the last reset -/
  castOn    : Bool
  castOnDone : Bool
  recovery  : Bool
  /-- always-on copy of DI_CFG 18 and WAKE_SRC bit 0 (R568) -/
  aonN      : Nat
  aonInvert : Bool
  aonEdge   : Nat
  aonWake   : Bool
  rtc       : Nat
  rtcAlarm  : Nat
  sensors   : Tbl Sensor
  scrubH    : Nat
  scrubPasses : Nat
  /-- TB2 seconds of the last MD_CORRECTED report (R584) -/
  mdSecond  : Option Nat
  /-- TB2 of recent core-watchdog expiries, newest first (R576) -/
  watchdogs : List Fns
  /-- health log: records in the region, newest first, and the next ENTRY (R585) -/
  hlog      : List HRec
  hNext     : Nat
  /-- TEDS cache: nodes per bus, the owner tag that started each scan in progress, and the buses that cast-on has still to
  scan, once their die has ramped its drivers (R79) -/
  teds      : Tbl (List TedsNode)
  tedsScan  : Tbl Nat
  tedsDue   : Nat
  /-- sentinel comparators initialised since entry to WATCH (R569) -/
  sentInit  : Nat
  sentState : Nat
  /-- the straps as the last release of the logic power-on reset read them (R560, R597): MG_ADDR[2:0], ZA_MEDIA, ZB_MEDIA,
  VSEL_1–4 from bit 0 up -/
  straps    : BitVec 9
deriving DecidableEq, Repr

/-- MEDIA of a port (R352), the voltage class of a VIO bank 1–4, 3.3 V where the strap is 1 (R560), and the address of the
2-wire port (R586). -/
def Pm.backplane (p : Pm) (port : Nat) : Bool := p.straps.getLsbD (3 + port)
def Pm.bank33 (p : Pm) (bank : Nat) : Bool := p.straps.getLsbD (4 + bank)
def Pm.mgAddress (p : Pm) : Nat := 0x58 + p.straps.toNat % 8

/-- The whole block. -/
structure State where
  pending : List Instr
  /-- how many free values have been drawn (the model's own; notes/assumptions/3.md) -/
  fresh   : Nat
  flt     : Flt
  auxs    : Tbl AuxSt
  lin     : Lin
  cal     : Cal
  time    : TimeU
  cap     : Cap
  kzC     : KzComp
  kzD     : KzDec
  ring    : Ring
  host    : HostP
  hostMem : Tbl Byte
  dma     : Tbl DmaCh
  fe      : Fe
  mbx     : Mbx
  ic      : Ic
  queues  : Tbl Queue
  leases  : Leases
  sec     : Seal
  pm      : Pm
deriving DecidableEq, Repr

/-- Why the block stops. No row of the spec stops it: none is raised. Safe. -/
inductive Fault where
  /-- never raised: kept so that the outcome has a reason type of its own -/
  | none
deriving DecidableEq, Repr

/-- Why a command is refused by the model. -/
inductive Refusal where
  /-- the command has no meaning yet; raised by exec's own arms only. Safe: nothing follows from it. -/
  | notModelled (mnemonic : String)
deriving DecidableEq, Repr

/-- The state at the release of the logic power-on reset, before cast-on runs. -/
def State.reset : State where
  pending := []
  fresh := 0
  flt :=
    { rows := ⟨.closed, 0, 0, 0, 0, none, 0, false⟩
      chain := ⟨⟨4, 6, 2⟩, 13, none, 32, 0⟩
      sync := ⟨0, 0, false, 0, 0, 0, false⟩
      clusters := [], chans := [], slices := [], corr := [], ladders := [], dies := [], inPhase := [], quad := []
      chainI := [], chainQ := [], skewRows := []
      wfLast := ⟨0, 0, 0, 0, false, 0⟩
      thrState := 0, thrInit := 0, thrEvent := 0, thrRise := 0, thrFall := 0
      recent := [] }
  auxs := []
  lin :=
    { temps := [], clamped := 0, stable := 0, motion := [], lOvf := false, wOvf := false, tempSub := false
      lastCh := 0, lastWp := 0, ovfCount := 0, subNow := 0, ovfCh := 0, ovfWp := 0, wpRcf := 0, wpPast := [], linRcf := 0
      region := [] }
  cal := ⟨none, [], [], [], 0, [], [], []⟩
  time :=
    { b0 := Base.init .unset, b1 := Base.init .unset, b2 := Base.init .localBase, b3 := Base.init .host
      selected := 0, snap0 := 0, snap1 := 0, snap2 := 0, snap3 := 0, snapRow := 0
      za := TbPort.init, zb := TbPort.init, tod := none, ppsStamp := 0, ppsCount := 0, ppsAt := none, ppsLost := false
      ppsOut := false, ppsEnd := 0, events := [], txqOvf := false, txqCount := 0, txqDue := 0, asym := none, switch := none
      gridRem := 0, gridFrac := 0, freq := .ownRef, freqSrc := 0, ptpSeq := 0, sent := [], mgmtDrops := 0, extRecs := [] }
  cap := ⟨[], [], 1, [], false, 0, 0, 0, 0, [], []⟩
  kzC := KzComp.init
  kzD := KzDec.init
  ring :=
    { za := Port.init, zb := Port.init, crossed := false, station := 0, numbered := false, enumerated := false
      count := 0, version := 0, state := 0, topoEpoch := 0, session := 0, uids := [], linkUp := 0, order := []
      nextTopo := none, enumVer := 3, enumSent := false, ledger := [], sessions := [], gSeq := 0, beSeq := 0
      replay := [], served := 0, naks := 0, rx := [], heldCmds := [], egress := [], wire := [], resTat := 0
      drops := [], away := false, waiting := [], skeinRx := [], replayWr := 0, asked := [], accepted := []
      enumOut := false, conflict := false, slow := 0, left := [], admitted := 0, admitNext := 0, admitWait := []
      lowering := [] }
  host :=
    { gen := 0, width := 0, reversed := false, fwReady := false, mps := 0, badacc := 0, linkDowns := 0
      cameUp := false, qsMask := 0, qsPend := 0, msixTbl := [], msixPend := 0, msgs := [], latch := []
      lastBad := 0, readData := [], cfgRetry := 0, cfgDone := 0, inReset := false }
  hostMem := []
  dma := []
  fe :=
    { active := 0, a := .active, b := .ready, hold := false, misses := 0, switches := 0, copyErr := 0, lastRow := 0
      cause := 0, passPct := 0, passes := 0, mismatch := 0, sentRec := none, lastRec := none, switchReq := false
      autoUsed := 0, recheck := false, fence := none, nextRow := 0, markerRd := 0, doLevel := 0, doPulse := 0
      doHighZ := 0, lastData := [], bothFailed := false, beatAt := none
      cycleSeq := 0, copy := none }
  mbx :=
    { pcie := Bank.init, qspi := Bank.init, out := [], last := none, force := [], pending := none, staged := none
      stageOwner := 0, wait := none, commits := 0, lateCount := 0, store := [], saving := none }
  ic :=
    { pend := 0, actPend := 0, level := 0, activeC := 255, activeM := 255, cmask := 0, mmask := 0, counts := []
      withdrawn := 0, bad := 0, hpend := 0, diLevel := 0, diRaw := 0, diCount := [], diRise := 0, diFall := 0, teFired := 0
      fatal := false, claim := 255 }
  queues := []
  leases := ⟨0, 0, 0, false, 0, 0, [], [], [], 0, Arb.init⟩
  sec :=
    { life := .opened, blankFuse := true, swOpen := false, swCount := 0, debug := 0, granted := 0
      fullSeen := false, authLock := false, breaks := 0
      fuses := 0, cocoonBreak := none, aonLost := false, record := some (.opened, 0), record2 := some (.opened, 0)
      keys := [], nonce := none, refusals := 0
      secMin := 0, fwSlot := 0, hdr0 := some (0, 0), hdr1 := none, chrysalis := .none, slots := [], updOwner := 0
      trail := [], next := 0
      trailSt := 0, recno := 0, readMark := 0, suppressed := 0, overflow := 0, lostFull := 0, torn := 0, lastMac := 0
      clearInfo := (0, 0), intakeShut := false, finishing := false, lostIntake := 0, lostPower := 0, buckets := []
      param := 0, metro := 0 }
  pm :=
    { st := .active, binding := none, toDoze := false, pfw := false, pfwCount := 0, pfwWait := false
      emergency := false, woke := none, noMem := false, lastWake := 0
      wakeSubj := 0, resetCause := 0, castOnMs := 0, cocoons := 0, inReset := false, held := false, resetReq := none
      railsOk := true, castOn := false
      castOnDone := false, recovery := false, aonN := 4, aonInvert := false, aonEdge := 1, aonWake := true, rtc := 0
      rtcAlarm := 0, sensors := [], scrubH := 24, scrubPasses := 0, mdSecond := none, watchdogs := [], hlog := []
      hNext := 0, teds := [], tedsScan := [], tedsDue := 0, sentInit := 0, sentState := 0, straps := Config.straps 0 }

end Sys2Proof.Machine
end

