-- ==== Sys2Proof/Machine/Pattern.lean ====
section
/-!
DEFINITION. The pattern (R472–R476): its 29 structures with size, index range, commit class and legal relevance, their
factory defaults, the checks made at PAT_SET, and the fields that the blocks read. A structure that equals its factory
default is not listed, so equal patterns are equal data. notes/assumptions/10.md says which byte DETAIL names.
-/
namespace Sys2Proof.Machine

/-- The structures (R476). -/
abbrev sExc : Nat := 0x0001
abbrev sTedsMap : Nat := 0x0002
abbrev sSlc : Nat := 0x0003
abbrev sRot : Nat := 0x0004
abbrev sRotGlobal : Nat := 0x0005
abbrev sAuxScan : Nat := 0x0006
abbrev sRow : Nat := 0x0010
abbrev sChain : Nat := 0x0011
abbrev sDem : Nat := 0x0012
abbrev sThr : Nat := 0x0013
abbrev sThrWp : Nat := 0x0014
abbrev sLin : Nat := 0x0020
abbrev sTemp : Nat := 0x0021
abbrev sWp : Nat := 0x0022
abbrev sSwatch : Nat := 0x0030
abbrev sCalLim : Nat := 0x0031
abbrev sSkw : Nat := 0x0032
abbrev sFdt : Nat := 0x0033
abbrev sTime : Nat := 0x0040
abbrev sPortTime : Nat := 0x0041
abbrev sTsProg : Nat := 0x0050
abbrev sSkc : Nat := 0x0051
abbrev sRing : Nat := 0x0060
abbrev sStream : Nat := 0x0061
abbrev sFe : Nat := 0x0062
abbrev sOutMap : Nat := 0x0070
abbrev sDi : Nat := 0x0071
abbrev sEvtRoute : Nat := 0x0072
abbrev sPwr : Nat := 0x0080

/-- A commit class (R476), as the CLASS bits of MBX_PATSTAT (R486): 1 RA, 2 CS, 4 RS. -/
structure StructDef where
  id    : Nat
  size  : Nat
  /-- how many values INDEX takes -/
  count : Nat
  cls   : Nat
  legal : Bool
deriving DecidableEq, Repr

/-- The table of R476. TIME_CFG is RA here; patClass makes it RS where PORT_ROLE changes. -/
def structTable : List StructDef :=
  [⟨sExc, 8, 32, 2, false⟩, ⟨sTedsMap, 64, 32, 1, false⟩, ⟨sSlc, 8, 32, 2, true⟩, ⟨sRot, 16, 32, 1, true⟩,
   ⟨sRotGlobal, 4, 1, 1, true⟩, ⟨sAuxScan, 260, 2, 1, true⟩, ⟨sRow, 4, 1, 4, true⟩, ⟨sChain, 4, 1, 2, true⟩,
   ⟨sDem, 16, 32, 2, true⟩, ⟨sThr, 24, 256, 1, false⟩, ⟨sThrWp, 24, 64, 1, false⟩, ⟨sLin, 104, 256, 1, true⟩,
   ⟨sTemp, 16, 256, 1, true⟩, ⟨sWp, 272, 64, 1, true⟩, ⟨sSwatch, 32, 256, 1, true⟩, ⟨sCalLim, 16, 1, 1, false⟩] ++
  [⟨sSkw, 16, 32, 1, true⟩, ⟨sFdt, 8, 32, 1, false⟩, ⟨sTime, 32, 1, 1, false⟩, ⟨sPortTime, 8, 2, 1, false⟩,
   ⟨sTsProg, 560, 4, 1, false⟩, ⟨sSkc, 64, 16, 1, true⟩, ⟨sRing, 32, 1, 4, false⟩, ⟨sStream, 48, 1, 1, false⟩,
   ⟨sFe, 8, 1, 4, false⟩, ⟨sOutMap, 64, 1, 1, false⟩, ⟨sDi, 4, 19, 1, false⟩, ⟨sEvtRoute, 192, 1, 1, false⟩,
   ⟨sPwr, 16, 1, 4, false⟩]

def structDef? (sid : Nat) : Option StructDef := structTable.find? (·.id == sid)

/-- Bytes 0–27 of a swatch with its CHECK (R207). -/
def swatchSeal (b : Bytes) : Bytes := b.take 28 ++ le 4 (crc32c (b.take 28))

/-- OFFSET 0, GAIN 1.0, every other byte before CHECK 0 (R207). -/
def identitySwatch : Bytes := swatchSeal (zeros 4 ++ le 4 0x40000000 ++ zeros 20)

/-- The factory default of a structure (the Default column of each structure's table). -/
def defStruct (sid : Nat) : Bytes :=
  match sid with
  | 0x0001 => [3, 3, 2, 0, 0, 10, 3, 0]
  | 0x0002 => zeros 64
  | 0x0003 => List.replicate 8 7
  | 0x0004 => [64, 0, 20, 0, 250, 0, 255, 5, 10, 16] ++ zeros 6
  | 0x0005 => zeros 4
  | 0x0006 => zeros 260
  | 0x0010 => [13, 0, 255, 0]
  | 0x0011 => [4, 6, 2, 0]
  | 0x0012 => zeros 16
  | 0x0013 => zeros 24
  | 0x0014 => zeros 24
  | 0x0020 => zeros 24 ++ le 4 0x3F800000 ++ zeros 76
  | 0x0021 => [0, 0, 0, 10] ++ zeros 12
  | 0x0022 => zeros 8 ++ le 4 0x3F800000 ++ zeros 260
  | 0x0030 => identitySwatch
  | 0x0031 => le 4 0x10000000 ++ le 2 1000 ++ le 2 0 ++ le 2 2000 ++ le 2 1000 ++ zeros 4
  | 0x0032 => zeros 16
  | 0x0033 => le 2 500 ++ le 2 50 ++ zeros 4
  | 0x0040 => [0, 1, 0, 1, 0, 0xFF, 0, 0, 0xFC, 0, 8, 3] ++ le 2 1000 ++ [100, 10] ++ le 2 100 ++ le 2 0 ++
      [0xFF, 10] ++ zeros 10
  | 0x0041 => zeros 8
  | 0x0050 => [0, 1, 0, 0] ++ zeros 12 ++ List.replicate 32 0xFF ++ zeros 512
  | 0x0051 => [0, 1, 0, 0] ++ zeros 4 ++ le 4 64 ++ le 4 0xFFFFFFFF ++ zeros 48
  | 0x0060 => [0, 0] ++ le 2 0x88B5 ++ le 2 9216 ++ zeros 2 ++ le 2 100 ++ le 2 200 ++ zeros 20
  | 0x0061 => List.replicate 32 0xFF ++ zeros 16
  | 0x0062 => le 4 1000 ++ [0, 1, 0, 0]
  | 0x0070 => zeros 64
  | 0x0071 => [4, 2, 0, 0]
  | 0x0072 => zeros 192
  | 0x0080 => zeros 4 ++ [3, 2, 5, 0x1F] ++ zeros 8
  | _ => []

/-! ### Checks of R474: the offset of the first invalid field of a structure, none when all are valid -/

/-- The first offset of a list whose test fails. -/
def firstBad : List (Nat × Bool) → Option Nat
  | [] => none
  | (o, ok) :: r => if ok then firstBad r else some o

def inR (lo hi v : Nat) : Bool := lo ≤ v && v ≤ hi
def inI (lo hi : Int) (v : Int) : Bool := lo ≤ v && v ≤ hi

/-- "keep 0" bytes. -/
def rsv (b : Bytes) (off n : Nat) : Nat × Bool := (off, allZero (slice b off n))

/-- R65, R66. -/
def checkExc (b : Bytes) : Option Nat :=
  let f := fld b
  let m := f 0 1
  let sense := f 4 1
  firstBad [(0, m < 4), (1, f 1 1 < 4),
    (2, if m = 0 then inR 1 10 (f 2 1) else if m = 3 then inR 1 20 (f 2 1) else inR 2 20 (f 2 1)),
    (3, f 3 1 < 64),
    (4, sense < 16 && bits sense 1 2 < 2 && !(sense.testBit 0 && sense.testBit 3)),
    (5, f 5 1 ≤ 100), (6, f 6 1 < 4)]

/-- R117. -/
def checkRot (b : Bytes) : Option Nat :=
  let f := fld b
  firstBad [(0, inR 16 4096 (f 0 2)), (2, inR 1 1000 (f 2 2)), (4, inR 50 5000 (f 4 2)), (6, f 6 1 ≠ 0), (7, f 7 1 < 16),
    (9, f 9 1 ≠ 0), rsv b 10 6]

/-- SOURCE and MODE of R131 and R132. -/
def auxSourceOk (src : Nat) : Bool := src < 0x20 || inR 0x40 0x4F src || inR 0x60 0x63 src

def auxModeOk (src mode : Nat) : Bool :=
  mode ≤ 5 && (mode = 0 || src < 0x20) && (!(mode = 3 || mode = 4) || (src % 2 = 0 && src < 0x1F))

/-- R131–R133; entries from COUNT on have no effect and are not checked. -/
def checkAuxScan (b : Bytes) : Option Nat :=
  let f := fld b
  let n := f 0 1
  firstBad ([(0, decide (n ≤ 64)), rsv b 1 3] ++
    ((List.range n).map fun i =>
      let src := f (4 + 4 * i) 1
      let mc := f (5 + 4 * i) 1
      [(4 + 4 * i, auxSourceOk src), (5 + 4 * i, auxModeOk src (mc % 16) && mc / 16 ≤ 11),
        (6 + 4 * i, inR 1 1000 (f (6 + 4 * i) 2))]).flatten)

/-- R169. -/
def checkThr (wp : Bool) (b : Bytes) : Option Nat :=
  let f := fld b
  firstBad (([0, 1].map fun n =>
    let lv := f (12 * n) 4
    let hy := f (12 * n + 4) 4
    let md := f (12 * n + 8) 1
    [(12 * n, if wp then finite32 lv else inI (-8388608) 8388607 (signed 32 lv)),
      (12 * n + 4, if wp then finite32 hy && (!hy.testBit 31 || hy = 0x80000000) else hy < 16777216),
      (12 * n + 8, md < 16 && md % 4 ≠ 3), rsv b (12 * n + 9) 3]).flatten)

/-- R178, R179. -/
def checkLin (b : Bytes) : Option Nat :=
  firstBad ([(0, decide (fld b 0 1 < 2)), rsv b 1 7] ++
    (List.range 24).map fun k => (8 + 4 * k, finite32 (fld b (8 + 4 * k) 4)))

/-- R182. -/
def checkTemp (b : Bytes) : Option Nat :=
  let f := fld b
  let s := f 0 1
  let k := fun off => if s = 2 then finite32 (f off 4) else f off 4 == 0
  firstBad [(0, s < 3), (1, if s = 1 then f 1 1 < 8 else if s = 2 then f 1 1 < 2 else f 1 1 == 0),
    (2, if s = 2 then f 2 1 < 64 else f 2 1 == 0), (3, f 3 1 ≠ 0), (4, k 4), (8, k 8), (12, k 12)]

/-- R189, R190. -/
def checkWp (b : Bytes) : Option Nat :=
  let f := fld b
  let n := f 0 1
  let chs := (List.range n).map fun m => f (16 + 8 * m) 2
  firstBad ([(0, decide (n ≤ 32)), rsv b 1 1, (2, f 2 2 ≠ 1 && f 2 2 ≤ 4096),
      (4, finite32 (f 4 4) && (!(f 4 4).testBit 31 || f 4 4 = 0x80000000)),
      (8, finite32 (f 8 4) && f 8 4 % 2 ^ 31 ≠ 0), rsv b 12 4] ++
    ((List.range 32).map fun m =>
      if m < n then
        [(16 + 8 * m, f (16 + 8 * m) 2 < 256 && !((chs.take m).contains (f (16 + 8 * m) 2))), rsv b (18 + 8 * m) 2,
          (20 + 8 * m, finite32 (f (20 + 8 * m) 4))]
      else [rsv b (16 + 8 * m) 8]).flatten)

/-- R207; SEQ, TIME and CHECK are ignored in a PAT_SET (R476). -/
def checkSwatch (b : Bytes) : Option Nat :=
  let f := fld b
  firstBad [(0, inI (-2 ^ 30) (2 ^ 30) (signed 32 (f 0 4))), (4, inR 0x30000000 0x50000000 (f 4 4)), (8, f 8 1 < 8),
    (9, f 9 1 < 16), (10, f 10 1 ≤ 20 && ((f 11 1) % 2 = 0 || f 10 1 ≠ 0)), (11, f 11 1 < 4), rsv b 22 2,
    (24, finite32 (f 24 4))]

/-- R218. -/
def checkCalLim (b : Bytes) : Option Nat :=
  let f := fld b
  firstBad [(0, f 0 4 ≤ 2 ^ 30), (4, inR 1 2500 (f 4 2)), (6, f 6 2 ≤ 2500), (8, f 8 2 ≠ 0), (10, inR 100 10000 (f 10 2)),
    rsv b 12 4]

/-- R257. -/
def checkTime (b : Bytes) : Option Nat :=
  let f := fld b
  let role := f 7 1
  firstBad [(0, f 0 1 < 2), (1, f 1 1 < 8), (2, f 2 1 < 128), (3, f 3 1 < 128 && f 3 1 ≠ f 2 1), (4, f 4 1 < 64),
    (5, f 5 1 < 64 || f 5 1 = 255), (6, f 6 1 % 16 < 3 && f 6 1 / 16 < 3), (7, role < 16 && role % 4 < 3 && role / 4 < 3),
    (8, inI (-7) 0 (signed 8 (f 8 1))), (9, inI (-4) 4 (signed 8 (f 9 1))), (10, inR 2 64 (f 10 1)),
    (11, inR 1 60 (f 11 1)), (12, inR 1 10000 (f 12 2)), (14, inR 1 100 (f 14 1)), (15, inR 1 200 (f 15 1)),
    (16, inR 10 10000 (f 16 2)), (20, f 20 1 < 4 || f 20 1 = 255), (21, inR 1 50 (f 21 1)), rsv b 22 10]

/-- Condition codes and their arguments (R281). -/
def condOk (cond arg : Nat) : Bool :=
  match cond with
  | 0x00 | 0x01 | 0x02 => arg = 0
  | 0x10 | 0x11 | 0x12 | 0x13 => arg < 640
  | 0x20 | 0x21 | 0x22 | 0x23 | 0x30 | 0x40 | 0x41 | 0x42 => arg < 16
  | 0x50 | 0x51 => arg < 4
  | 0x60 => arg < 64
  | _ => false

def condKnown (cond : Nat) : Bool :=
  [0x00, 0x01, 0x02, 0x10, 0x11, 0x12, 0x13, 0x20, 0x21, 0x22, 0x23, 0x30, 0x40, 0x41, 0x42, 0x50, 0x51, 0x60].contains cond

/-- R279–R282. -/
def checkTsProg (b : Bytes) : Option Nat :=
  let f := fld b
  firstBad ([(0, f 0 1 < 8 && bits (f 0 1) 1 2 ≠ 3), (1, inR 1 4 (f 1 1)), (2, f 2 1 < 4), (3, f 3 1 < 16),
      (4, if f 2 1 = 0 then f 4 4 == 0 else f 4 4 ≠ 0), (8, f 8 1 < 16), rsv b 9 7] ++
    ((List.range 8).map fun k => (16 + 4 * k, decide (f (16 + 4 * k) 4 ≠ 0))) ++
    ((List.range 64).map fun t =>
      let o := 48 + 8 * t
      [(o, condKnown (f o 1)), (o + 1, decide (f (o + 1) 1 < 16)), (o + 2, condOk (f o 1) (f (o + 2) 2)),
        (o + 4, decide (f (o + 4) 4 < 2 ^ 27))]).flatten)

/-- R295. -/
def checkSkc (b : Bytes) : Option Nat :=
  let f := fld b
  firstBad [(0, f 0 1 < 4), (1, f 1 1 ≤ 9), (2, f 2 1 < 2), rsv b 3 1, (4, f 4 2 ≤ 16384), (8, f 8 4 < 2 ^ 24),
    (12, 64 ≤ f 12 4), rsv b 56 8]

/-- R356. -/
def checkRing (b : Bytes) : Option Nat :=
  let f := fld b
  let e := f 2 2
  firstBad [(0, f 0 1 < 2), (1, f 1 1 < 2), (2, 0x0600 ≤ e && e ≠ 0x88F7 && e ≠ 0x8100 && e ≠ 0x88A8),
    (4, inR 1518 9216 (f 4 2)), (6, f 6 1 ≤ 64), rsv b 7 1, (8, inR 10 10000 (f 8 2)), (10, inR 50 10000 (f 10 2)),
    rsv b 16 16]

/-- INDEX range of an OUT_MAP source (R513). -/
def outIndexOk (src idx : Nat) : Bool :=
  match src with
  | 0 | 1 => idx = 0
  | 2 => idx < 640
  | 3 | 4 | 5 => idx < 16
  | 6 => idx < 64
  | 7 => idx < 32
  | _ => false

/-- R513. -/
def checkOutMap (b : Bytes) : Option Nat :=
  let f := fld b
  firstBad (((List.range 16).map fun n =>
    [(4 * n, decide (f (4 * n) 1 < 8)), (4 * n + 1, outIndexOk (f (4 * n) 1) (f (4 * n + 1) 2)),
      (4 * n + 3, decide (f (4 * n + 3) 1 < 8))]).flatten)

/-- R510. -/
def checkDi (idx : Nat) (b : Bytes) : Option Nat :=
  let f := fld b
  let m := f 1 1
  let edge := bits m 1 2
  firstBad [(0, f 0 1 ≠ 0),
    (1, m < 16 && (idx < 16 || !m.testBit 3) && (!(idx = 16 || idx = 17) || edge = 1 || edge = 2)), rsv b 2 2]

/-- R587. -/
def checkPwr (b : Bytes) : Option Nat :=
  let f := fld b
  firstBad [(0, popcount 32 (f 0 4) ≤ 8), (4, f 4 1 < 4), (5, inR 1 4 (f 5 1)), (6, f 6 1 < 8), (7, f 7 1 < 32), rsv b 8 8]

/-- The checks that a structure's own chapter places on a command (R474). -/
def checkStruct (sid idx : Nat) (b : Bytes) : Option Nat :=
  match sid with
  | 0x0001 => checkExc b
  | 0x0003 => firstBad ((List.range 8).map fun n => (n, decide (fld b n 1 < 8)))
  | 0x0004 => checkRot b
  | 0x0005 => firstBad [(0, decide (fld b 0 4 < 2))]
  | 0x0006 => checkAuxScan b
  | 0x0010 => firstBad [(0, inR 6 20 (fld b 0 1)), (1, fld b 1 1 < 2), (2, fld b 2 1 < 16 || fld b 2 1 = 255), rsv b 3 1]
  | 0x0011 => firstBad [(0, inR 3 5 (fld b 0 1)), (1, fld b 1 1 ≤ 6), (2, fld b 2 1 ≤ 4), rsv b 3 1]
  | 0x0012 => firstBad ((List.range 8).map fun n => (2 * n, inI (-1023) 1023 (signed 16 (fld b (2 * n) 2))))
  | 0x0013 => checkThr false b
  | 0x0014 => checkThr true b
  | 0x0020 => checkLin b
  | 0x0021 => checkTemp b
  | 0x0022 => checkWp b
  | 0x0030 => checkSwatch b
  | 0x0031 => checkCalLim b
  | 0x0032 => firstBad ((List.range 8).map fun n => (2 * n, inI (-2048) 2047 (signed 16 (fld b (2 * n) 2))))
  | 0x0033 => firstBad [(0, inR 10 5000 (fld b 0 2)), (2, inR 5 1000 (fld b 2 2)), rsv b 4 4]
  | 0x0040 => checkTime b
  | 0x0041 => firstBad [rsv b 4 4]
  | 0x0050 => checkTsProg b
  | 0x0051 => checkSkc b
  | 0x0060 => checkRing b
  | 0x0061 => firstBad [(40, decide (fld b 40 1 < 2)), rsv b 41 7]
  | 0x0062 => firstBad [(0, inR 10 100000 (fld b 0 4)), (4, fld b 4 1 < 2), (5, fld b 5 1 < 2), rsv b 6 2]
  | 0x0070 => checkOutMap b
  | 0x0071 => checkDi idx b
  | 0x0072 => firstBad ((List.range 192).map fun n => (n, decide (fld b n 1 < 32)))
  | 0x0080 => checkPwr b
  | _ => none

/-! ### Reading and writing a pattern -/

def patKey (sid idx : Nat) : Nat := 65536 * sid + idx

/-- A structure of a pattern: as listed, or its factory default. -/
def Pat.str (p : Pat) (sid idx : Nat) : Bytes :=
  match Tbl.get [] p (patKey sid idx) with
  | [] => defStruct sid
  | b => b

/-- Put a structure into a pattern. -/
def Pat.setStr (p : Pat) (sid idx : Nat) (b : Bytes) : Pat :=
  Tbl.set [] p (patKey sid idx) (if b = defStruct sid then [] else b)

/-- A field of a structure. -/
def Pat.f (p : Pat) (sid idx off n : Nat) : Nat := fld (p.str sid idx) off n

/-- The keys of the structures in which two patterns differ, ascending. -/
def patDiff (p q : Pat) : List Nat :=
  let ks := ((p.map (·.1)) ++ (q.map (·.1))).foldl (fun t k => Tbl.put t k ()) ([] : Tbl Unit)
  (ks.map (·.1)).filter fun k => p.str (k / 65536) (k % 65536) != q.str (k / 65536) (k % 65536)

/-- Whether a structure belongs to the legally relevant set (R476). -/
def legalStruct (sid : Nat) : Bool :=
  match structDef? sid with
  | some d => d.legal
  | none => false

/-- Commit class of the change of one structure: RS for TIME_CFG when PORT_ROLE changes (R258). -/
def keyClass (old new : Pat) (k : Nat) : Nat :=
  let sid := k / 65536
  if sid = sTime then (if old.f sTime 0 7 1 ≠ new.f sTime 0 7 1 then 4 else 1)
  else match structDef? sid with
    | some d => d.cls
    | none => 0

/-- CLASS of a commit: the classes of the structures it changes (R486). -/
def patClass (old new : Pat) (ks : List Nat) : Nat := ks.foldl (fun c k => c ||| keyClass old new k) 0

/-- Copy the structures whose key passes the test from `src` into `p`. -/
def patTake (p src : Pat) (ks : List Nat) (ok : Nat → Bool) : Pat :=
  ks.foldl (fun p k => if ok k then p.setStr (k / 65536) (k % 65536) (src.str (k / 65536) (k % 65536)) else p) p

/-- Cluster to which a structure's change belongs in a cluster-sequential commit, none for a device-wide one (R481). -/
def keyCluster (k : Nat) : Option Nat :=
  let sid := k / 65536
  if sid = sExc ∨ sid = sSlc ∨ sid = sDem then some (k % 65536) else none

end Sys2Proof.Machine
end

