-- ==== Sys2Proof/Machine/Ops.lean ====
section
/-!
DEFINITION. The shared operations of the block: time values, the typed parts of State, the queues (R516–R520), the
interrupt controller and the host vectors (R404, R405, R495–R503), event reports (R373, R505, R585) and the audit-trail
intake (R539–R543). Every family of commands reports through `emit` and `audit`.
-/
namespace Sys2Proof.Machine

/-! ### Time (R29, R233, R234) -/

/-- One nanosecond, one second and one CLK_SYS tick in units of 2^-32 ns. -/
abbrev nsF : Fns := 2 ^ 32
abbrev secF : Fns := 1000000000 * 2 ^ 32

/-- T_ROW = 2^K / 6.25 MHz (R9, R29). -/
def rowT (k : Nat) : Fns := 160 * 2 ^ k * nsF

/-- A time as the 96 bits of R233. -/
def time96 (t : Fns) : Nat :=
  (t / secF % 2 ^ 48) * 2 ^ 48 + (t % secF / nsF) * 2 ^ 16 + (t % nsF) / 2 ^ 16

/-- The time that 96 bits name. -/
def ofTime96 (v : Nat) : Fns := (v / 2 ^ 48) * secF + (v / 2 ^ 16 % 2 ^ 32) * nsF + (v % 2 ^ 16) * 2 ^ 16

def timeBytes (t : Fns) : Bytes := le 12 (time96 t)

def State.base (s : State) : Nat → Base
  | 0 => s.time.b0
  | 1 => s.time.b1
  | 2 => s.time.b2
  | _ => s.time.b3

def TimeU.setBase (t : TimeU) (n : Nat) (b : Base) : TimeU :=
  match n with
  | 0 => { t with b0 := b }
  | 1 => { t with b1 := b }
  | 2 => { t with b2 := b }
  | _ => { t with b3 := b }

def State.updBase (s : State) (n : Nat) (f : Base → Base) : State :=
  { s with time := s.time.setBase n (f (s.base n)) }

def State.selBase (s : State) : Base := s.base s.time.selected

/-! ### Arbitration (R42, R43) -/

/-- The next of the positions that ask for a resource of `n` positions: promoted ones round-robin after the pointer, else
the first in the fixed order. -/
def Arb.winner (a : Arb) (n : Nat) (asking : List Nat) : Option Nat :=
  let promoted := asking.filter fun p => 16 ≤ Tbl.get 0 a.lost p
  if promoted.isEmpty then (List.range n).find? asking.contains
  else ((List.range n).map fun k => (a.ptr + k) % n).find? promoted.contains

/-- Position `p` is granted while `losers` go on asking: a grant of a promoted party moves the pointer behind it. -/
def Arb.grant (a : Arb) (p : Nat) (losers : List Nat) : Arb :=
  { lost := losers.foldl (fun t c => Tbl.upd 0 t c (· + 1)) (Tbl.set 0 a.lost p 0)
    ptr := if 16 ≤ Tbl.get 0 a.lost p then p + 1 else a.ptr }

/-- A party withdraws its request. -/
def Arb.forget (a : Arb) (p : Nat) : Arb := { a with lost := Tbl.set 0 a.lost p 0 }

/-! ### Typed parts -/

def State.cluster (s : State) (cl : Nat) : Cluster := Tbl.get Cluster.init s.flt.clusters cl
def State.chan (s : State) (ch : Nat) : Chan := Tbl.get Chan.init s.flt.chans ch
def State.slice (s : State) (sl : Nat) : Slice := Tbl.get Slice.init s.flt.slices sl
def State.die (s : State) (d : Nat) : FieldDie := Tbl.get FieldDie.init s.flt.dies d
def State.ladder (s : State) (rg : Nat) : Ladder := Tbl.get Ladder.init s.flt.ladders rg
def State.aux (s : State) (d : Nat) : AuxSt := Tbl.get AuxSt.init s.auxs d
def State.dmaCh (s : State) (n : Nat) : DmaCh := Tbl.get DmaCh.init s.dma n
def State.seq (s : State) (n : Nat) : Seq := Tbl.get Seq.init s.cap.seqs n
def State.tev (s : State) (n : Nat) : TimeEv := Tbl.get TimeEv.init s.time.events n
def State.rxSrc (s : State) (n : Nat) : RxSrc := Tbl.get RxSrc.init s.ring.rx n

def State.updCluster (s : State) (cl : Nat) (f : Cluster → Cluster) : State :=
  { s with flt := { s.flt with clusters := Tbl.upd Cluster.init s.flt.clusters cl f } }
def State.updChan (s : State) (ch : Nat) (f : Chan → Chan) : State :=
  { s with flt := { s.flt with chans := Tbl.upd Chan.init s.flt.chans ch f } }
def State.updSlice (s : State) (sl : Nat) (f : Slice → Slice) : State :=
  { s with flt := { s.flt with slices := Tbl.upd Slice.init s.flt.slices sl f } }
def State.updDie (s : State) (d : Nat) (f : FieldDie → FieldDie) : State :=
  { s with flt := { s.flt with dies := Tbl.upd FieldDie.init s.flt.dies d f } }
def State.updLadder (s : State) (rg : Nat) (f : Ladder → Ladder) : State :=
  { s with flt := { s.flt with ladders := Tbl.upd Ladder.init s.flt.ladders rg f } }
def State.updAux (s : State) (d : Nat) (f : AuxSt → AuxSt) : State := { s with auxs := Tbl.upd AuxSt.init s.auxs d f }
def State.updDma (s : State) (n : Nat) (f : DmaCh → DmaCh) : State := { s with dma := Tbl.upd DmaCh.init s.dma n f }
def State.updSeq (s : State) (n : Nat) (f : Seq → Seq) : State :=
  { s with cap := { s.cap with seqs := Tbl.upd Seq.init s.cap.seqs n f } }
def State.updTev (s : State) (n : Nat) (f : TimeEv → TimeEv) : State :=
  { s with time := { s.time with events := Tbl.upd TimeEv.init s.time.events n f } }
def State.updRx (s : State) (n : Nat) (f : RxSrc → RxSrc) : State :=
  { s with ring := { s.ring with rx := Tbl.upd RxSrc.init s.ring.rx n f } }
def State.updDrv (s : State) (cl : Nat) (f : Drv → Drv) : State := s.updCluster cl fun c => { c with drv := f c.drv }
def State.updRot (s : State) (cl : Nat) (f : Rot → Rot) : State := s.updCluster cl fun c => { c with rot := f c.rot }

/-- Draw a free value: the counter moves on (notes/assumptions/3.md). -/
def State.draw (s : State) : BitVec 64 × State := (Config.freeWord s.fresh, { s with fresh := s.fresh + 1 })

/-- The straps are read at a release of the logic power-on reset (R597). -/
def State.readStraps (s : State) : State :=
  { s with fresh := s.fresh + 1, pm := { s.pm with straps := Config.straps s.fresh } }

/-- The pattern in force (R472). -/
def State.pat (s : State) : Pat := s.mbx.force

/-- A row stream is open (R261). -/
def State.rowOpen (s : State) : Bool := s.flt.rows.phase = .running

/-- Cluster, region and die of a channel (R15, R20, R22), and the slice that serves it. -/
def chCluster (ch : Nat) : Nat := ch / 8
def chRegion (ch : Nat) : Nat := ch / 32
def chDie (ch : Nat) : Nat := ch / 128
def clDie (cl : Nat) : Nat := cl / 16
def clRegion (cl : Nat) : Nat := cl / 4
def clChans (cl : Nat) : List Nat := (List.range 8).map (8 * cl + ·)
def dieClusters (d : Nat) : List Nat := (List.range 16).map (16 * d + ·)
def dieChans (d : Nat) : List Nat := (List.range 128).map (128 * d + ·)
def dieSlices (d : Nat) : List Nat := (List.range 144).map (144 * d + ·)
def State.chSlice (s : State) (ch : Nat) : Nat := 9 * (ch / 8) + (s.cluster (ch / 8)).slots.getD (ch % 8) 0
def State.spareSlice (s : State) (cl : Nat) : Nat := 9 * cl + (s.cluster cl).spare

/-- What a scope names in FAULT markers (R97). -/
def scopeCl (cl : Nat) : Nat := 0x8000 + cl
def scopeDie (d : Nat) : Nat := 0x9000 + d
def scopeRegion (sc : Nat) : Nat :=
  if sc < 0x8000 then chRegion sc else if sc < 0x9000 then clRegion (sc - 0x8000) else 4 * (sc - 0x9000)

/-! ### Interrupt controller (R495–R503) -/

/-- The counted sources of R495. -/
def srcCounted (n : Nat) : Bool :=
  inR 32 35 n || n = 41 || n = 43 || inR 48 63 n || inR 96 115 n

/-- The level sources of R495. -/
def srcLevel (n : Nat) : Bool := n = 0 || n = 8 || inR 144 152 n

/-- The sources that never pend. -/
def srcUsed (n : Nat) : Bool :=
  n < 192 && !(inR 6 7 n || inR 14 15 n || inR 45 47 n || inR 82 95 n || inR 116 127 n || inR 153 159 n || inR 169 175 n ||
    inR 178 191 n)

/-- The lowest set bit of a mask of 192 sources, 255 for none (R496). -/
def lowest (m : Nat) : Nat := ((List.range 192).find? fun i => m.testBit i).getD 255

/-- Sources that are pending: edge sources as latched, level sources while asserted and not active (R503). -/
def Ic.pending (c : Ic) : Nat :=
  let lv := bitSet c.level c.activeC false
  c.pend ||| bitSet lv c.activeM false

/-- Sources routed to the control core, and to the management core (R497). -/
def Ic.routedC (c : Ic) : Nat := c.cmask
def Ic.routedM (c : Ic) : Nat := clearBits c.mmask c.cmask

/-- PRESENT_C and PRESENT_M: nothing while a source is active (R498), else the lowest routed pending source. -/
def Ic.presentC (c : Ic) : Nat := if c.activeC = 255 then lowest (c.pending &&& c.routedC) else 255
def Ic.presentM (c : Ic) : Nat := if c.activeM = 255 then lowest (c.pending &&& c.routedM) else 255

/-- A firing of an edge source: pending, active-and-pending (R500) or counted (R501). -/
def Ic.fire (c : Ic) (n : Nat) : Ic :=
  let active := c.activeC = n || c.activeM = n
  if srcCounted n then
    { c with counts := Tbl.upd 0 c.counts n (fun v => sat 255 (v + 1)), pend := if active then c.pend else bitSet c.pend n true }
  else if active then { c with actPend := bitSet c.actPend n true }
  else { c with pend := bitSet c.pend n true }

/-- Count the presentations that a change withdraws (R502, R522). -/
def Ic.withdrawn' (old new : Ic) : Ic :=
  let lost := fun (a b : Nat) (act : Nat) => a ≠ 255 && act = 255 && a ≠ b && !new.pending.testBit a
  let masked := fun (a : Nat) (r : Nat) => a ≠ 255 && !r.testBit a
  let n := b2n (lost old.presentC new.presentC new.activeC || masked old.presentC new.routedC) +
    b2n (lost old.presentM new.presentM new.activeM || masked old.presentM new.routedM)
  { new with withdrawn := sat 65535 (old.withdrawn + n) }

/-! ### Host vectors (R404, R405, R407) -/

/-- A byte of the MSI-X table: Vector Control comes up masked, as PCI Express defines it (notes/assumptions/4.md). -/
def msixDef (off : Nat) : Byte := if off % 16 = 12 then 1 else 0
def State.msixByte (s : State) (off : Nat) : Byte := Tbl.get (msixDef off) s.host.msixTbl off
def State.msixMasked (s : State) (v : Nat) : Bool := (s.msixByte (16 * v + 12)).getLsbD 0

/-- A source event of vector `v`: PEND of MBX_QSIRQ, and one message unless the vector is masked or already pending. -/
def vecRaw (s : State) (v : Nat) : State :=
  let h := { s.host with qsPend := bitSet s.host.qsPend v true }
  { s with host := if s.msixMasked v then { h with msixPend := bitSet h.msixPend v true }
                   else { h with msgs := Tbl.upd 0 h.msgs v (· + 1) } }

/-- EVT_ROUTE of a source (R505). -/
def State.route (s : State) (n : Nat) : Nat := s.pat.f sEvtRoute 0 n 1

/-- A firing with HOST = 1 sets the IC_HPEND bit; its rise is the source event of vector 18 + HGROUP (R505). -/
def hostRoute (s : State) (n : Nat) : State :=
  let r := s.route n
  if r.testBit 3 then
    let was := s.ic.hpend.testBit n
    let s := { s with ic := { s.ic with hpend := bitSet s.ic.hpend n true } }
    if was then s else vecRaw s (18 + r % 8)
  else s

/-- An edge source fires. -/
def fireSrc (s : State) (n : Nat) : State := hostRoute { s with ic := s.ic.fire n } n

/-- A level source's cause is asserted or not (R503). -/
def setLevel (s : State) (n : Nat) (b : Bool) : State :=
  let rise := b && !s.ic.level.testBit n
  let s := { s with ic := Ic.withdrawn' s.ic { s.ic with level := bitSet s.ic.level n b } }
  if rise then hostRoute s n else s

/-- A source event of a vector; vectors 2 to 17 are also sources 128 to 143 (R404, R495). -/
def vector (s : State) (v : Nat) : State :=
  let s := vecRaw s v
  if 2 ≤ v ∧ v ≤ 17 then fireSrc s (126 + v) else s

/-! ### Queues (R516–R520) -/

def qDepth : Nat → Nat
  | 0 => 8 | 1 => 2048 | 2 => 2048 | 3 => 4096 | 4 => 512 | 5 => 2048 | 6 => 64 | 7 => 1024 | _ => 4

def qStaleReset : Nat → Nat
  | 0 => 1000 | 1 => 10000 | 2 => 10000 | 3 => 2000 | 5 => 2000 | 7 => 65000 | _ => 0

/-- The queues of R516 that refuse an item whole when it does not fit. -/
def qDropNew (q : Nat) : Bool := q = 1 || q = 2 || q = 3 || q = 7

def State.queue (s : State) (q : Nat) : Queue := Tbl.get (Queue.init (qStaleReset q)) s.queues q

def Queue.level (q : Queue) : Nat := (q.items.map (·.words.length)).sum

/-- Put a queue back, with the level source of its occupancy (R495 sources 8 and 144–152). -/
def State.setQueue (s : State) (q : Nat) (v : Queue) : State :=
  let v := { v with staleRun := v.staleRun || v.items.isEmpty }
  let s := { s with queues := Tbl.set (Queue.init (qStaleReset q)) s.queues q v }
  let ne := !v.items.isEmpty
  let s := setLevel s (144 + q) ne
  if q = 0 then setLevel s 8 ne else s

/-- The queues whose producer waits word by word, with the words of an item; a POST waits in the same way (R516). -/
def qStall (q : Nat) : Bool := q = 0 || q = 5 || q = 8
def qItemWords (q : Nat) : Nat := if q = 5 then 4 else 1

/-- Add a word at the tail: to the item being written, or as the start of a new one. -/
def addWord (n : Nat) (items : List QItem) (w : BitVec 32) : List QItem :=
  match items.getLast? with
  | some i =>
    if i.complete then items ++ [⟨[w], n == 1, false⟩]
    else items.dropLast ++ [{ i with words := i.words ++ [w], complete := i.words.length + 1 == n }]
  | none => [⟨[w], n == 1, false⟩]

/-- Position of a waiting word's party at the intake: the mailbox intake takes posts from ring, PCIe and QSPI in this order
(R42), any other queue has one producer. -/
def qParty (q : Nat) (w : BitVec 32) : Nat := if q = 0 then w.toNat / 256 - 0x40 else 0

/-- One waiting word enters: the oldest of the party that the intake grants. -/
def Queue.letOne (v : Queue) (q : Nat) : Queue :=
  match (v.arb.winner 3 (v.stalled.map (qParty q))).bind fun p => v.stalled.find? (qParty q · == p) with
  | none => v
  | some w =>
    let rest := v.stalled.erase w
    let p := qParty q w
    { v with
      items := addWord (qItemWords q) v.items w, stalled := rest
      arb := v.arb.grant p ((List.range 3).filter fun c => c != p && rest.any (qParty q · == c)) }

/-- Words that waited for space enter as far as there is room. -/
def Queue.letIn (v : Queue) (q : Nat) : Queue :=
  let v := (List.range (Nat.min v.stalled.length (qDepth q - v.level))).foldl (fun v _ => v.letOne q) v
  { v with high := Nat.max v.high v.level }

/-- Append a whole item; the answer is false where it does not fit and is refused. With STALL the words wait. -/
def qPut (s : State) (q : Nat) (ws : List (BitVec 32)) : State × Bool :=
  let v := s.queue q
  if qStall q then (s.setQueue q (({ v with stalled := v.stalled ++ ws } : Queue).letIn q), true)
  else if v.level + ws.length ≤ qDepth q then
    let v := { v with items := v.items ++ [⟨ws, true, false⟩], high := Nat.max v.high (v.level + ws.length), ovfEp := false }
    (s.setQueue q v, true)
  else (s.setQueue q { v with ovf := sat 65535 (v.ovf + 1) }, false)

/-- An item of one word leaves the queue, wherever it stands, or no longer waits for room. -/
def qErase (s : State) (q : Nat) (w : BitVec 32) : State :=
  let v := s.queue q
  if v.items.contains ⟨[w], true, false⟩ then s.setQueue q (({ v with items := v.items.erase ⟨[w], true, false⟩ } : Queue).letIn q)
  else s.setQueue q { v with stalled := v.stalled.erase w }

/-- Take the oldest item once it is whole; a read rearms the stale timer (R519) and lets waiting words in. -/
def qTake (s : State) (q : Nat) : Option (QItem × State) :=
  match (s.queue q).items with
  | [] => none
  | i :: r =>
    if i.complete then
      some (i, s.setQueue q (({ s.queue q with items := r, staleRun := true, readAt := some s.time.b2.val } : Queue).letIn q))
    else none

def wordsOf : Nat → Bytes → List (BitVec 32)
  | 0, _ => []
  | n + 1, b => BitVec.ofNat 32 (fld b 0 4) :: wordsOf n (b.drop 4)

def bytesOf (ws : List (BitVec 32)) : Bytes := (ws.map fun w => le 4 w.toNat).flatten

/-! ### Event reports (R373, R495, R505, R585) -/

/-- The interrupt source of an event (R495). Field events carry a SCOPE as subject, rotation events a channel. -/
def evSource (code subj : Nat) : Option Nat :=
  if inR 0x6030 0x6036 code then some 1
  else if code = 0x6010 then some 2
  else if inR 0x6020 0x6021 code then some 3
  else if inR 0x6040 0x6042 code then some (160 + subj)
  else if inR 0x6000 0x60FF code then some 4
  else if inR 0x7000 0x7FFF code then some 5
  else if inR 0x5050 0x5055 code ∨ code = 0x1040 then some 9
  else if inR 0x5001 0x5014 code then some 10
  else if inR 0x5020 0x5025 code then some 11
  else if inR 0x5030 0x5032 code then some 12
  else if inR 0x5040 0x5045 code then some 13
  else if inR 0x4001 0x4008 code then some 36
  else if inR 0x4020 0x4022 code then some 37
  else if inR 0x3001 0x3013 code then some 38
  else if inR 0x3020 0x3022 code then some 39
  else if inR 0x3030 0x3033 code then some 40
  else if inR 0x3040 0x3041 code then some 43
  else if inR 0x3050 0x3060 code then some 42
  else if code = 0x2060 ∨ inR 0x1030 0x1036 code then some 81
  else if inR 0x2000 0x2FFF code then some (64 + scopeRegion subj)
  else if inR 0x1001 0x1005 code then some (72 + scopeRegion subj)
  else if inR 0x1010 0x1022 code then some 80
  else none

/-- Packing of the listed items of an event into ARG, 2 bytes each (notes/assumptions/13.md). -/
def args (l : List Nat) : Nat := l.foldr (fun v a => v % 65536 + 65536 * a) 0

/-- A generic record of an EVENT frame (R373). -/
def genRecord (code subj row arg : Nat) : Bytes := le 2 code ++ le 2 subj ++ le 6 row ++ le 14 arg

/-- A health-log record before its ENTRY is known (R585). -/
def healthRecord (code subj row time arg : Nat) : Bytes :=
  zeros 4 ++ le 2 code ++ le 2 subj ++ le 6 row ++ zeros 2 ++ le 8 time ++ le 8 arg

/-- An event with no queue-overflow report of its own: its source fires, the routed core's event queue, Q3 under FRAME,
and the health log take a record. -/
def report (s : State) (src : Option Nat) (code subj arg : Nat) : State :=
  let row := s.flt.rows.row
  let rec24 := wordsOf 6 (genRecord code subj row arg)
  let s := if code = 0x4001 then s else (qPut s 7 (wordsOf 8 (healthRecord code subj row (s.time.b2.val / nsF) arg))).1
  match src with
  | none => s
  | some n =>
    let s := fireSrc s n
    let s := if s.ic.routedC.testBit n then (qPut s 1 rec24).1
             else if s.ic.routedM.testBit n then (qPut s 2 rec24).1 else s
    if (s.route n).testBit 4 then (qPut s 3 rec24).1 else s

/-- Q_OVERFLOW of a DROP_NEW queue that has refused an item, once per episode (R516). -/
def overflowReport (before : State) (s : State) (q : Nat) : State :=
  let v := s.queue q
  if (before.queue q).ovf < v.ovf ∧ !v.ovfEp then
    report (s.setQueue q { s.queue q with ovfEp := true }) (some (160 + q)) 0x6041 q 0
  else s

/-- An event of a given source. -/
def emitFrom (s : State) (src : Option Nat) (code subj arg : Nat) : State :=
  [1, 2, 3, 7].foldl (fun t q => overflowReport s t q) (report s src code subj arg)

/-- Report an event with its subject and argument. -/
def emit (s : State) (code subj arg : Nat) : State := emitFrom s (evSource code subj) code subj arg

/-- A DROP_NEW write with its overflow report. -/
def qPush (s : State) (q : Nat) (ws : List (BitVec 32)) : State := overflowReport s (qPut s q ws).1 q

/-! ### Leases and owner tags (R46) -/

/-- Owner tag of a transport (R456). -/
def viaTag : Via → Nat
  | .ring _ => 0x40
  | .pcie => 0x41
  | .qspi => 0x42

/-- The activity that renews a lease (R45, R47). -/
def renew (s : State) (r : LeaseRes) : State :=
  { s with leases := { s.leases with renewed := (r, s.time.b2.val) :: s.leases.renewed.filter fun e => e.1 != r } }

/-- A lease was renewed in this cycle: its expiry comes too late (R40). -/
def State.justRenewed (s : State) (r : LeaseRes) : Bool := s.leases.renewed.contains (r, s.time.b2.val)

/-- A resource changes hands: a fault of its former holder does not weigh on the new one (R41, R45). -/
def acquire (s : State) (r : LeaseRes) : State :=
  renew { s with leases := { s.leases with faulty := s.leases.faulty.filter fun e => e.1 != r } } r

/-- A holder barred from a resource until it is reset (R48). -/
def State.isBarred (s : State) (r : LeaseRes) (tag : Nat) : Bool := s.leases.barred.contains (r, tag)

/-- A core starts no transaction on the serial memory: it is barred (R48), or an emergency bind-off runs (R578). -/
def State.serialShut (s : State) (core : Nat) : Bool := s.isBarred .serialMem core || s.pm.emergency

/-- A holder has been reset: it may take its leases again (R48). -/
def unbar (s : State) (tag : Nat) : State :=
  { s with leases := { s.leases with barred := s.leases.barred.filter fun e => e.2 ≠ tag } }

/-- Positions that ask for the external serial-memory controller (R42): the control core (0) saves patterns and swatches, the
management core (1) writes the trail, clears it, and erases the chrysalis. A barred core does not ask (R48). -/
def State.serialAsks (s : State) : List Nat :=
  (if (s.mbx.saving.isSome || s.mbx.wait.any (fun w => !w.onRing)) && !s.isBarred .serialMem 1 then [0] else []) ++
  (if (!(s.queue 4).items.isEmpty && (!s.sec.intakeShut || s.sec.finishing) || s.sec.trailSt = 2 || s.sec.chrysalis = .erasing)
      && !s.isBarred .serialMem 2 then [1] else [])

/-- The core whose transaction runs on the serial memory, 0 for none: the one granted last while it goes on asking, else the
one that the controller grants. -/
def State.serialHolder (s : State) : Nat :=
  if s.leases.serial ≠ 0 && s.serialAsks.contains (s.leases.serial - 1) then s.leases.serial
  else match s.leases.serialArb.winner 2 s.serialAsks with
    | some p => p + 1
    | none => 0

/-- The controller is granted as State.serialHolder says; a request posted from now on waits for the end of that transaction. -/
def holdSerial (s : State) : State :=
  let h := s.serialHolder
  if h = s.leases.serial then s
  else { s with leases := { s.leases with
    serial := h
    serialArb := if h = 0 then s.leases.serialArb
      else s.leases.serialArb.grant (h - 1) (s.serialAsks.filter fun p => p ≠ h - 1) } }

/-- A transaction on the serial memory has ended: a fault of its holder has no resource left to revoke (R41), and the next
grant begins a lease of its own (R45). -/
def endSerial (s : State) : State :=
  renew (holdSerial { s with leases := { s.leases with
    faulty := s.leases.faulty.filter fun e => e.1 != .serialMem, serial := 0 } }) .serialMem

/-! ### Audit-trail intake (R536, R539–R543) -/

/-- What became of an audit event at the intake. -/
inductive AuditRes where
  | accepted | busy | full
deriving DecidableEq, Repr

def lifeCode : Lifecycle → Nat
  | .blank => 0 | .opened => 1 | .sealed => 2 | .service => 3

/-- A record as the intake holds it: RECNO and MAC are the writer's (R536, R538). -/
def auditBytes (s : State) (code subj supp : Nat) (old new : Nat) : Bytes :=
  let b := s.selBase
  [0x5A, 1] ++ le 2 code ++ zeros 4 ++ le 2 subj ++ le 2 s.flt.rows.epoch ++ le 6 s.flt.rows.row ++
    [BitVec.ofNat 8 (lifeCode s.sec.life + 4 * s.time.selected + 8 * b2n (b.st = .locked))] ++ le 1 supp ++
    le 6 (b.val / secF) ++ le 4 (b.val % secF / nsF) ++ le 2 s.sec.breaks ++ le 8 old ++ le 8 new ++ zeros 16

/-- The image of a firmware slot: the one staged into it, or production's. -/
def State.fwImage (s : State) (n : Nat) : FwSlot :=
  match Tbl.get none s.sec.slots n with
  | some x => x
  | none => ⟨[], 0, 0x0300 + (Config.fwMinor n).toNat, Config.fwId n, Config.secVersion n⟩

def auditFree (s : State) : Nat := 32 - (s.queue 4).items.length

/-- The trail is FULL. Position 8,191 is kept for the first SEAL_BREAK or AON_LOST after that (R542). -/
def trailShut (s : State) (code : Nat) : Bool :=
  s.sec.trailSt = 1 && !((code = 0x7002 || code = 0x7005) && s.sec.next ≤ 8191)

/-- Take a token of a code's bucket and put the record into the intake. -/
def auditAccept (s : State) (code subj old new : Nat) : State :=
  let bk := Tbl.get Bucket.init s.sec.buckets code
  let b := auditBytes s code subj (sat 255 bk.suppressed) old new
  let s := { s with sec := { s.sec with buckets := Tbl.set Bucket.init s.sec.buckets code ⟨sat 4 (bk.missing + 1), 0⟩ } }
  (qPut s 4 (wordsOf 16 b)).1

def bucketEmpty (s : State) (code : Nat) : Bool := 4 ≤ (Tbl.get Bucket.init s.sec.buckets code).missing

/-- A gating event: accepted, or refused with nothing changed (R539–R543), with TRAIL_FULL from the FULL trail on, a
commanded break too (R525); BUSY also while the trail is cleared (R546). In BLANK there are no records (R524). -/
def auditGate (s : State) (code subj old new : Nat) : AuditRes × State :=
  if s.sec.life = .blank then (.accepted, s)
  else if s.sec.intakeShut || s.sec.trailSt = 2 then (.busy, s)
  else if s.sec.trailSt = 1 then (.full, s)
  else if (code ≠ 0x7002 && bucketEmpty s code) || auditFree s < 2 then (.busy, s)
  else (.accepted, auditAccept s code subj old new)

/-- A non-gating event: accepted, suppressed, or lost and counted. -/
def auditNote (s : State) (code subj old new : Nat) : State :=
  if s.sec.life = .blank then s
  else if s.sec.intakeShut then { s with sec := { s.sec with lostPower := s.sec.lostPower + 1 } }
  else if trailShut s code then { s with sec := { s.sec with lostFull := sat (2 ^ 32 - 1) (s.sec.lostFull + 1) } }
  else if code ≠ 0x7002 && bucketEmpty s code then
    { s with sec := { s.sec with
        suppressed := sat (2 ^ 32 - 1) (s.sec.suppressed + 1)
        buckets := Tbl.upd Bucket.init s.sec.buckets code fun b => { b with suppressed := b.suppressed + 1 } } }
  else if auditFree s = 0 || (code ≠ 0x7002 && auditFree s < 2) then
    { s with sec := { s.sec with lostIntake := s.sec.lostIntake + 1, overflow := sat (2 ^ 32 - 1) (s.sec.overflow + 1) } }
  else auditAccept s code subj old new

end Sys2Proof.Machine
end

