-- ==== Sys2Proof/Machine/RingOps.lean ====
section
/-!
DEFINITION. What the ring's commands share: the frame cycle (R436), the admitted rate (R377, R378), the Zimir header
(R364), steering and wrapping (R376, R381) and the sending of a frame (R366, R383).
-/
namespace Sys2Proof.Machine

/-! ### Frame cycle and admitted rate of a pattern -/

/-- K of a pattern (R149). -/
def Pat.k (p : Pat) : Nat := p.f sRow 0 0 1

/-- The largest m up to `n` with 2^m · T_ROW ≤ CYCLE_TARGET, or 0 (R436). -/
def cycleUpTo (p : Pat) : Nat → Nat
  | 0 => 0
  | n + 1 => if 2 ^ (n + 1) * rowT p.k ≤ p.f sFe 0 0 4 * 1000 * nsF then n + 1 else cycleUpTo p n

def Pat.cycleM (p : Pat) : Nat := cycleUpTo p 12

/-- A weighing point is disabled by COUNT 0 (R189). -/
def Pat.wpOn (p : Pat) (w : Nat) : Bool := p.f sWp w 0 1 ≠ 0

/-- Bytes of a row with the given member masks: 4c + 8w in S32, 4c + 4⌈c/4⌉ + 8w in L32 (R297). -/
def rowBytes (chMask wpMask : Nat) (l32 : Bool) : Nat :=
  let c := popcount 256 chMask
  4 * c + (if l32 then 4 * ceilDiv c 4 else 0) + 8 * popcount 64 wpMask

/-- Weighing points of a mask less the disabled ones. -/
def Pat.wpMask (p : Pat) (m : Nat) : Nat := (bitsOf 64 m).foldl (fun a w => if p.wpOn w then bitSet a w true else a) 0

/-- ROW_BYTES of the row stream (R368). -/
def Pat.streamBytes (p : Pat) : Nat :=
  rowBytes (p.f sStream 0 0 32) (p.wpMask (p.f sStream 0 32 8)) ((p.f sStream 0 40 1).testBit 0)

/-- Rows that a frame holds after the marker reserve (R369), and frames of a cycle. -/
def Pat.rowsPerFrame (p : Pat) : Nat := (p.f sRing 0 4 2 - 162) / p.streamBytes
def Pat.framesPerCycle (p : Pat) : Nat := if p.streamBytes = 0 then 1 else ceilDiv (2 ^ p.cycleM) p.rowsPerFrame

/-- G_RES, and G_s in kbit/s rounded up (R377). -/
def gRes : Nat := 20000
def Pat.gS (p : Pat) : Nat :=
  let n := 2 ^ p.cycleM
  let b := p.framesPerCycle * 182 + n * p.streamBytes
  gRes + ceilDiv (8 * b * 1000000) (n * 160 * 2 ^ p.k)

/-- The replay region in MiB: the exact G_s over REPLAY_MS, 2,500 bytes of G_RES in each ms and B bytes in each frame cycle of
2^m · T_ROW (R377, R383). -/
def Pat.regionMiB (p : Pat) : Nat :=
  let n := 2 ^ p.cycleM
  let cycle := n * 160 * 2 ^ p.k
  let b := p.framesPerCycle * 182 + n * p.streamBytes
  Nat.min 256 (ceilDiv (p.f sRing 0 8 2 * (gRes / 8 * cycle + b * 1000000)) (cycle * 2 ^ 20))

/-- PORT_ROLE: 0 RING, 1 EXTERNAL, 2 OFF (R257). -/
def State.portRole (s : State) (port : Nat) : Nat := bits (s.pat.f sTime 0 7 1) (2 * port) 2

/-- ROLE ROOT (R356). -/
def State.isRoot (s : State) : Bool := s.pat.f sRing 0 0 1 = 1

def State.port (s : State) (n : Nat) : Port := if n = 0 then s.ring.za else s.ring.zb
def State.updPort (s : State) (n : Nat) (f : Port → Port) : State :=
  { s with ring := if n = 0 then { s.ring with za := f s.ring.za } else { s.ring with zb := f s.ring.zb } }

/-- C_G in Mbit/s: 24 Gbit/s when every ring link runs mode 1 (R378). The station sees the modes of its own links; those of the
other hops are what it has learned of them (notes/assumptions/28.md). -/
def State.capacity (s : State) : Nat :=
  let slow := fun (p : Port) => p.st = .up && p.mode = 2
  if slow s.ring.za || slow s.ring.zb || s.ring.slow &&& s.ring.linkUp ≠ 0 then 9600 else 24000

/-- H of R398 in kbit/s, exact. -/
def hostCap (gen width mps : Nat) : Nat :=
  let lanes := match width with | 4 => 4 | 2 => 2 | 1 => 1 | _ => 0
  let full := match gen with | 4 => 12500000 | 3 => 6250000 | 2 => 3125000 | 1 => 1562500 | _ => 0
  let h := full * lanes
  if mps = 0 then 3 * h / 4 else h

/-- The ledger limit in kbit/s (R399). -/
def State.ledgerLimit (s : State) : Nat :=
  let c := s.capacity * 1000
  if s.host.cameUp then Nat.min c (hostCap s.host.gen s.host.width s.host.mps) else c

def ledgerSum (t : Tbl Nat) : Nat := (t.map (·.2)).sum

/-- Σ G_s in kbit/s as this station knows it: the root's ledger, and elsewhere what the last ADMIT_RSP left free (R354, R374). -/
def State.admittedSum (s : State) : Nat := if s.isRoot then ledgerSum s.ring.ledger else s.ring.admitted

/-! ### Frames (R364) -/

def zHead (f : ZFrame) : Bytes :=
  le 1 f.version ++ le 1 f.kind ++ le 1 f.flags.toNat ++ le 1 f.hops ++ le 1 f.src ++ le 1 f.dst ++ le 2 f.epoch ++
    le 4 f.seq ++ le 2 f.payload.length ++ le 1 f.subtype ++ zeros 1 ++ le 6 f.row ++ zeros 6

def zSeal (f : ZFrame) : ZFrame := { f with hcheck := BitVec.ofNat 32 (crc32c (zHead f)) }

/-- HCHECK is right. -/
def zCheckOk (f : ZFrame) : Bool := f.hcheck == BitVec.ofNat 32 (crc32c (zHead f))

/-- Header and payload, as replayed and as delivered (R383, R419). -/
def zBytes (f : ZFrame) : Bytes := zHead f ++ le 4 f.hcheck.toNat ++ f.payload

/-- (a − b) modulo 2^32, and a lies above b (R384). -/
def seqDist (a b : Nat) : Nat := (a + 2 ^ 32 - b % 2 ^ 32) % 2 ^ 32
def seqAbove (a b : Nat) : Bool := 0 < seqDist a b && seqDist a b < 2 ^ 31

/-- The guaranteed kinds (R367). -/
def kindGuaranteed (k : Nat) : Bool := k = 1 || k = 3 || k = 4 || k = 5

/-! ### Steering and wrapping -/

/-- Physical port of the logical downstream port: ZB, or ZA where the station is crossed (R359, R360). -/
def State.portD (s : State) : Nat := if s.ring.crossed then 0 else 1
def State.portU (s : State) : Nat := if s.ring.crossed then 1 else 0

def indexIn (l : List Nat) (x : Nat) : Option Nat := l.findIdx? (· == x)

/-- The hops i, i+1, … (n of them, modulo the ring) are all UP. -/
def hopsUp (linkUp n i : Nat) : Nat → Bool
  | 0 => true
  | k + 1 => linkUp.testBit (i % n) && hopsUp linkUp n (i + 1) k

/-- The port with fewer UP hops to DST, D on a tie (R376). -/
def State.steer (s : State) (dst : Nat) : Nat :=
  let n := s.ring.order.length
  match indexIn s.ring.order s.ring.station, indexIn s.ring.order dst with
  | some i, some j =>
    let down := (j + n - i) % n
    let up := (i + n - j) % n
    let upOk := hopsUp s.ring.linkUp n j up
    let downOk := hopsUp s.ring.linkUp n i down
    if upOk && (!downOk || up < down) then s.portU else s.portD
  | _, _ => s.portD

/-- A frame leaves by a port; a wrapped port, or one that is not in RING role (R251), turns it to the other one with WRAPPED set, and a frame that would wrap
twice is dropped and counted (R381). -/
def egressAs (s : State) (port : Nat) (f : ZFrame) (fcsOk : Bool) : State :=
  if (s.port port).wrap || s.portRole port ≠ 0 then
    if f.flags.getLsbD 1 || (s.port (1 - port)).wrap || s.portRole (1 - port) ≠ 0 then { s with ring := { s.ring with drops := Tbl.upd 0 s.ring.drops 4 (· + 1) } }
    else
      { s with ring := { s.ring with egress := ⟨1 - port, zSeal { f with flags := f.flags ||| 2 }, fcsOk⟩ :: s.ring.egress } }
  else { s with ring := { s.ring with egress := ⟨port, f, fcsOk⟩ :: s.ring.egress } }

def egressVia (s : State) (port : Nat) (f : ZFrame) : State := egressAs s port f true

/-- The version at which the station sends (R353, R359). -/
def State.sendVersion (s : State) (port : Nat) : Nat :=
  if s.ring.enumerated then s.ring.version else if (s.port port).version = 0 then 3 else (s.port port).version

/-- Station number that a frame carries: 0xFE before enumeration (R364). -/
def State.srcNo (s : State) : Nat := if s.ring.numbered then s.ring.station else 0xFE

def feBit (s : State) : BitVec 8 := if s.fe.active = 0 then 0 else 8

/-- Assemble a frame of this station. -/
def mkFrame (s : State) (version kind dst seq subtype row : Nat) (p : Bytes) : ZFrame :=
  zSeal
    { version := version, kind := kind, flags := feBit s, hops := 0, src := s.srcNo, dst := dst, epoch := s.flt.rows.epoch,
      seq := seq, subtype := subtype, row := row, payload := p, hcheck := 0 }

/-- An engine originates frames (R431, R449). -/
def State.engineOn (s : State) : Bool := (if s.fe.active = 0 then s.fe.a else s.fe.b) = .active

/-- Send a best-effort frame of this station out of a port: only an active engine originates one (R431, R435). -/
def sendBe (s : State) (port kind dst subtype : Nat) (p : Bytes) : State :=
  if s.engineOn then
    egressVia { s with ring := { s.ring with beSeq := (s.ring.beSeq + 1) % 2 ^ 32 } } port
      (mkFrame s (s.sendVersion port) kind dst s.ring.beSeq subtype s.flt.rows.row p)
  else s

/-- A MGMT frame: to the neighbour of a port, or steered to a station, or to every station out of D (R374). -/
def sendMgmt (s : State) (dst subtype : Nat) (p : Bytes) : State :=
  sendBe s (if dst = 0xFF then s.portD else s.steer dst) 6 dst subtype p

/-- Guaranteed frames are originated: the ring is enumerated and an engine works (R358, R449). -/
def State.originates (s : State) : Bool := s.ring.enumerated && s.engineOn

/-- A guaranteed frame of this station goes where its DST is: to the PCIe endpoint (port 2) where the root addresses its own host
(R367), to those that wait while the links are down in WATCH (R570), else by the port that R376 names. -/
def emitG (s : State) (f : ZFrame) : State :=
  if f.dst = s.ring.station then { s with ring := { s.ring with egress := ⟨2, f, true⟩ :: s.ring.egress } }
  else if s.ring.away then { s with ring := { s.ring with waiting := s.ring.waiting ++ [(s.time.b2.val, f)] } }
  else egressVia s (s.steer f.dst) f

/-- Hand a guaranteed frame over: a place in the replay region (R383), and out. -/
def originate (s : State) (f : ZFrame) : State :=
  emitG { s with ring := { s.ring with
    gSeq := (s.ring.gSeq + 1) % 2 ^ 32, replay := s.ring.replay ++ [f]
    replayWr := (s.ring.replayWr + (zBytes f).length) % (s.pat.regionMiB * 2 ^ 20) } } f

/-- A link carries frames again: those that waited for one leave, oldest first, but for any that is older than REPLAY_MS
(R570). -/
def sendWaiting (s : State) : State :=
  if s.ring.away && [0, 1].any (fun p => (s.port p).st = .up && !(s.port p).wrap && s.portRole p = 0) then
    let young := fun (t : Fns) => s.time.b2.val ≤ t + s.pat.f sRing 0 8 2 * 1000000 * nsF
    (s.ring.waiting.filter fun e => young e.1).foldl (fun s e => egressVia s (s.steer e.2.dst) e.2)
      { s with ring := { s.ring with away := false, waiting := [] } }
  else s

/-- Send a guaranteed frame, where any is originated. -/
def sendG (s : State) (kind dst row : Nat) (p : Bytes) : State :=
  if s.originates then originate s (mkFrame s s.ring.version kind dst s.ring.gSeq 0 row p) else s

end Sys2Proof.Machine
end

