-- ==== Sys2Proof/Machine/Operands.lean ====
section
/-!
DEFINITION. The mailbox command as an operand (R456–R471): posting a command into a bank, taking it, the checks of its
header and payload form, forwarding, and the response. A family gives each command its payload form and its body; all the
rest is here. notes/assumptions/8.md says when a command row counts as posted.
-/
namespace Sys2Proof.Machine

/-- STATE of a DMA channel (R411). -/
def DmaState.code : DmaState → Nat
  | .idle => 0 | .running => 1 | .pausing => 2 | .paused => 3 | .draining => 4 | .pausedPower => 5 | .stopped => 6

/-! ### Status codes (R470) -/

abbrev stOk : Nat := 0
abbrev stBusy : Nat := 1
abbrev stLate : Nat := 2
abbrev stBadParam : Nat := 3
abbrev stSealed : Nat := 4
abbrev stNoResource : Nat := 5
abbrev stMarkLost : Nat := 6
abbrev stLimit : Nat := 7
abbrev stTruncated : Nat := 10
abbrev stNotStaged : Nat := 11
abbrev stTrailFull : Nat := 12
abbrev stAuth : Nat := 13

/-- What a command is answered with. -/
structure Ans where
  status  : Nat
  detail  : Nat
  payload : Bytes
deriving DecidableEq, Repr

def Ans.ok (p : Bytes) : Ans := ⟨stOk, 0, p⟩
def Ans.done : Ans := ⟨stOk, 0, []⟩
def Ans.err (st det : Nat) : Ans := ⟨st, det, []⟩

/-! ### Banks (R457–R460) -/

def State.bank (s : State) : Via → Bank
  | .qspi => s.mbx.qspi
  | _ => s.mbx.pcie

def State.updBank (s : State) (v : Via) (f : Bank → Bank) : State :=
  { s with mbx := match v with
      | .qspi => { s.mbx with qspi := f s.mbx.qspi }
      | .pcie => { s.mbx with pcie := f s.mbx.pcie }
      | .ring _ => s.mbx }

/-- Bits slot … slot + span − 1. -/
def spanMask (slot span : Nat) : Nat := (2 ^ span - 1) * 2 ^ slot

/-- Slots of a command (R458). -/
def spanOf (flags : BitVec 16) (len : Nat) : Nat := Nat.max (ceilDiv (16 + len) 256) (bits flags.toNat 7 3 + 1)

/-- A transport error: TERR, TERR_CODE, TERR_COUNT, vector 1 and MBX_TRANSPORT_ERROR with the transport, the tag, the code and
the slot (R460, R494). -/
def transportError (s : State) (v : Via) (slot code : Nat) (tag : BitVec 32) : State :=
  let s := s.updBank v fun b =>
    { b with terr := bitSet b.terr slot true, terrCode := code, terrCount := sat 65535 (b.terrCount + 1) }
  emit (vector s 1) 0x5051 (viaTag v) (tag.toNat + 2 ^ 32 * code + 2 ^ 40 * slot)

/-- The mailbox is open: the firmware is ready, and the device is in ACTIVE or DOZE (R396, R565). -/
def State.mbxOpen (s : State) : Bool := s.host.fwReady && (s.pm.st = .active || s.pm.st = .doze)

/-- Why a POST of a slot is not taken: 1 SLOT_BUSY, 2 SPAN, 3 LENGTH, 4 NOT_READY; 0 where it is taken. A LENGTH above
2,032 also runs past slot 7, so LENGTH is tested before SPAN (notes/assumptions/11.md). -/
def postError (s : State) (v : Via) (slot span len : Nat) : Nat :=
  let b := s.bank v
  if b.busy.testBit slot then 1
  else if 2032 < len then 3
  else if 8 < slot + span ∨ b.busy &&& spanMask slot span ≠ 0 then 2
  else if !s.mbxOpen then 4
  else 0

/-- Post one command: its span becomes BUSY and a word enters Q0 (R459, R516). -/
def postSlot (s : State) (v : Via) (slot span len : Nat) (tag : BitVec 32) : State × Bool :=
  match postError s v slot span len with
  | 0 =>
    let s := s.updBank v fun b => { b with busy := b.busy ||| spanMask slot span, spans := Tbl.set 0 b.spans slot span }
    let s := { s with mbx := { s.mbx with out := s.mbx.out ++ [⟨v, slot, span, tag, false, false⟩] } }
    ((qPut s 0 [BitVec.ofNat 32 (256 * viaTag v + slot)]).1, true)
  | e => (transportError s v slot e tag, false)

/-- The header of a command as it stands in a slot (R463). -/
def cmdHeader (op : Nat) (h : CmdHdr) (len : Nat) : Bytes :=
  le 2 op ++ le 2 h.flags.toNat ++ le 4 len ++ le 4 h.tag.toNat ++ le 4 h.target.toNat

/-! ### Responses (R464, R471) -/

def respHeader (s : State) (op status len : Nat) (tag : BitVec 32) (detail : Nat) : Bytes :=
  le 2 op ++ le 2 status ++ le 4 len ++ le 4 tag.toNat ++ le 2 s.flt.rows.epoch ++ le 2 detail

def isOut (v : Via) (slot : Nat) (tag : BitVec 32) (o : Outst) : Bool := o.via == v && o.slot == slot && o.tag == tag

/-- Write response bytes into MBX_RSP at a slot: READY and vector 0 (R459, R404). -/
def putResponse (s : State) (v : Via) (slot : Nat) (b : Bytes) : State :=
  let s := s.updBank v fun k => { k with rsp := Tbl.setRun 0 k.rsp (256 * slot) b, ready := bitSet k.ready slot true }
  vector s 0

/-- Answer a command. A response longer than the span is cut and carries LIMIT with the full length (R471). A command that
is no longer outstanding has been answered by the watchdog or has lost its transport: its response is discarded (R467,
R469). -/
def respond (s : State) (op : Nat) (h : CmdHdr) (a : Ans) : State :=
  match s.mbx.out.find? (isOut h.via h.slot h.tag) with
  | none => s
  | some o =>
    if o.dead then { s with mbx := { s.mbx with out := s.mbx.out.erase o } } else
    let room := 256 * o.span - 16
    let cut := room < a.payload.length
    let status := if cut then stLimit else a.status
    let detail := if cut then 16 + a.payload.length else a.detail
    let pay := a.payload.take room
    let bytes := respHeader s op status pay.length h.tag detail ++ pay
    let s := { s with mbx := { s.mbx with
      out := s.mbx.out.erase o
      last := some ⟨h.via, h.slot, op, status, h.tag, s.flt.rows.epoch, detail, pay⟩ } }
    match h.via with
    | .ring st => sendG s 4 st s.flt.rows.row bytes
    | v => putResponse s v h.slot bytes

/-! ### Taking a command -/

/-- The word of a posted command in Q0: its transport, and its slot or, on the ring, its station. -/
def intakeWord (h : CmdHdr) : BitVec 32 :=
  BitVec.ofNat 32 (256 * viaTag h.via + match h.via with | .ring st => st | _ => h.slot)

/-- A posted command stands in Q0, or waits to enter it; a flush discards it there (R520). -/
def State.inIntake (s : State) (h : CmdHdr) : Bool :=
  (s.queue 0).items.any (·.words == [intakeWord h]) || (s.queue 0).stalled.contains (intakeWord h)

/-- The word of a command is taken from Q0; a read rearms the stale timer (R519). -/
def takeWord (s : State) (h : CmdHdr) : State :=
  let s := qErase s 0 (intakeWord h)
  s.setQueue 0 { s.queue 0 with staleRun := true, readAt := some s.time.b2.val }

/-- A command of a bank that was not posted is written into its slot and posted at this instant; one whose word is no longer
in Q0 has been taken or discarded. -/
def bankPost (s : State) (op : Nat) (h : CmdHdr) (p : Bytes) : State × Bool :=
  if s.mbx.out.any (isOut h.via h.slot h.tag) then (s, s.inIntake h)
  else
    let s := if (s.bank h.via).busy.testBit h.slot then s
      else s.updBank h.via fun b => { b with cmd := Tbl.setRun 0 b.cmd (256 * h.slot) (cmdHeader op h p.length ++ p) }
    postSlot s h.via h.slot (spanOf h.flags p.length) p.length h.tag

/-- The control core takes a command from Q0, or the command of a CMD frame; one that was not posted is posted at this
instant. The answer is false where the transport does not take it. -/
def takeCmd (s : State) (op : Nat) (h : CmdHdr) (p : Bytes) : State × Bool :=
  match h.via with
  | .ring st =>
    if s.mbx.out.any (isOut h.via h.slot h.tag) then (if s.inIntake h then takeWord s h else s, s.inIntake h)
    else if s.mbxOpen && !(s.ring.heldCmds.any fun f => f.src = st && fld f.payload 8 4 = h.tag.toNat) then
      ({ s with mbx := { s.mbx with out := s.mbx.out ++ [⟨.ring st, h.slot, 8, h.tag, false, false⟩] } }, true)
    else (s, false)
  | _ =>
    let got := bankPost s op h p
    if got.2 then (takeWord got.1 h, true) else (got.1, false)

/-- Another command of the same transport with the same tag is outstanding before this one (R466). -/
def tagRepeated (s : State) (h : CmdHdr) : Bool :=
  (s.mbx.out.takeWhile fun o => !(isOut h.via h.slot h.tag o)).any (fun o => o.via == h.via && o.tag == h.tag && !o.dead) ||
    (match h.via with
      | .ring _ => 1 < (s.mbx.out.filter fun o => o.via == h.via && o.tag == h.tag).length
      | _ => false)

/-- How many commands of a ring originator are outstanding, this one included (R461). -/
def ringOutstanding (s : State) (v : Via) : Nat := (s.mbx.out.filter fun o => o.via == v).length

def isRing : Via → Bool
  | .ring _ => true
  | _ => false

/-- Header fields that a command must leave 0 or in range (R463, R468). -/
def headerBad (h : CmdHdr) : Bool :=
  h.flags.toNat / 1024 ≠ 0 || (isRing h.via && bits h.flags.toNat 7 3 ≠ 0) ||
    (65535 < h.target.toNat && h.target.toNat ≠ 0xFFFFFFFF)

/-- REMOTE is set and STATION is another station (R462). -/
def remoteTo (s : State) (h : CmdHdr) : Option Nat :=
  if h.flags.getLsbD 6 then
    let st := h.flags.toNat % 64
    if s.ring.numbered && st = s.ring.station then none else some st
  else none

/-- The answer that a command gets before its own meaning, if any: repeated tag, ninth ring command, header, forwarding
and epoch (R461–R466, R475). -/
def headerAns (s : State) (h : CmdHdr) : Option Ans :=
  if tagRepeated s h then some (Ans.err stBadParam 0xFFFD)
  else if isRing h.via && 8 < ringOutstanding s h.via then some (Ans.err stBusy 0x40)
  else if headerBad h || (isRing h.via && h.flags.getLsbD 6) then some (Ans.err stBadParam Config.headerDetail.toNat)
  else match remoteTo s h with
    | some st => if st < s.ring.count && s.ring.enumerated then none else some (Ans.err stNoResource 0)
    | none =>
      if h.target.toNat ≠ 0xFFFFFFFF && h.target.toNat ≠ s.flt.rows.epoch then some (Ans.err stLate 1) else none

/-- Forward a command of a bank as a CMD frame, with REMOTE, STATION and SPAN cleared (R462). -/
def forward (s : State) (op : Nat) (h : CmdHdr) (p : Bytes) (st : Nat) : State :=
  let s := { s with mbx := { s.mbx with
    out := s.mbx.out.map fun o => if isOut h.via h.slot h.tag o then { o with remote := true } else o } }
  sendG s 3 st s.flt.rows.row (cmdHeader op { h with flags := h.flags &&& 0xFC00 } p.length ++ p)

/-- Run a mailbox command: take it, test its header, forward it, test its payload form, then its own meaning. A body that
gives no answer yet is answered later by the row that ends its wait. -/
def mailbox (op : Nat) (form : Bytes → Option Nat) (body : State → CmdHdr → Bytes → State × Option Ans) (h : CmdHdr)
    (p : Bytes) (s : State) : State :=
  match takeCmd s op h p with
  | (s, false) => s
  | (s, true) =>
    match headerAns s h with
    | some a => respond s op h a
    | none =>
      match remoteTo s h with
      | some st => forward s op h p st
      | none =>
        match form p with
        | some d => respond s op h (Ans.err stBadParam d)
        | none =>
          match body s h p with
          | (s, some a) => respond s op h a
          | (s, none) => s

/-! ### Payload forms: LENGTH wrong gives 0xFFFC, else the offset of the first invalid field (R470) -/

def form (n : Nat) (checks : Bytes → List (Nat × Bool)) (p : Bytes) : Option Nat :=
  if p.length = n then firstBad (checks p) else some 0xFFFC

def formEmpty : Bytes → Option Nat := form 0 fun _ => []

/-- A body that only answers. -/
def answer (s : State) (a : Ans) : State × Option Ans := (s, some a)

/-- Refuse an audit-gated action (R539), or go on with the state that holds the record. -/
def gated (s : State) (code subj old new : Nat) (k : State → State × Option Ans) : State × Option Ans :=
  match auditGate s code subj old new with
  | (.accepted, s') => k s'
  | (.busy, _) => answer s (Ans.err stBusy 0)
  | (.full, _) => answer s (Ans.err stTrailFull 0)

end Sys2Proof.Machine
end

