-- ==== Sys2Proof/Machine/Flags.lean ====
section
/-!
DEFINITION. Stitches and their flag bytes (R195–R200), the settling length and group delay of a chain (R155, R157), the
UNS intervals (R158, R159), and the comparator rule (R170).
-/
namespace Sys2Proof.Machine

/-! ### The flag byte (R196) -/

abbrev fUns : Nat := 1
abbrev fOvr : Nat := 2
abbrev fClp : Nat := 4
abbrev fWft : Nat := 8
abbrev fHnd : Nat := 16
abbrev fSub : Nat := 32
abbrev fRcf : Nat := 64
abbrev fPar : Nat := 128

/-- The flag byte of the conditions given, PAR clear. -/
def flagByte (uns ovr clp wft hnd sub rcf : Bool) : Nat :=
  b2n uns * fUns + b2n ovr * fOvr + b2n clp * fClp + b2n wft * fWft + b2n hnd * fHnd + b2n sub * fSub + b2n rcf * fRcf

/-- PAR makes the number of 1 bits even (R200). -/
def parOf (width v : Nat) : Nat := popcount width v % 2 * fPar

/-- An S32 stitch (R195): value in [31:8], flags with PAR in [7:0]. -/
def s32 (v : Int) (fl : Nat) : Nat :=
  let w := unsigned 24 v * 256 + fl % 128
  w + parOf 32 w

def s32Val (w : Nat) : Int := signed 24 (w / 256)
def s32Flags (w : Nat) : Nat := w % 256

/-- The flag byte of an L32 stitch of value `y` (R197, R200). -/
def l32Flags (y fl : Nat) : Nat := fl % 128 + (popcount 32 y + popcount 8 (fl % 128)) % 2 * fPar

/-- A W64 stitch (R198). -/
def w64 (y fl row : Nat) : Nat :=
  let w := y % 2 ^ 32 * 2 ^ 32 + fl % 128 * 2 ^ 24 + row % 2 ^ 24
  w + parOf 64 w * 2 ^ 24

def w64Val (w : Nat) : Nat := w / 2 ^ 32
def w64Flags (w : Nat) : Nat := w / 2 ^ 24 % 256

/-- Set WFT in a flag byte that lies `sh` bits up, with PAR recomputed: where WFT was clear, both bits change (R199). -/
def patchWft (sh w : Nat) : Nat :=
  if w.testBit (sh + 3) then w else w ^^^ ((fWft + fPar) * 2 ^ sh)

/-- Set SUB likewise. -/
def patchSub (sh w : Nat) : Nat :=
  if w.testBit (sh + 5) then w else w ^^^ ((fSub + fPar) * 2 ^ sh)

/-! ### Saturation (R73) -/

abbrev codeMax : Int := 8388607
abbrev codeMin : Int := -8388608

/-- The S32 code of a value, and whether it saturates. -/
def satCode (v : Int) : Int × Bool := (clampI codeMin codeMax v, v < codeMin || codeMax < v)

/-! ### The decimation chain -/

/-- a of the CIC ratio 2^a (R150). -/
def Chain.a (c : Chain) (k : Nat) : Nat := k - c.hb - c.firSet

/-- L = ⌈(N/2^h + 23·(1 − 2^−h) + 64) / 2^f⌉ + 2 (R157). -/
def Chain.l (c : Chain) : Nat :=
  ceilDiv (c.order + 23 * (2 ^ c.hb - 1) + 64 * 2 ^ c.hb) (2 ^ c.hb * 2 ^ c.firSet) + 2

/-- D_g in units of 10 ns, 16 per f_MOD period (R155, R156). -/
def Chain.gdelay (c : Chain) (k : Nat) : Nat :=
  let a := c.a k
  16 * 12 + 8 * c.order * (2 ^ a - 1) + 16 * 11 * 2 ^ a * (2 ^ c.hb - 1) + 504 * 2 ^ (a + c.hb)

/-- CHAIN_CFG of a pattern (R150). -/
def Pat.chain (p : Pat) : Chain := ⟨p.f sChain 0 0 1, p.f sChain 0 1 1, p.f sChain 0 2 1⟩

/-- The chain that a cluster runs: the old one until its switching row (R161). -/
def State.clChain (s : State) (cl : Nat) : Chain :=
  match s.flt.chain.old with
  | some c => if cl < s.flt.chain.switched then s.flt.chain.cur else c
  | none => s.flt.chain.cur

/-- L of the chain in force in a cluster (R159). -/
def State.clL (s : State) (cl : Nat) : Nat := (s.clChain cl).l

/-- ⌈n ns / T_ROW⌉ (R68). -/
def rowsOf (s : State) (ns : Nat) : Nat := ceilDiv (ns * nsF) (rowT s.flt.chain.k)

/-! ### UNS intervals: the rows of a channel below `unsEnd` carry UNS, so overlapping intervals join (R159) -/

def Chan.uns (c : Chan) (e : Nat) : Chan := { c with unsEnd := Nat.max c.unsEnd e }

/-- Every channel of a list carries UNS up to its end row. -/
def unsUntil (s : State) (chs : List Nat) (e : Nat → Nat) : State :=
  { s with flt := { s.flt with chans := Tbl.updAll Chan.init s.flt.chans chs fun ch c => c.uns (e ch) } }

/-- L rows from row `r` on the channels of a list. -/
def unsRows (s : State) (chs : List Nat) (r extra : Nat) : State := unsUntil s chs fun ch => r + s.clL (chCluster ch) + extra

def allChans : List Nat := List.range 256

/-! ### Comparators (R170) -/

/-- State of a comparator, its edge, and whether it is initialised. -/
structure Cmp where
  init : Bool
  st   : Bool
  rise : Bool
  fall : Bool
deriving DecidableEq, Repr

/-- One row of one comparator: `hold` where the row is not evaluated, `hi` for v at or past LEVEL in the direction, `lo`
for v beyond LEVEL by more than HYST the other way. -/
def cmpRow (c : Cmp) (hold hi lo : Bool) : Cmp :=
  if hold then { c with rise := false, fall := false }
  else if !c.init then ⟨true, hi, false, false⟩
  else if !c.st && hi then ⟨true, true, true, false⟩
  else if c.st && lo then ⟨true, false, false, true⟩
  else { c with rise := false, fall := false }

/-- Whether a comparator with MODE `md` is evaluated on a row with these flags. -/
def cmpHold (md fl : Nat) : Bool := fl &&& (fWft + fSub) ≠ 0 || (fl.testBit 0 && !md.testBit 2)

end Sys2Proof.Machine
end

