-- ==== Sys2Proof/Machine/Field.lean ====
section
/-!
DEFINITION. The bridge side (chapter 02): excitation drivers, field faults with their back-dated marking, clamps and
overloads, field supplies.
-/
namespace Sys2Proof.Machine

/-! ### EXC_CFG of a cluster (R65) -/

def State.excMode (s : State) (cl : Nat) : Nat := s.pat.f sExc cl 0 1
def State.fourWire (s : State) (cl : Nat) : Bool := (s.pat.f sExc cl 4 1).testBit 0
def State.holdRatio (s : State) (cl : Nat) : Bool := bits (s.pat.f sExc cl 4 1) 1 2 = 1
def carrierMode (m : Nat) : Bool := m = 1 || m = 2

/-- The test current of a cluster's channels is on: SIG_TEST, a powered die and a cluster that is not PARKED (R56, R87). -/
def State.testRuns (s : State) (cl : Nat) : Bool :=
  s.excMode cl ≠ 3 && (s.die (clDie cl)).powered && (s.pat.f sExc cl 6 1).testBit 0

/-- The driver drives its outputs. -/
def DrvState.driving : DrvState → Bool
  | .check | .ramp | .regulating | .fourWire | .fallback => true
  | _ => false

/-- The quadrature monitor of a cluster works: QUAD_MON, SINE or SQUARE, and a driver that is not parked (R88). -/
def State.quadRuns (s : State) (cl : Nat) : Bool :=
  carrierMode (s.excMode cl) && (s.die (clDie cl)).powered && (s.pat.f sExc cl 6 1).testBit 1 && (s.cluster cl).drv.st.driving

/-- A signal-open detector runs on the channel (R65, R88). -/
def State.openDetector (s : State) (ch : Nat) : Bool :=
  !(s.pat.f sExc (chCluster ch) 7 1).testBit (ch % 8) && (s.testRuns (chCluster ch) || s.quadRuns (chCluster ch))

/-! ### LIVE and LATCHED of FLT_EXSTAT_nn (R70); bit 0 of the field is bit 4 of the register -/

abbrev lvShort (kind : Nat) : Nat := kind
abbrev lvOpenP : Nat := 3
abbrev lvOpenN : Nat := 4
abbrev lvSenseShort : Nat := 5
abbrev lvReversed : Nat := 6
abbrev lvOverVolt : Nat := 7

def Drv.raise (d : Drv) (b : Nat) : Drv := { d with live := bitSet d.live b true, latched := bitSet d.latched b true }
def Drv.drop (d : Drv) (bs : List Nat) : Drv := { d with live := bs.foldl (fun m b => bitSet m b false) d.live }

/-- A sense fault stands. -/
def Drv.senseBad (d : Drv) : Bool := d.live.testBit lvOpenP || d.live.testBit lvOpenN || d.live.testBit lvSenseShort

/-- Where a driver regulates: four-wire as set, four-wire after a sense fault, or six-wire (R53, R54, R89). -/
def State.operating (s : State) (cl : Nat) : DrvState :=
  if s.fourWire cl then .fourWire else if (s.cluster cl).drv.senseBad then .fallback else .regulating

/-- STATE of FLT_EXSTAT_nn (R70). -/
def Drv.code (d : Drv) : Nat :=
  if d.inLimit && d.st.driving then 6
  else match d.st with
    | .parked => 0 | .check => 1 | .ramp => 2 | .regulating => 3 | .fourWire => 4 | .fallback => 5
    | .shortParked => 7 | .reversedParked => 8 | .thermalParked => 9

/-- A driver parks: it leaves its sequence, the limit, and a return to six-wire operation that was to come (R90). -/
def Drv.parkIn (d : Drv) (st : DrvState) : Drv := { d with st := st, inLimit := false, limit := false, restoring := false }

/-! ### Detector histories (R95) -/

/-- A history after one more row. -/
def histRow (h : Nat) (out : Bool) : Nat := (2 * h + b2n out) % 2 ^ 128

/-- How many rows, from the last one back, were out of band without a break. -/
def histRun : Nat → Nat → Nat
  | 0, _ => 0
  | n + 1, h => if h.testBit 0 then histRun n (h / 2) + 1 else 0

/-- The first row of the unbroken run of out-of-band rows that ends at the detection row `d`. -/
def firstOut (d h : Nat) : Nat := d - histRun 128 h

/-- The thresholds of a cluster's signal-open detectors (R227): |value| in units of 2^-31 FS is out of band. -/
def State.quadOut (s : State) (cl : Nat) (v : Int) : Bool := s.pat.f sFdt cl 0 2 * 2 ^ 31 < v.natAbs * 10000000
def State.testOut (s : State) (cl : Nat) (v : Int) : Bool := s.pat.f sFdt cl 2 2 * 2 ^ 31 < v.natAbs * 100000000

def testOf (i : RowInput) (ch : Nat) : Int := ((i.test.find? (·.1 == ch)).map (·.2)).getD 0
def senseOf (i : RowInput) (cl : Nat) : Option SenseIn := (i.sense.find? (·.1 == cl)).map (·.2)

/-- A row of one channel's signal-open statistics. The response to the test current exists in odd-index rows and stands in
the row after each (notes/assumptions/45.md). -/
def chanHist (s : State) (i : RowInput) (r ch : Nat) (c : Chan) : Chan :=
  let cl := chCluster ch
  let c := if r % 2 = 1 then { c with testOut := s.testRuns cl && s.testOut cl (testOf i ch) } else c
  { c with hist := histRow c.hist (s.openDetector ch &&
      (c.testOut || (s.quadRuns cl && s.quadOut cl (Tbl.get 0 s.flt.quad (s.chSlice ch))))) }

/-- SENSE_INVERT inverts the sense pair of a cluster internally (R65, R69). -/
def State.sensed (s : State) (cl : Nat) (x : SenseIn) : SenseIn :=
  if (s.pat.f sExc cl 4 1).testBit 3 then { x with sensed := -x.sensed } else x

/-- SENSE_RATIO of a reading (R70). -/
def senseRatio (x : SenseIn) : Nat := if x.sensed ≤ 0 then 0 else sat 65535 (rneNat (x.sensed.natAbs * 65536) x.driven)

/-- A row of one cluster's sense statistics, and SENSE_RATIO of a driver in STATE 3 (R70, R86). -/
def drvHist (s : State) (i : RowInput) (cl : Nat) (d : Drv) : Drv :=
  let on := !s.fourWire cl && (s.die (clDie cl)).powered && d.st.driving && d.st != .check
  match (senseOf i cl).map (s.sensed cl) with
  | some x =>
    { d with
      histOpen := histRow d.histOpen (on && 2 * x.sensed.natAbs < x.driven)
      histShort := histRow d.histShort (on && x.atLimit && 4 * x.sensed.natAbs < x.driven)
      histRev := histRow d.histRev (on && x.sensed < 0)
      ratio := if d.code = 3 then senseRatio x else d.ratio }
  | none => { d with histOpen := histRow d.histOpen false, histShort := histRow d.histShort false, histRev := histRow d.histRev false }

/-- Every detector takes the row into its history. The supply monitor watches the rails whether or not the die converts (R85,
R95). -/
def detectorsRow (s : State) (i : RowInput) (r : Nat) : State :=
  { s with flt := { s.flt with
    chans := Tbl.updAll Chan.init s.flt.chans (List.range 256) fun ch c => chanHist s i r ch c
    clusters := Tbl.updAll Cluster.init s.flt.clusters (List.range 32) fun cl c => { c with drv := drvHist s i cl c.drv }
    dies := Tbl.updAll FieldDie.init s.flt.dies [0, 1] fun d x => { x with hist := histRow x.hist (i.supplyOut.contains d) } } }

/-- Where no signal-open detector runs any longer, an open line is no longer reported (R88). -/
def detectorsStop (s : State) : State :=
  { s with flt := { s.flt with
      chans := Tbl.updAll Chan.init s.flt.chans (s.flt.chans.map (·.1)) fun ch c =>
        if s.openDetector ch then c else { c with openP := false, openN := false, hist := 0, testOut := false } } }

/-- A new epoch: no history reaches back before its row 0 (R95). -/
def historiesClear (s : State) : State :=
  { s with flt := { s.flt with
    chans := Tbl.updAll Chan.init s.flt.chans (s.flt.chans.map (·.1)) fun _ c => { c with hist := 0, testOut := false }
    clusters := Tbl.updAll Cluster.init s.flt.clusters (s.flt.clusters.map (·.1)) fun _ c =>
      { c with drv := { c.drv with histOpen := 0, histShort := 0, histRev := 0, limFrom := 0 } }
    dies := Tbl.updAll FieldDie.init s.flt.dies (s.flt.dies.map (·.1)) fun _ x => { x with hist := 0 } } }

/-! ### Back-dated marking (R95–R99) -/

/-- Onset row: the first out-of-band row less a guard of 2 rows, bounded below by D − 127 and by row 0 (R95). -/
def onsetRow (d first : Nat) : Nat := Nat.max (first - 2) (d - 127)

/-- Whether a weighing point of a pattern has one of these channels as a member (R189). -/
def Pat.wpHas (p : Pat) (w : Nat) (chs : List Nat) : Bool :=
  (List.range (p.f sWp w 0 1)).any fun m => chs.contains (p.f sWp w (16 + 8 * m) 2)

/-- Whether a weighing point had one of these channels as a member in a row: its WP_CFG may have changed since (R96). -/
def State.wpHadAt (s : State) (chs : List Nat) (row w : Nat) : Bool :=
  match s.lin.wpPast.find? fun e => row < e.1 && e.2.1 = w with
  | some e => chs.any e.2.2.testBit
  | none => s.pat.wpHas w chs

def patchTbl (t : Tbl Nat) (keys : List Nat) (sh : Nat) : Tbl Nat :=
  t.map fun e => if keys.contains e.1 then (e.1, patchWft sh e.2) else e

/-- Patch WFT into a produced row that is still held: the channels and the weighing points that include one (R96). A
stitch of all zeros is not listed, so it is listed now. -/
def RowRec.patch (r : RowRec) (chs wps : List Nat) : RowRec :=
  { r with
    s32 := Tbl.updAll 0 r.s32 chs fun _ w => patchWft 0 w
    l32 := Tbl.updAll (0, 0) r.l32 chs fun _ e => (e.1, patchWft 0 e.2)
    w64 := patchTbl r.w64 wps 24 }

/-- Members of a skein: channels of its mask, then weighing points, by reduction index (R297, R305). -/
def Skein.chans (k : Skein) : List Nat := bitsOf 256 (fld k.cfg 16 32)
def Skein.wps (k : Skein) : List Nat := bitsOf 64 k.wpMask

/-- A resident skein of the epoch learns of a fault in its rows: the trailer's indication, and WFT_MARKED of each member that
has already been reduced over a patched row (R305, R308). `had` says whether a weighing point took part in a row. -/
def Skein.mark (k : Skein) (o d : Nat) (chs : List Nat) (had : Nat → Nat → Bool) : Skein :=
  let lastRow := match k.last with | some l => Nat.min l (d - 1) | none => d - 1
  let first := Nat.max o k.first
  let hitCh := k.chans.map chs.contains
  let rows := (List.range (lastRow + 1 - first)).map (first + ·)
  let hitWp := k.wps.map fun w => rows.any fun r => had r w
  let hits := hitCh ++ hitWp
  if k.closed ∨ k.gone ∨ lastRow < first ∨ !(hits.contains true) then k else
    let onset := if k.trflags.testBit 0 then Nat.min k.wftOnset o else o
    let reds := (List.range hits.length).foldl (fun t j =>
      if hits.getD j false && first < k.reduced then Tbl.upd Red.init t j (fun r => { r with flags := r.flags ||| 4 }) else t) k.reds
    { k with trflags := k.trflags ||| 1, wftOnset := onset, reds := reds }

/-- WFT patched into rows of a measurement's window flags its channels (R96, R215). -/
def Meas.mark (m : Meas) (o upto : Nat) (chs : List Nat) : Meas :=
  if upto ≤ Nat.max o m.first ∨ m.first + m.n ≤ o then m
  else { m with acc := Tbl.updAll MeasAcc.init m.acc (chs.filter m.mask.testBit) fun _ a => { a with flagged := true } }

/-- The FAULT marker's bytes (R97). -/
def markerBytes (kind scope o d : Nat) : Bytes := le 2 kind ++ le 2 scope ++ le 6 o ++ le 6 d

/-- Declare a field fault at the row in production: patches up to row `upto - 1`, skeins, FAULT marker and FLT_WFLAST. -/
def declareUpTo (upto : Nat) (s : State) (kind scope first : Nat) (chs : List Nat) : State :=
  if s.rowOpen then
    let d := s.flt.rows.row
    let o := onsetRow d first
    let had := s.wpHadAt chs
    let s := { s with
      flt := { s.flt with
        recent := s.flt.recent.map fun r => if o ≤ r.row ∧ r.row < upto then r.patch chs ((List.range 64).filter (had r.row)) else r
        wfLast := ⟨kind, scope, o, d, true, sat 32767 (s.flt.wfLast.count + 1)⟩ }
      cap := { s.cap with skeins := s.cap.skeins.map fun k => k.mark o (Nat.min d upto) chs had }
      cal := { s.cal with running := s.cal.running.map fun m => m.mark o upto chs } }
    (qPut s 5 (wordsOf 4 (markerBytes kind scope o d))).1
  else s

/-- Declare a field fault of a die or cluster that still converts. -/
def declareFault (s : State) (kind scope first : Nat) (chs : List Nat) : State :=
  declareUpTo s.flt.rows.row s kind scope first chs

/-- A handover of the cluster in its shadow window is declared faulty; the management core revokes it in LEASE_REVOKED
(R47, R92). -/
def faultHandover (s : State) (cl : Nat) : State :=
  let r := (s.cluster cl).rot
  if (r.phase = .shadow ∨ r.phase = .defer) ∧ r.ended = false ∧ s.leases.faulty.any (·.1 == .handover cl) = false then
    { s with leases := { s.leases with faulty := s.leases.faulty ++ [(.handover cl, 1)] } }
  else s

/-- The target of a cluster's step in progress. -/
def State.rotTarget (s : State) (cl : Nat) : Nat := 8 * cl + (s.cluster cl).rot.target

/-! ### Excitation -/

/-- EXC_CURRENT_LIMIT (R63): the driver shows LIMIT. A limit in a restart's sequence parks the driver again (R91). -/
def execExcCurrentLimit (cl : Nat) (s : State) : Host.Outcome State Fault Refusal :=
  let d := (s.cluster cl).drv
  .next (if d.st.driving then
      s.updDrv cl fun d => if d.retrying then d.parkIn .shortParked else { d with inLimit := true }
    else s)

/-- EXC_SHORT (R86): the driver parks; a short during a restart belongs to the one already declared (R91). The first row
that began in current limit dates it, or the row in production where none has (R95; notes/assumptions/45.md). -/
def execExcShort (cl kind : Nat) (s : State) : Host.Outcome State Fault Refusal :=
  let d := (s.cluster cl).drv
  .next (if d.st.driving && (s.die (clDie cl)).powered then
      if d.retrying then s.updDrv cl fun d => d.parkIn .shortParked
      else
        let first := if d.limit then d.limFrom else s.flt.rows.row
        let s := s.updDrv cl fun d => { (d.raise (lvShort kind)).parkIn .shortParked with wftHold := true }
        let s := declareFault (faultHandover s cl) (0x2001 + kind) (scopeCl cl) first (clChans cl)
        emit s (0x2001 + kind) (scopeCl cl) 0
    else s)

/-- A restart attempt: the full sequence for leaving PARKED, counted and reported (R91). Only after a short does a current
limit in it belong to a fault already declared. -/
def restartDriver (s : State) (cl : Nat) : State :=
  let s := s.updDrv cl fun d =>
    { d with st := .check, retries := sat 255 (d.retries + 1), retrying := d.st == .shortParked }
  emit s 0x2004 (scopeCl cl) (s.cluster cl).drv.retries

/-- The hottest driver of a cluster's region is below 120 °C (R71, R582). -/
def State.driverCool (s : State) (cl : Nat) : Bool := (Tbl.get Sensor.init s.pm.sensors (12 + clRegion cl)).value < 120 * 128

/-- EXC_RETRY (R91, R71): SHORT_RETRY 0 gives no automatic restart. -/
def execExcRetry (cl : Nat) (s : State) : Host.Outcome State Fault Refusal :=
  let d := (s.cluster cl).drv
  .next (if (d.st = .shortParked ∨ (d.st = .thermalParked ∧ s.driverCool cl = true)) ∧ s.pat.f sExc cl 5 1 ≠ 0 then
      restartDriver s cl
    else s)

/-- POLARITY_CHECK_DONE (R69): ramp, or park with SENSE_REVERSED; in four-wire operation the check always passes. The check
itself is the detector, so the fault begins with the row of the check. DESIGN CHOICE (notes/assumptions/45.md): a restart with
a sense fault still standing checks at the sense pair, as six-wire operation does; four-wire operation here is FOUR_WIRE. -/
def execPolarityCheckDone (cl : Nat) (ok : Bool) (s : State) : Host.Outcome State Fault Refusal :=
  .next (if (s.cluster cl).drv.st = .check then
      if ok || s.fourWire cl then s.updDrv cl fun d => { d with st := .ramp }
      else
        let s := s.updDrv cl fun d => { (d.raise lvReversed).parkIn .reversedParked with wftHold := true, retrying := false }
        let s := declareFault (faultHandover s cl) 0x2012 (scopeCl cl) s.flt.rows.row (clChans cl)
        emit s 0x2012 (scopeCl cl) 0
    else s)

/-- EXC_RAMP_DONE (R68, R91): the driver regulates. After a short WFT stays on the row in production, whose ramp has just
ended; the next row is the first produced in regulation (notes/assumptions/40.md). -/
def execExcRampDone (cl : Nat) (s : State) : Host.Outcome State Fault Refusal :=
  .next (if (s.cluster cl).drv.st = .ramp then
      let op := s.operating cl
      s.updDrv cl fun d => { d.drop [0, 1, 2, lvReversed] with st := op, retrying := false }
    else s)

/-! ### Sense faults: none is detected while FOUR_WIRE is set (R54) -/

/-- The regulation loop is closed: the ramp and what follows it (R69). -/
def DrvState.loopClosed : DrvState → Bool
  | .ramp | .regulating | .fallback => true
  | _ => false

/-- A sense fault while the loop is closed at the sense pair: FALLBACK, marking and event. -/
def senseFault (s : State) (cl bit code first : Nat) : State :=
  let d := (s.cluster cl).drv
  if !s.fourWire cl && d.st.loopClosed && !d.live.testBit bit then
    let s := s.updDrv cl fun d => { d.raise bit with st := .fallback, retrying := false }
    let s := declareFault (faultHandover s cl) code (scopeCl cl) first (clChans cl)
    emit s code (scopeCl cl) 0
  else s

def execSenseOpen (cl : Nat) (neg : Bool) (s : State) : Host.Outcome State Fault Refusal :=
  let first := firstOut s.flt.rows.row (s.cluster cl).drv.histOpen
  .next (if neg then senseFault s cl lvOpenN 0x2011 first else senseFault s cl lvOpenP 0x2010 first)

def execSenseShort (cl : Nat) (s : State) : Host.Outcome State Fault Refusal :=
  .next (senseFault s cl lvSenseShort 0x2014 (firstOut s.flt.rows.row (s.cluster cl).drv.histShort))

/-- SENSE_REVERSED while regulating: park, with no automatic restart (R86). -/
def execSenseReversed (cl : Nat) (s : State) : Host.Outcome State Fault Refusal :=
  .next (if !s.fourWire cl && ((s.cluster cl).drv.st = .regulating || (s.cluster cl).drv.st = .ramp) then
      let first := firstOut s.flt.rows.row (s.cluster cl).drv.histRev
      let s := s.updDrv cl fun d => { (d.raise lvReversed).parkIn .reversedParked with wftHold := true, retrying := false }
      let s := declareFault (faultHandover s cl) 0x2012 (scopeCl cl) first (clChans cl)
      emit s 0x2012 (scopeCl cl) 0
    else s)

/-- SENSE_RESTORED (R90): the driver returns to six-wire operation at the next row boundary. -/
def execSenseRestored (cl : Nat) (s : State) : Host.Outcome State Fault Refusal :=
  .next (if (s.cluster cl).drv.st = .fallback ∧ (s.cluster cl).drv.senseBad = true then
      let s := s.updDrv cl fun d => { d.drop [lvOpenP, lvOpenN, lvSenseShort] with restoring := true }
      emit s 0x2013 (scopeCl cl) 0
    else s)

/-! ### Signal lines, clamps, overloads -/

def execSignalOpen (ch : Nat) (neg : Bool) (s : State) : Host.Outcome State Fault Refusal :=
  let c := s.chan ch
  .next (if s.openDetector ch && !(if neg then c.openN else c.openP) then
      let s := s.updChan ch fun c => if neg then { c with openN := true, latched := true } else { c with openP := true, latched := true }
      let s := if s.rotTarget (chCluster ch) = ch then faultHandover s (chCluster ch) else s
      let s := declareFault s (if neg then 0x2021 else 0x2020) ch (firstOut s.flt.rows.row c.hist) [ch]
      emit s (if neg then 0x2021 else 0x2020) ch 0
    else s)

/-- SIGNAL_RESTORED (R90): UNS for L rows from the first row without WFT, the row in production. -/
def execSignalRestored (ch : Nat) (s : State) : Host.Outcome State Fault Refusal :=
  .next (if (s.chan ch).openP || (s.chan ch).openN then
      let s := s.updChan ch fun c => { c with openP := false, openN := false }
      emit (unsRows s [ch] s.flt.rows.row 0) 0x2022 ch 0
    else s)

/-- CLAMP (R74, R75, R94): the row in production carries CLP and OVR, and UNS on the cluster's other channels. A clamp that
engages while no stream is open is taken as engaged in row 0, whose row no rule frees of it (notes/assumptions/46.md). -/
def execClamp (ch : Nat) (s : State) : Host.Outcome State Fault Refusal :=
  .next (if (s.die (chDie ch)).powered then
      let others := (clChans (chCluster ch)).filter (· ≠ ch)
      let s := unsUntil s others fun _ => s.flt.rows.row + 1
      emit (s.updChan ch fun c => { c with clampNow := true, latched := true }) 0x2030 ch 0
    else s)

/-- MOD_OVERLOAD_ACTIVE (R612, R73): 1 positive, 2 negative. -/
def execModOverloadActive (slice : Nat) (neg : Bool) (s : State) : Host.Outcome State Fault Refusal :=
  .next (s.updSlice slice fun x => { x with ovl := if neg then 2 else 1 })

/-- MOD_OVERLOAD_CLEAR (R612): the row in production still saturates; UNS follows for L rows (R73). With no row in
production nothing is left of it. -/
def execModOverloadClear (slice : Nat) (s : State) : Host.Outcome State Fault Refusal :=
  .next (s.updSlice slice fun x =>
    { x with ovl := if !s.rowOpen then 0 else if x.ovl = 1 then 3 else if x.ovl = 2 then 4 else x.ovl })

/-- PIN_OVERVOLTAGE (R83): reported while the die is powered. -/
def execPinOvervoltage (cl : Nat) (s : State) : Host.Outcome State Fault Refusal :=
  .next (if (s.die (clDie cl)).powered then emit (s.updDrv cl fun d => d.raise lvOverVolt) 0x2031 (scopeCl cl) 0 else s)

/-! ### Field supplies -/

/-- The drivers of a die stop with its supply; LATCHED is kept and a live fault is found again after power-up (R92). -/
def parkDie (s : State) (d : Nat) : State :=
  (dieClusters d).foldl (fun s cl =>
    s.updDrv cl fun x =>
      { x.parkIn .parked with live := 0, wftHold := false, retrying := false, restoring := false }) s

/-- What no die in power keeps: its way up, and rails that came back within the row, whose WFT ends with them (R85). -/
def FieldDie.down (d : FieldDie) : FieldDie :=
  { d with powered := false, starting := false, unpark := false, outRange := d.outRange && !d.rangeBack, rangeBack := false }

/-- A die stops converting: its rows carry SUB, its signal faults and clamps are found again after power-up. Its scan of
auxiliary results stops (R135). -/
def dieDown (s : State) (d : Nat) (f : FieldDie → FieldDie) : State :=
  let s := s.updAux d fun a => { a with running := false }
  let s := parkDie (s.updDie d fun x => f x.down) d
  { s with flt := { s.flt with
      chans := Tbl.updAll Chan.init s.flt.chans (dieChans d) fun _ c =>
        { c with openP := false, openN := false, clampNow := false, clampLast := false, testOut := false }
      slices := Tbl.updAll Slice.init s.flt.slices (dieSlices d) fun _ x => { x with ovl := 0 } } }

/-- VF_REVERSED (R84): the die stays unpowered. -/
def execVfReversed (die : Die) (s : State) : Host.Outcome State Fault Refusal :=
  .next (emit (dieDown s die fun d => { d with reversed := true, railsOk := false }) 0x2040 (scopeDie die) 0)

/-- VF_OUT_OF_RANGE (R85): reported for a powered die, also where its rails have collapsed before the 100 µs were over, with
a die-wide marker. WFT marks the rows up to the last one that the die converted. -/
def execVfOutOfRange (die : Die) (s : State) : Host.Outcome State Fault Refusal :=
  let d := s.die die
  .next (if (d.powered || d.stopRow.isSome) && (!d.outRange || d.rangeBack) then
      let last := d.stopRow.getD s.flt.rows.row
      let s := s.updDie die fun d => { d with outRange := true, rangeBack := false, railsOk := false, stopRow := none }
      let s := if s.rowOpen then (dieClusters die).foldl faultHandover s else s
      emit (declareUpTo last s 0x2041 (scopeDie die) (firstOut s.flt.rows.row d.hist) (dieChans die)) 0x2041 (scopeDie die) 0
    else s.updDie die fun d => { d with railsOk := false })

/-- VF_IN_RANGE (R85): the row in production is the last one with WFT on a die in power. -/
def execVfInRange (die : Die) (s : State) : Host.Outcome State Fault Refusal :=
  .next (s.updDie die fun d =>
    let wait := d.outRange && d.powered && s.rowOpen
    { d with outRange := wait, rangeBack := wait, railsOk := true, reversed := false, stopRow := none })

/-- VF_COLLAPSE (R85): the die stops converting until it has been powered up again. -/
def execVfCollapse (die : Die) (s : State) : Host.Outcome State Fault Refusal :=
  .next (if (s.die die).powered then
      dieDown s die fun d => { d with railsOk := false, stopRow := if d.outRange then none else some s.flt.rows.row }
    else s)

end Sys2Proof.Machine
end

