-- ==== Sys2Proof/Machine/Demod.lean ====
section
/-!
DEFINITION. The demodulator (R145, R146), the decimation chain with its restart (R150, R151, R160), the skew interpolator
(R224), and the phase of a vector (R120, R220). notes/assumptions/47.md.
-/
namespace Sys2Proof.Machine

/-! ### Sine and cosine: a period is 8192 steps, the finest that a sample and a reference phase need -/

/-- π/4096 in units of 2^-80. -/
def stepAngle : Nat := 57952155664616982739 * 2 ^ 4

/-- Terms of the sine series: `x2` is the square of the angle and `t` the term of order `n`, in units of 2^-80. -/
def sineTerms : Nat → Nat → Nat → Int → Int
  | 0, _, _, _ => 0
  | f + 1, n, x2, t => t + sineTerms f (n + 2) x2 (-(t * x2 / (2 ^ 80 * ((n + 1) * (n + 2)) : Nat)))

/-- sin of `i` steps of a quarter period (0 … 2048), in units of 2^-80. -/
def quarterSine (i : Nat) : Int :=
  let a := i * stepAngle
  sineTerms 14 1 (a * a / 2 ^ 80) a

/-- sin of `i` steps, in units of 2^-80; exact at the multiples of a quarter period. -/
def sineFine (i : Nat) : Int :=
  let r := i % 2048
  let q := if r = 0 then (if i % 4096 = 0 then 0 else 2 ^ 80) else quarterSine (if i % 4096 < 2048 then r else 2048 - r)
  if i % 8192 < 4096 then q else -q

def cosineFine (i : Nat) : Int := sineFine (i + 2048)

/-- The reference's sine in units of 2^-30: one of the two neighbours of the exact value, where that is none itself. -/
def sineRef (i : Nat) : Int :=
  let v := sineFine i
  if i % 2048 = 0 then v / 2 ^ 50 else v / 2 ^ 50 + b2n (Config.sineUp (i % 8192))

/-- The phase of the vector (in phase, quadrature) in 1/4096 of a turn, −2047 … 2048: the direction nearest to it. -/
def atan2 (quad inph : Int) : Int :=
  if quad = 0 ∧ inph = 0 then Config.zeroPhase
  else
    let score := fun d => inph * cosineFine (2 * d) + quad * sineFine (2 * d)
    let best := (List.range 4096).foldl (fun b d => if score b < score d then d else b) 0
    if best ≤ 2048 then best else (best : Int) - 4096

/-! ### References (R145, R146) -/

/-- θ_ref in 1/4096 of a carrier period, from PHASE_OFFSET, a channel's trim and a slice's phase. -/
def thetaRef (offset : Nat) (trim phase : Int) : Nat := ((64 * offset : Int) + trim + phase) % 4096 |>.toNat

/-- θ − θ_ref at sample `j` of a row (1 … 2^K), in steps. The carrier phase is 0 at the boundary that starts the row (R60,
R142), and the last sample is taken at the boundary that ends it. -/
def refStep (car th j : Nat) : Nat := (j * 2 ^ (3 - car) + 8192 - 2 * th) % 8192

/-- The in-phase reference in units of 2^-30; DC passes the sample unchanged. -/
def refI (mode car th j : Nat) : Int :=
  match mode with
  | 0 => 2 ^ 30
  | 1 => 2 * sineRef (refStep car th j)
  | 2 => if refStep car th j ≤ 4096 then 2 ^ 30 else -2 ^ 30
  | _ => 0

/-- The quadrature reference: 2·cos, the square delayed by a quarter period, or none. -/
def refQ (mode car th j : Nat) : Int :=
  match mode with
  | 1 => 2 * sineRef (refStep car th j + 2048)
  | 2 => if (refStep car th j + 6144) % 8192 ≤ 4096 then 2 ^ 30 else -2 ^ 30
  | _ => 0

/-- The samples of a row, first one first; what is not listed is 0. -/
def samplesOf (i : RowInput) (sl k : Nat) : List Int :=
  match i.mods.find? (·.1 == sl) with
  | some e => (e.2 ++ List.replicate (2 ^ k - e.2.length) 0).take (2 ^ k)
  | none => []

/-! ### The chain (R150, R151): every stage is exact -/

/-- The state of one chain: CIC integrators and combs, half-band delay lines, FIR delay line; all empty when cleared. -/
def ChainMem.clear : ChainMem := ⟨[], [], [], []⟩

/-- A sample through the integrators. -/
def integrate (x : Int) : List Int → List Int
  | [] => []
  | i :: r => (i + x) :: integrate (i + x) r

/-- A decimated value through the combs: what leaves the last one, and their new contents. -/
def combs (x : Int) : List Int → Int × List Int
  | [] => (x, [])
  | d :: r => let y := combs (x - d) r; (y.1, x :: y.2)

/-- The CIC over a run of samples; `n` counts down to the next decimated value. What leaves it, oldest first. -/
def cicRun (ratio : Nat) : Nat → List Int → List Int → List Int → List Int → List Int × List Int × List Int
  | _, ints, cbs, out, [] => (ints, cbs, out.reverse)
  | n, ints, cbs, out, x :: r =>
    let ints := integrate x ints
    if n ≤ 1 then
      let y := combs (ints.getLastD 0) cbs
      cicRun ratio ratio ints y.2 (y.1 :: out) r
    else cicRun ratio (n - 1) ints cbs out r

/-- Σ taps × line, exact. -/
def dotExact (taps line : List Fp) : Fp := (List.zip taps line).foldl (fun a e => a.addExact (e.1.mulExact e.2)) Fp.zero

/-- One half-band stage over its input: one value out for every two in. The line holds the latest 23, newest first. -/
def halfBand (taps : List Fp) : List Fp → List Fp → List Fp × List Fp
  | line, x :: y :: r =>
    let line := (y :: x :: line).take 23
    let z := halfBand taps line r
    (z.1, dotExact taps line :: z.2)
  | line, _ => (line, [])

/-- The half-band stages one after another, with their lines. -/
def halfBands (taps : List Fp) : List (List Fp) → List Fp → List (List Fp) × List Fp
  | [], xs => ([], xs)
  | l :: ls, xs =>
    let a := halfBand taps l xs
    let b := halfBands taps ls a.2
    (a.1 :: b.1, b.2)

/-- A set of FIR coefficients: finite, symmetric (the chain is of linear phase, R155), of unit DC gain within 2^-30 (R151). -/
def tapsOk (bs : List (BitVec 32)) : Bool :=
  let fs := bs.map fun b => Fp.get32 b.toNat
  let sum := fs.foldl Fp.addExact Fp.zero
  bs.all (fun b => finite32 b.toNat) && bs == bs.reverse &&
    Fp.le (sum.addExact (Fp.ofInt (-1) 0)) (Fp.ofInt 1 (-30)) && Fp.le (Fp.ofInt (-1) (-30)) (sum.addExact (Fp.ofInt (-1) 0))

/-- Coefficients that have these properties, for the case that the free ones have not: 64 equal taps, and a half-band stage of
three taps. -/
def plainTaps (half : Bool) : List (BitVec 32) :=
  if half then List.replicate 10 0 ++ [0x3E800000, 0x3F000000, 0x3E800000] ++ List.replicate 10 0
  else List.replicate 64 0x3C800000

/-- The coefficients that LD ROM holds (R151): free within the properties that 64 taps can have (notes/assumptions/47.md). Set 0 … 4 for a CIC order, set 5 the half-band stage, which is the same for
every order. -/
def romTaps (set order : Nat) : List (BitVec 32) :=
  let bs := (List.range (if set = 5 then 23 else 64)).map (Config.firTap set (if set = 5 then 0 else order))
  if tapsOk bs then bs else plainTaps (set = 5)

def tapsFp (set order : Nat) : List Fp := (romTaps set order).map fun b => Fp.get32 b.toNat

/-- One row of a chain: its new state and the row's value. `xs` are the demodulated samples, in units of 2^-61 FS. -/
def chainRow (c : Chain) (k : Nat) (m : ChainMem) (xs : List Int) : ChainMem × Fp :=
  let start := fun (l : List Int) => if l.isEmpty then List.replicate c.order 0 else l
  let r := cicRun (2 ^ c.a k) (2 ^ c.a k) (start m.ints) (start m.combs) [] xs
  let hbs := if m.hb.isEmpty then List.replicate c.hb [] else m.hb
  let h := halfBands (tapsFp 5 0) hbs (r.2.2.map fun v => Fp.ofInt v (-61 - (c.a k * c.order : Nat)))
  let line := (h.2.reverse ++ m.fir).take 64
  (⟨r.1, r.2.1, h.1, line⟩, dotExact (tapsFp c.firSet c.order) line)

/-- A value in units of 2^-31 FS: one of its two neighbours, where it is none itself. -/
def fpUnits31 (x : Fp) : Int :=
  let e := minI x.e (-31)
  quot (x.units e) (2 ^ (-31 - e).toNat)

/-! ### The skew interpolator (R224) -/

/-- The step of the signal from row to row that the interpolator takes as its slope: free between the least and the largest
step of the rows that it holds, so that a signal of constant slope is delayed exactly. -/
def skewSlope (l : List Int) : Int :=
  match (List.zip l (l.drop 1)).map fun e => e.1 - e.2 with
  | [] => 0
  | d :: r => clampI (r.foldl minI d) (r.foldl maxI d) (Config.skewSlope l)

/-- A row value delayed by `trim`/64 ns, from the latest row values, newest first. -/
def skewed (k : Nat) (trim : Int) (l : List Int) : Int :=
  if trim = 0 then l.headD 0 else quot (l.headD 0 * (64 * 160 * 2 ^ k) - trim * skewSlope l) (64 * 160 * 2 ^ k)

/-! ### A row -/

/-- What a slice's chain runs with: the channel it serves or shadows, and its phase. -/
structure ChainUse where
  slice : Nat
  ch    : Nat
  phase : Int
deriving DecidableEq, Repr

/-- The plausibility limits of R121, in the fields' own units. -/
def corrOk (o : Int) (g : Nat) (p : Int) : Bool :=
  inI (-4294967) 4294967 o && 98 * 2 ^ 30 ≤ 100 * g && 100 * g ≤ 102 * 2 ^ 30 && inI (-64) 64 p

/-- The set that the fuses give: the factory trim, or the nominal set where that is outside the limits (R107). -/
def factorySet (sl g : Nat) : CorrSet :=
  let t := Config.factoryTrim sl g
  if corrOk t.1 t.2.1 t.2.2 then ⟨t.1, t.2.1, t.2.2, none⟩ else ⟨0, 2 ^ 30, 0, none⟩

/-- The correction set that a slice holds for a gain code. -/
def State.corrSet (s : State) (sl g : Nat) : CorrSet :=
  match s.flt.corr.find? (·.1 == 8 * sl + g) with
  | some e => e.2
  | none => factorySet sl g

def State.setCorr (s : State) (sl g : Nat) (c : CorrSet) : State :=
  { s with flt := { s.flt with corr := Tbl.put s.flt.corr (8 * sl + g) c } }

/-- Gain code of a channel (R103). -/
def Pat.gain (p : Pat) (ch : Nat) : Nat := p.f sSlc (ch / 8) (ch % 8) 1

/-- The spare of a cluster shadows its target (R106, R112). -/
def State.shadows (s : State) (cl : Nat) : Bool :=
  let p := (s.cluster cl).rot.phase
  p = .settle || p = .shadow || p = .defer

/-- The slices whose chains run in the row: those that serve the channels, and the shadowing spares. -/
def State.chainUses (s : State) : List ChainUse :=
  (allChans.map fun ch => let sl := s.chSlice ch; ⟨sl, ch, (s.corrSet sl (s.pat.gain ch)).phase⟩) ++
  ((List.range 32).filter s.shadows).map fun cl =>
    let sl := s.spareSlice cl
    ⟨sl, s.rotTarget cl, (s.corrSet sl (s.cluster cl).rot.step.gain).phase⟩

def State.chainMem (s : State) (sl : Nat) : ChainMem := Tbl.get ChainMem.clear s.flt.chainI sl
def State.quadMem (s : State) (sl : Nat) : ChainMem := Tbl.get ChainMem.clear s.flt.chainQ sl

/-- PHASE_TRIM of a channel (R148). -/
def Pat.phaseTrim (p : Pat) (ch : Nat) : Int := signed 16 (p.f sDem (chCluster ch) (2 * (ch % 8)) 2)

/-- θ_ref of a channel served by a slice of the given phase (R146). -/
def State.chanTheta (s : State) (ch : Nat) (phase : Int) : Nat :=
  thetaRef (s.pat.f sExc (chCluster ch) 3 1) (s.pat.phaseTrim ch) phase

/-- The samples of a row times a reference, in units of 2^-61 FS. -/
def mixed (xs : List Int) (ref : Nat → Int) : List Int := xs.mapIdx fun j x => x * ref (j + 1)

/-- One slice in the row: in phase and in quadrature, with its chains' new state. A cleared chain that gets nothing stays
cleared and gives 0. The trim of a PARKED or DC driver is not used, nor is there a quadrature path. -/
def demodSlice (s : State) (i : RowInput) (u : ChainUse) : State :=
  let cl := chCluster u.ch
  let k := s.flt.chain.k
  let xs := if (s.die (clDie cl)).powered then samplesOf i u.slice k else []
  let mi := s.chainMem u.slice
  let mq := s.quadMem u.slice
  if xs.all (· == 0) && mi == ChainMem.clear && mq == ChainMem.clear && (Tbl.get [] s.flt.skewRows u.ch).isEmpty then
    { s with flt := { s.flt with inPhase := Tbl.set 0 s.flt.inPhase u.slice 0, quad := Tbl.set 0 s.flt.quad u.slice 0 } }
  else
    let xs := if xs.isEmpty then List.replicate (2 ^ k) 0 else xs
    let mode := s.excMode cl
    let car := s.pat.f sExc cl 1 1
    let th := s.chanTheta u.ch u.phase
    let c := s.clChain cl
    let ri := chainRow c k mi (mixed xs (refI mode car th))
    let rq := if carrierMode mode then chainRow c k mq (mixed xs (refQ mode car th)) else (ChainMem.clear, Fp.zero)
    let serving := u.slice = s.chSlice u.ch
    let held := Tbl.get [] s.flt.skewRows u.ch
    let hist := (fpUnits31 ri.2 :: (if serving then held else held.drop 1)).take 4
    { s with flt := { s.flt with
        chainI := Tbl.set ChainMem.clear s.flt.chainI u.slice ri.1
        chainQ := Tbl.set ChainMem.clear s.flt.chainQ u.slice rq.1
        skewRows := if serving then Tbl.set [] s.flt.skewRows u.ch (if hist.all (· == 0) then [] else hist) else s.flt.skewRows
        inPhase := Tbl.set 0 s.flt.inPhase u.slice (skewed k (signed 16 (s.pat.f sSkw cl (2 * (u.ch % 8)) 2)) hist)
        quad := Tbl.set 0 s.flt.quad u.slice (fpUnits31 rq.2) } }

/-- Demodulation and filtering of the row in production. -/
def demodRow (s : State) (i : RowInput) : State := s.chainUses.foldl (fun s u => demodSlice s i u) s

/-! ### Restarts (R160) -/

/-- The chains of these slices start again from the cleared state. -/
def restartChains (s : State) (sls : List Nat) : State :=
  { s with flt := { s.flt with
    chainI := sls.foldl (fun t sl => Tbl.set ChainMem.clear t sl ChainMem.clear) s.flt.chainI
    chainQ := sls.foldl (fun t sl => Tbl.set ChainMem.clear t sl ChainMem.clear) s.flt.chainQ } }

/-- Slices are unsettled for L rows from row `r` on: what a spare among them shows (R122, R158). -/
def unsSlices (s : State) (sls : List Nat) (r : Nat) : State :=
  { s with flt := { s.flt with
    slices := Tbl.updAll Slice.init s.flt.slices sls fun sl x => { x with unsEnd := Nat.max x.unsEnd (r + s.clL (sl / 9)) } } }

/-- The nine slices of a cluster. -/
def clSlices (cl : Nat) : List Nat := (List.range 9).map (9 * cl + ·)

end Sys2Proof.Machine
end

