-- ==== Sys2Proof/Machine/Row.lean ====
section
/-!
DEFINITION. The production of a row: the temperature taker (R136, R182–R187), slice and swatch correction (R107–R108,
R206), the flags of a stitch (R33, R73–R76, R86–R91, R158), the channel polynomial (R175–R181), weighing points and motion
detection (R188–R194), and the threshold comparators (R170–R173).
-/
namespace Sys2Proof.Machine

/-! ### Temperatures (R136, R182–R187) -/

/-- K0 + K1·u + K2·u² in binary64 (R183). -/
def thetaOf (p : Pat) (ch value : Nat) : Fp :=
  let u := Fp.ofInt (signed 24 value) (-23)
  let k := fun o => Fp.get32 (p.f sTemp ch o 4)
  ((k 4).add ((k 8).mul u)).add ((k 12).mul (u.mul u))

/-- The channels that TEMP_CFG assigns to an entry of a die. -/
def tempUsers (p : Pat) (d entry : Nat) : List Nat :=
  allChans.filter fun ch => p.f sTemp ch 0 1 = 2 && p.f sTemp ch 1 1 = d && p.f sTemp ch 2 1 = entry

def State.tempCh (s : State) (ch : Nat) : TempCh := Tbl.get TempCh.init s.lin.temps ch

/-- The taker takes AUXDATA of one die at a row boundary. -/
def takeAux (s : State) (d : Nat) : State :=
  let a := (s.aux d).data
  if a.isNew then
    let s := s.updAux d fun x =>
      { x with data := { a with isNew := false }
               results := Tbl.set AuxData.init x.results a.entry { a with isNew := false, ovr := false } }
    if a.faulty then s else
      let users := tempUsers s.pat d a.entry
      let back := users.any fun ch => (s.tempCh ch).st = 2
      let s := { s with lin := { s.lin with temps := Tbl.updAll TempCh.init s.lin.temps users fun ch _ =>
        ⟨BitVec.ofNat 64 (thetaOf s.pat ch a.value).to64, 0, 0, s.time.b2.val⟩ } }
      if back then emit s 0x1021 d a.entry else s
  else s

/-- The take at B_N: ages grow by one row, then both dies' results are taken. -/
def takeTemps (s : State) : State :=
  let users := allChans.filter fun ch => s.pat.f sTemp ch 0 1 = 2
  let s := { s with lin := { s.lin with temps := Tbl.updAll TempCh.init s.lin.temps users fun _ t =>
    { t with age := sat 65535 (t.age + 1) } } }
  takeAux (takeAux s 0) 1

/-- Temperature of a region sensor (R184). -/
def State.regionTheta (s : State) (rg : Nat) : Fp := Fp.ofInt (Tbl.get 2560 s.lin.region rg) (-7)

/-- θ in use before clamping, and whether it is a substitute (R182–R185). -/
def State.theta (s : State) (ch : Nat) : Fp × Bool :=
  match s.pat.f sTemp ch 0 1 with
  | 0 => (Fp.ofInt 20 0, false)
  | 1 => (s.regionTheta (s.pat.f sTemp ch 1 1), false)
  | _ =>
    let t := s.tempCh ch
    if t.st = 0 then (Fp.get64 t.theta.toNat, false) else (s.regionTheta (chRegion ch), true)

/-- R176: θ clamped to −80 … +120 °C, and whether it was. -/
def clampTheta (x : Fp) : Fp × Bool :=
  if Fp.lt x (Fp.ofInt (-80) 0) then (Fp.ofInt (-80) 0, true)
  else if Fp.lt (Fp.ofInt 120 0) x then (Fp.ofInt 120 0, true)
  else (x, false)

/-! ### Correction (R107, R108, R206) -/

/-- x_raw of a slice in the last row, in units of 2^-31 FS. -/
def State.rawOf (s : State) (sl : Nat) : Int := Tbl.get 0 s.flt.inPhase sl

/-- (x − OFFSET) × GAIN of the set that a slice holds for a gain code, exact, in units of 2^-61 FS. -/
def State.corrected (s : State) (sl g : Nat) (x : Int) : Int :=
  let c := s.corrSet sl g
  (x - c.offset) * c.gain

/-- x_s of a slice in the last row. -/
def State.xs (s : State) (sl g : Nat) : Int := s.corrected sl g (s.rawOf sl)

/-- x_c = (x_s − OFFSET) × GAIN in binary64, to the nearest S32 code (R206). -/
def State.xc (s : State) (ch : Nat) (xs : Int) : Int :=
  let sw := s.pat.str sSwatch ch
  let x := Fp.round 53 (Fp.ofInt xs (-61))
  let y := (x.sub (Fp.ofInt (signed 32 (fld sw 0 4)) (-31))).mul (Fp.ofInt (fld sw 4 4) (-30))
  y.toUnits (-23)

/-! ### Flags of a channel's S32 stitch -/

/-- The die does not convert for the row, or its clusters have not yet left PARKED after power-up (R562). -/
def State.dieSub (s : State) (d : Nat) : Bool := !(s.die d).powered || (s.die d).unpark

/-- The data lane of a slice has no lock, or had none in part of the row (R564). -/
def State.laneSub (s : State) (sl : Nat) : Bool :=
  let d := s.die (sl / 144)
  d.lanesLost.contains (sl % 144 / 18) || d.lanesBack.contains (sl % 144 / 18)

/-- WFT and SUB that the cluster's driver causes (R63, R68, R86, R89, R91). A sense fault that stands while the driver goes
through CHECK and RAMP has not cleared, so its flag stays (R98). -/
def State.driverFlags (s : State) (cl : Nat) : Bool × Bool :=
  let d := (s.cluster cl).drv
  if s.excMode cl = 3 then (true, true)
  else
    let bad := d.st = .fallback || (d.senseBad && !s.fourWire cl && (d.st = .check || d.st = .ramp))
    let hold := bad && s.holdRatio cl
    let strict := bad && !s.holdRatio cl
    (d.limit || d.wftHold || strict || d.st = .shortParked || d.st = .reversedParked || d.st = .thermalParked, hold)

/-- A channel in the row in production: S32 code, flag byte without PAR. -/
def State.s32Row (s : State) (ch : Nat) : Int × Nat :=
  let cl := chCluster ch
  let sl := s.chSlice ch
  let c := s.chan ch
  let v := s.xc ch (s.xs sl (s.pat.gain ch))
  let ovl := (s.slice sl).ovl
  let (v, isSat) := if ovl = 1 || ovl = 3 then (codeMax, true) else if ovl = 2 || ovl = 4 then (codeMin, true) else satCode v
  if s.dieSub (chDie ch) then (v, fSub)
  else
    let (wft, sub) := s.driverFlags cl
    (v, flagByte (s.flt.rows.row < c.unsEnd) (isSat || c.clampNow) c.clampNow
      (wft || ((c.openP || c.openN) && s.openDetector ch) || (s.die (clDie cl)).outRange) c.hnd (sub || s.laneSub sl) c.rcf)

/-! ### The channel polynomial (R175–R181) -/

def hornerStep (x acc c : Fp) : Fp := if Config.hornerFused then acc.fma x c else (acc.mul x).add c

/-- Horner's scheme over coefficients of rising powers. -/
def horner (x : Fp) (cs : List Fp) : Fp :=
  match cs.reverse with
  | [] => Fp.zero
  | c :: r => r.foldl (hornerStep x) c

/-- Σ c_ij x^i t^j in binary64; the nesting is the implementation's (notes/assumptions/6.md). -/
def polynomial (b : Bytes) (x t : Fp) : Fp :=
  let c := fun i j => Fp.get32 (fld b (8 + 4 * (4 * i + j)) 4)
  if Config.hornerTInner then
    horner x ((List.range 6).map fun i => horner t ((List.range 4).map fun j => c i j))
  else
    horner t ((List.range 4).map fun j => horner x ((List.range 6).map fun i => c i j))

/-- A binary64 result as the binary32 value delivered, and whether it overflowed (R181). -/
def deliver32 (y : Fp) : Nat × Bool :=
  if y.over32 then ((if y.neg then 0xFF7FFFFF else 0x7F7FFFFF), true) else (y.to32, false)

/-- What the linearisation unit makes of a channel's stitch. -/
structure LRow where
  y     : Nat
  fl    : Nat
  ovf   : Bool
  /-- ENABLE 1 with a substitute θ, and with a substitute or clamped θ -/
  subst : Bool
  tsub  : Bool
deriving DecidableEq, Repr

/-- The L32 value and flags of a channel (R175–R186, R197). -/
def State.l32Row (s : State) (ch : Nat) (v : Int) (fl : Nat) : LRow :=
  let b := s.pat.str sLin ch
  let fl := if s.lin.linRcf.testBit ch && !s.dieSub (chDie ch) then fl ||| fRcf else fl
  let x := Fp.ofInt v (-23)
  if fld b 0 1 = 1 then
    let (th, subst) := s.theta ch
    let (th, clamped) := clampTheta th
    let t := (th.sub (Fp.ofInt 20 0)).div (Fp.ofInt 100 0)
    let (y, ovf) := deliver32 (polynomial b x t)
    let fl := if subst || clamped then fl ||| fSub else fl
    ⟨y, if ovf then fl ||| fOvr else fl, ovf, subst, subst || clamped⟩
  else ⟨x.to32, fl, false, false, false⟩

/-! ### Weighing points and motion detection (R188–R194) -/

/-- SPAN × Σ CORNER_m × y_m in binary64, in member order. -/
def wpValue (b : Bytes) (y : Nat → Nat) : Fp :=
  let n := fld b 0 1
  let sum := (List.range n).foldl (fun a m =>
    Fp.add a ((Fp.get32 (fld b (20 + 8 * m) 4)).mul (Fp.get32 (y (fld b (16 + 8 * m) 2))))) Fp.zero
  (Fp.get32 (fld b 8 4)).mul sum

/-- Largest less smallest of the window, in binary64. -/
def spread (ws : List (BitVec 32)) : Fp :=
  match ws.map fun w => Fp.get32 w.toNat with
  | [] => Fp.zero
  | x :: r => (r.foldl (fun a b => if Fp.lt a b then b else a) x).sub (r.foldl (fun a b => if Fp.lt b a then b else a) x)

/-- The motion window after a row, and whether the row is STABLE (R192). -/
def motionRow (b : Bytes) (win : List (BitVec 32)) (w fl : Nat) : List (BitVec 32) × Bool :=
  let n := fld b 2 2
  if n < 2 ∨ fl &&& (fUns + fOvr + fWft + fSub) ≠ 0 then ([], false)
  else
    let win := bounded n (BitVec.ofNat 32 w :: win)
    (win, win.length = n && Fp.le (spread win) (Fp.get32 (fld b 4 4)))

/-! ### Row instants (R143, R261, R266, R269) -/

/-- D_g of the chain in force, in units of 2^-32 ns. -/
def State.groupDelay (s : State) : Fns := s.flt.chain.cur.gdelay s.flt.chain.k * 10 * nsF

def baseLoaded (b : Base) : Bool := b.st ≠ .unset

/-- The other of TB0 and TB1. -/
def State.otherNo (s : State) : Nat := 1 - s.time.selected

/-- FLAGS of ROW_TIME: DUAL, SLEW, HOLDOVER, UNLOCKED. -/
def State.timeFlags (s : State) : Nat :=
  let b := s.selBase
  b2n (baseLoaded (s.base s.otherNo)) + 2 * b2n (s.time.gridRem ≠ 0) + 4 * b2n (b.st = .holdover) +
    8 * b2n (b.st = .acquiring || b.st = .freerun)

/-- The same instant counted in the other base; 0 where that base is not loaded. -/
def State.inOther (s : State) (t : Fns) : Fns :=
  let o := s.base s.otherNo
  if baseLoaded o then ((t : Int) + o.val - s.selBase.val).toNat else 0

/-- T_ROW × SWITCH_RATE with what the rows before have left over, in 10^−9 units. -/
def State.slewParts (s : State) : Nat := s.time.gridFrac + rowT s.flt.chain.k * s.pat.f sTime 0 14 1

/-- How much the row in production is shortened by a grid slew (R266): T_ROW × SWITCH_RATE × 10^−9, at most what remains. -/
def State.slewStep (s : State) : Int :=
  let a : Nat := Nat.min (s.slewParts / 1000000000) s.time.gridRem.natAbs
  if s.time.gridRem < 0 then -(a : Int) else a

/-- B_N of the row in production. -/
def State.rowEnd (s : State) : Fns := ((s.flt.rows.last : Int) + rowT s.flt.chain.k - s.slewStep).toNat

/-! ### The row -/

/-- LIN_OVERFLOW of a stitch that overflows after a row in which it did not (R203). -/
def linOverflow (s : State) (subj : Nat) (again : Bool) : State :=
  if again then s else
    emit { s with lin := { s.lin with ovfCount := sat 65535 (s.lin.ovfCount + 1) } } 0x1022 subj 0

/-- All S32 and L32 stitches of the row in production. -/
def makeChans (s : State) : List (Nat × (Int × Nat) × LRow) :=
  allChans.map fun ch =>
    let a := s.s32Row ch
    (ch, a, s.l32Row ch a.1 a.2)

/-- W, the flags of the members, whether W overflows, and the stitch, for one enabled weighing point. -/
structure WRow where
  wp    : Nat
  w     : Nat
  fl    : Nat
  ovf   : Bool
  win   : List (BitVec 32)
  stitch : Nat
deriving DecidableEq, Repr

def makeWp (s : State) (l32 : Tbl (Nat × Nat)) (wp : Nat) : WRow :=
  let b := s.pat.str sWp wp
  let mem := (List.range (fld b 0 1)).map fun m => Tbl.get (0, 0) l32 (fld b (16 + 8 * m) 2)
  let (w, ovf) := deliver32 (wpValue b fun ch => (Tbl.get (0, 0) l32 ch).1)
  let any := mem.foldl (fun a e => a ||| e.2) 0
  let fl := any &&& (fUns + fOvr + fClp + fWft + fSub + fRcf)
  let fl := if ovf then fl ||| fOvr else fl
  let fl := if s.lin.wpRcf.testBit wp then fl ||| fRcf else fl
  let (win, stable) := motionRow b (Tbl.get [] s.lin.motion wp) w fl
  let fl := if stable then fl ||| fHnd else fl
  ⟨wp, w, fl, ovf, win, w64 w fl s.flt.rows.row⟩

/-- The record of the row, and the linearisation unit's registers after it. LAST_CH and LAST_WP name the highest of several that
overflow in the row, and SUBJECT of LIN_OVERFLOW is 256 + p for weighing point p (R202, R203; DESIGN CHOICE,
notes/assumptions/13.md). -/
def makeRow (s : State) : State :=
  let chs := makeChans s
  let s32t : Tbl Nat := chs.foldl (fun t e => Tbl.set 0 t e.1 (s32 e.2.1.1 e.2.1.2)) []
  let l32t : Tbl (Nat × Nat) := chs.foldl (fun t e => Tbl.set (0, 0) t e.1 (e.2.2.y, l32Flags e.2.2.y e.2.2.fl)) []
  let wps := ((List.range 64).filter s.pat.wpOn).map (makeWp s l32t)
  let oc := chs.foldl (fun m e => bitSet m e.1 e.2.2.ovf) 0
  let ow := wps.foldl (fun m e => bitSet m e.wp e.ovf) 0
  let wasC := s.lin.ovfCh
  let wasW := s.lin.ovfWp
  let lastC := (bitsOf 256 oc).getLast?
  let lastW := (bitsOf 64 ow).getLast?
  let s := { s with
    lin := { s.lin with
      motion := wps.foldl (fun t e => Tbl.set [] t e.wp e.win) []
      stable := wps.foldl (fun m e => bitSet m e.wp (e.fl.testBit 4)) 0
      lOvf := s.lin.lOvf || lastC.isSome
      wOvf := s.lin.wOvf || lastW.isSome
      tempSub := s.lin.tempSub || chs.any (fun e => e.2.2.tsub)
      lastCh := lastC.getD s.lin.lastCh
      lastWp := lastW.getD s.lin.lastWp
      subNow := (chs.filter fun e => e.2.2.subst).length
      clamped := allChans.foldl (fun m ch => bitSet m ch (clampTheta (s.theta ch).1).2) 0
      ovfCh := oc
      ovfWp := ow }
    flt := { s.flt with recent := bounded 16640 (⟨s.flt.rows.row, s32t, l32t, wps.map (fun e => (e.wp, e.stitch)), 0, RowEv.none⟩ ::
      s.flt.recent) } }
  let s := (bitsOf 256 oc).foldl (fun s ch => linOverflow s ch (wasC.testBit ch)) s
  (bitsOf 64 ow).foldl (fun s wp => linOverflow s (256 + wp) (wasW.testBit wp)) s

/-! ### Comparators (R169–R173) -/

/-- The configuration bytes of comparator q: LEVEL, HYST, MODE. -/
def Pat.thr (p : Pat) (q : Nat) : Nat × Nat × Nat :=
  let sid := if q < 512 then sThr else sThrWp
  let idx := q % 512 / 2
  let o := 12 * (q % 2)
  (p.f sid idx o 4, p.f sid idx (o + 4) 4, p.f sid idx (o + 8) 1)

/-- Past LEVEL in the direction, and beyond LEVEL by more than HYST the other way. -/
def cmpInt (lv hy md : Nat) (v : Int) : Bool × Bool :=
  let l := signed 32 lv
  if md % 4 = 1 then (l ≤ v, v < l - hy) else (v ≤ l, l + hy < v)

/-- The sum and the difference are formed in binary64, and rounded where it cannot hold them: R170 says both that and 'without
rounding' (DESIGN CHOICE, notes/assumptions/42.md). -/
def cmpFp (lv hy md : Nat) (v : Fp) : Bool × Bool :=
  let l := Fp.get32 lv
  let h := Fp.get32 hy
  if md % 4 = 1 then (Fp.le l v, Fp.lt v (l.sub h)) else (Fp.le v l, Fp.lt (l.add h) v)

/-- Evaluate one comparator on the row just made. -/
def evalCmp (s : State) (r : RowRec) (q : Nat) : State :=
  let (lv, hy, md) := s.pat.thr q
  if md % 4 = 0 then
    { s with flt := { s.flt with thrState := bitSet s.flt.thrState q false, thrInit := bitSet s.flt.thrInit q false } }
  else
    let c : Cmp := ⟨s.flt.thrInit.testBit q, s.flt.thrState.testBit q, false, false⟩
    let c :=
      if q < 512 then
        let w := Tbl.get 0 r.s32 (q / 2)
        let (hi, lo) := cmpInt lv hy md (s32Val w)
        cmpRow c (cmpHold md (s32Flags w)) hi lo
      else
        match r.w64.find? (·.1 == (q - 512) / 2) with
        | none => cmpRow c true false false
        | some e =>
          let (hi, lo) := cmpFp lv hy md (Fp.get32 (w64Val e.2))
          cmpRow c (cmpHold md (w64Flags e.2)) hi lo
    let s := { s with flt := { s.flt with
      thrState := bitSet s.flt.thrState q c.st
      thrInit := bitSet s.flt.thrInit q c.init
      thrEvent := if c.rise then bitSet s.flt.thrEvent q true else s.flt.thrEvent
      thrRise := bitSet s.flt.thrRise q c.rise
      thrFall := bitSet s.flt.thrFall q c.fall } }
    if c.rise && md.testBit 3 then fireSrc s (96 + q / 32) else s

/-- The comparators that the pattern turns on, or that hold a state to be dropped. -/
def State.liveCmps (s : State) : List Nat :=
  (List.range 640).filter fun q => s.flt.thrInit.testBit q || (s.pat.thr q).2.2 % 4 ≠ 0

/-- COMPARATOR_EVALUATE over the row just made; its record keeps what the row's step is evaluated against (R281). t_N is 0 where
D_g exceeds B_N, as no time stamp is negative (R143, R233; DESIGN CHOICE, notes/assumptions/23.md). -/
def evalCmps (s : State) : State :=
  match s.flt.recent with
  | [] => s
  | r :: _ =>
    let s := { s with flt := { s.flt with thrRise := 0, thrFall := 0 } }
    let s := s.liveCmps.foldl (fun s q => evalCmp s r q) s
    match s.flt.recent with
    | [] => s
    | r :: l =>
      let ev : RowEv :=
        { init := s.flt.thrInit, rise := s.flt.thrRise, fall := s.flt.thrFall, stable := s.lin.stable
          diLevel := s.ic.diLevel, diRise := s.ic.diRise, diFall := s.ic.diFall, te := s.ic.teFired, tb2 := s.time.b2.val
          base := s.time.selected, tflags := s.timeFlags, timeSel := s.rowEnd - s.groupDelay
          timeOther := s.inOther (s.rowEnd - s.groupDelay), epoch := s.flt.rows.epoch, stream := s.pat.str sStream 0
          wpMask := s.pat.wpMask (s.pat.f sStream 0 32 8), mdFrame := false, mdCls := 0 }
      { s with
        flt := { s.flt with recent := { r with cmp0 := s.flt.thrState, ev := ev } :: l }
        ic := { s.ic with diRise := 0, diFall := 0, teFired := 0 } }

/-- Production of the row in progress at its boundary B_N. -/
def produce (s : State) : State :=
  evalCmps (makeRow s)

/-! ### What the row's flags leave for the rows after it (R73–R75, R612, R63) -/

/-- L of the chain in force in a cluster in the next row: its own commit may switch there (R159, R161). -/
def State.nextL (s : State) (cl : Nat) : Nat :=
  match s.mbx.pending with
  | some c =>
    if c.cls / 4 % 2 = 0 ∧ c.keys.contains (patKey sChain 0) = true ∧ s.flt.rows.row + 1 = c.row + cl then c.pat.chain.l
    else s.clL cl
  | none => s.clL cl

/-- A clamp that ended in row C: UNS from C + 1 through C + L on the channel, and through C + L + 1 on the cluster's other
channels from the clamped row on (R74, R75). -/
def clampAfter (s : State) (i : RowInput) (ch : Nat) : State :=
  let c := s.chan ch
  let cl := chCluster ch
  let others := (clChans cl).filter (· ≠ ch)
  let r := s.flt.rows.row
  let held := i.clampHeld.contains ch && (s.die (chDie ch)).powered
  let s := if c.clampNow then
      unsUntil (if held then s else unsUntil s [ch] fun _ => r + s.nextL cl + 1) others fun _ => r + s.nextL cl + 2
    else s
  s.updChan ch fun c => { c with clampLast := c.clampNow, clampNow := held }

/-- The overload detector of a slice has cleared within the row: UNS for L rows on the channel it serves (R612). -/
def overloadAfter (s : State) (ch : Nat) : State :=
  let sl := s.chSlice ch
  if 3 ≤ (s.slice sl).ovl then unsUntil s [ch] fun _ => s.flt.rows.row + 1 + s.nextL (chCluster ch) else s

/-- Every slice at the end of the row: whether its detector was active in it, and the rows that a detector which has cleared
leaves unsettled. -/
def overloadsClear (s : State) : State :=
  { s with flt := { s.flt with
    slices := Tbl.updAll Slice.init s.flt.slices (s.flt.slices.map (·.1)) fun sl x =>
      if 3 ≤ x.ovl then
        { x with ovl := 0, ovlLast := true, unsEnd := Nat.max x.unsEnd (s.flt.rows.row + 1 + s.nextL (sl / 9)) }
      else { x with ovlLast := x.ovl ≠ 0 } } }

/-- A driver in the current limit at the boundary that starts row `r`: that row begins in limit (R63, R95). -/
def Drv.beginRow (d : Drv) (lim : Bool) (r : Nat) : Drv :=
  { d with inLimit := lim, limit := lim, limFrom := if lim then (if d.limit then d.limFrom else r) else 0 }

/-- A driver at the boundary that starts the next row: in limit there (R63), regulating again after a short (R91), back to
six-wire operation (R90), and whether an over-voltage still stands (R70). -/
def driverAfter (s : State) (i : RowInput) (cl : Nat) : State :=
  let n := s.flt.rows.row + 1
  let s := s.updDrv cl fun d =>
    let d := d.beginRow (i.limitHeld.contains cl && d.st.driving) n
    if i.overVolt.contains cl then d else d.drop [lvOverVolt]
  let d := (s.cluster cl).drv
  let up := d.wftHold && !d.inLimit && (d.st = .regulating || d.st = .fourWire || d.st = .fallback)
  let s := if up then unsUntil (s.updDrv cl fun d => { d with wftHold := false }) (clChans cl) fun _ => n + s.nextL cl else s
  if d.restoring then
    unsUntil (s.updDrv cl fun d => { d with st := s.operating cl, restoring := false }) (clChans cl) fun _ => n + s.nextL cl
  else s

/-- Both rails of a die came back within the row: WFT ends with it (R85). -/
def railsAfter (s : State) (d : Nat) : State :=
  if (s.die d).rangeBack then s.updDie d fun x => { x with outRange := false, rangeBack := false } else s

/-- Drop the one-row flags of the row just made. -/
def clearRowFlags (s : State) : State :=
  { s with
    flt := { s.flt with chans := Tbl.updAll Chan.init s.flt.chans (s.flt.chans.map (·.1)) fun _ c => { c with rcf := false, hnd := false } }
    lin := { s.lin with wpRcf := 0, linRcf := 0 } }

/-- Field-side consequences at the end of the row. -/
def fieldAfter (s : State) (i : RowInput) : State :=
  let s := detectorsRow s i s.flt.rows.row
  let busy := (s.flt.chans.map (·.1)) ++ i.clampHeld.filter fun ch => !(s.flt.chans.any fun e => e.1 == ch)
  let s := busy.foldl (fun s ch => clampAfter s i ch) s
  let s := overloadsClear (allChans.foldl overloadAfter s)
  clearRowFlags (railsAfter (railsAfter ((List.range 32).foldl (fun s cl => driverAfter s i cl) s) 0) 1)

end Sys2Proof.Machine
end

