-- ==== Sys2Proof/Machine/Auxiliary.lean ====
section
/-!
DEFINITION. The auxiliary converters (R131–R139), the region sensors (R184) and stale temperatures (R185).
-/
namespace Sys2Proof.Machine

/-- Entries of a die's list, and D_i and O_i of an entry in units of 10 ns (R134, R138). -/
def Pat.auxCount (p : Pat) (d : Nat) : Nat := p.f sAuxScan d 0 1
def Pat.auxDur (p : Pat) (d i : Nat) : Nat :=
  p.f sAuxScan d (6 + 4 * i) 2 * 1000 + 10000 * 2 ^ (p.f sAuxScan d (5 + 4 * i) 1 / 16)
def Pat.auxOfs (p : Pat) (d i : Nat) : Nat := ((List.range i).map (p.auxDur d)).sum

/-- SCAN_PERIOD in units of 10 ns: whole rows that cover the slots. -/
def State.scanPeriod (s : State) (d : Nat) : Nat :=
  let n := s.pat.auxCount d
  if n = 0 then 0 else
    let t := 16 * 2 ^ s.flt.chain.k
    ceilDiv (s.pat.auxOfs d n) t * t

/-- A scan stops: its die powers down, the device leaves ACTIVE, or a new list takes effect (R135). -/
def auxStop (s : State) (d : Nat) : State := s.updAux d fun a => { a with running := false }

/-- AUX_SCAN_START at a row boundary, the row now in production being SCAN_ROW (R134, R135). -/
def auxBoundary (s : State) (d : Nat) : State :=
  let a := s.aux d
  if a.running ∨ s.pat.auxCount d = 0 ∨ (s.die d).powered = false ∨ s.pm.st ≠ .active then s
  else s.updAux d fun a => { a with running := true, next := 0, scanRow := s.flt.rows.row }

/-- AUX_RESULT (R136–R139). -/
def execAuxResult (die : Die) (value : BitVec 24) (s : State) : Host.Outcome State Fault Refusal :=
  let a := s.aux die
  .next (if a.running then
      let e := a.next
      let mode := s.pat.f sAuxScan die (5 + 4 * e) 1 % 16
      let bad := mode ≠ 0 && 0x7D70A4 ≤ value.toInt
      let lost := a.data.isNew
      let s := s.updAux die fun a =>
        { a with
          data := ⟨value.toNat, e, lost, true, a.scanRow, bad⟩
          lost := if lost then a.data.entry else a.lost
          ovrLatch := a.ovrLatch || lost
          ovrCount := if lost then sat 65535 (a.ovrCount + 1) else a.ovrCount
          next := e + 1
          running := e + 1 < s.pat.auxCount die }
      let s := if lost then emit s 0x1010 die a.data.entry else s
      if bad then emit s 0x1011 die e else s
    else s)

/-- REGION_SENSOR_CONVERSION (R184): one conversion of each region sensor, in 1/128 °C, RG0 first. -/
def execRegionSensorConversion (temps : List Int) (s : State) : Host.Outcome State Fault Refusal :=
  .next { s with lin := { s.lin with region := Tbl.setRun 2560 s.lin.region 0 temps } }

/-- No usable result has arrived for more than the channel's STALE seconds, since the last one or since the wait for the first
began (R185). -/
def State.tempOld (s : State) (ch : Nat) : Bool :=
  (s.tempCh ch).since + s.pat.f sTemp ch 3 1 * secF < s.time.b2.val

/-- TEMP_STALE (R185): the channels of an entry whose STALE has passed take the substitute; reported once per die and entry. -/
def execTempStale (die : Die) (entry : Nat) (s : State) : Host.Outcome State Fault Refusal :=
  let users := tempUsers s.pat die entry
  .next (match users.filter fun ch => (s.tempCh ch).st ≠ 2 && s.tempOld ch with
    | [] => s
    | ch :: r =>
      let age := (s.tempCh ch).age
      let t := { s with lin := { s.lin with temps := Tbl.updAll TempCh.init s.lin.temps (ch :: r) fun _ t => { t with st := 2 } } }
      if users.any fun ch => (s.tempCh ch).st = 2 then t else emit t 0x1020 die (args [entry, age]))

end Sys2Proof.Machine
end

