-- ==== Sys2Proof/Machine/Staging.lean ====
section
/-!
DEFINITION. Staging of a pattern under its lease (R46–R48, R472, R473), shared by PAT_SET, PAT_LOAD, TEDS_APPLY and
SWATCH_STAGE.
-/
namespace Sys2Proof.Machine

def State.isSealed (s : State) : Bool := s.sec.life = .sealed

/-- What staging starts from: the staged pattern, else the pending one, else the one in force (R472). -/
def State.stageBase (s : State) : Pat :=
  match s.mbx.staged, s.mbx.pending with
  | some p, _ => p
  | none, some c => c.pat
  | none, none => s.mbx.force

/-- A staging command: BUSY for any other transport than the holder, else the change `f` makes or its refusal. -/
def stage (s : State) (h : CmdHdr) (f : Pat → Sum Pat Ans) : State × Option Ans :=
  let tag := viaTag h.via
  if s.mbx.staged.isSome ∧ s.mbx.stageOwner ≠ tag then answer s (Ans.err stBusy s.mbx.stageOwner)
  else if s.mbx.staged.isNone ∧ s.isBarred .staging tag then answer s (Ans.err stBusy 0)
  else match f s.stageBase with
    | .inr a => answer s a
    | .inl p =>
      let s := if s.mbx.staged.isNone then acquire s .staging else renew s .staging
      answer { s with mbx := { s.mbx with staged := some p, stageOwner := tag } } Ans.done

/-- The staged pattern is discarded (R473). -/
def discardStage (s : State) : State :=
  if s.mbx.staged.isSome then
    let tag := s.mbx.stageOwner
    emit { s with mbx := { s.mbx with staged := none, stageOwner := 0 } } 0x5052 tag tag
  else s

end Sys2Proof.Machine
end

