-- ==== Sys2Proof/Machine/Cal.lean ====
section
/-!
DEFINITION. Calibration with an external reference (chapter 06): the measurement engine (R204, R205), point measurements
and solves (R214–R219), carrier-phase, skew and detector measurements (R220–R228), staging of swatches (R217) and the
mismatch condition (R208).
-/
namespace Sys2Proof.Machine

/-! ### Results -/

def State.calRes (s : State) (ch : Nat) : CalRes := Tbl.get CalRes.init s.cal.res ch
def State.trimRes (s : State) (ch : Nat) : TrimRes := Tbl.get TrimRes.init s.cal.trims ch
def State.updCal (s : State) (f : Cal → Cal) : State := { s with cal := f s.cal }
def State.updRes (s : State) (ch : Nat) (f : CalRes → CalRes) : State :=
  s.updCal fun c => { c with res := Tbl.upd CalRes.init c.res ch f }
def State.updTrim (s : State) (ch : Nat) (f : TrimRes → TrimRes) : State :=
  s.updCal fun c => { c with trims := Tbl.upd TrimRes.init c.trims ch f }

/-- REASON codes (R219). -/
abbrev rsFlagged : Nat := 1
abbrev rsSpread : Nat := 2
abbrev rsCondition : Nat := 3
abbrev rsSeparation : Nat := 4
abbrev rsOffset : Nat := 5
abbrev rsGain : Nat := 6
abbrev rsStep : Nat := 7
abbrev rsSignal : Nat := 8
abbrev rsPhase : Nat := 9
abbrev rsPoints : Nat := 10
abbrev rsMean : Nat := 11

/-- Gain code, MODE, CARRIER and AMPLITUDE in force for a channel, packed as GAIN_CODE, EXC and AMPLITUDE of a swatch. -/
def Pat.condition (p : Pat) (ch : Nat) : Nat :=
  let e := p.f sExc (chCluster ch)
  p.gain ch + 256 * (e 0 1 + 4 * e 1 1) + 65536 * e 2 1

def State.condition (s : State) (ch : Nat) : Nat := s.pat.condition ch

/-- Two conditions match: CARRIER counts only between carrier modes (R208, R215). -/
def condSame (a b : Nat) : Bool :=
  let mode := fun c => c / 256 % 4
  let car := fun c => c / 1024 % 4
  a % 256 = b % 256 && mode a = mode b && a / 65536 = b / 65536 &&
    (!(carrierMode (mode a) && carrierMode (mode b)) || car a = car b)

/-! ### The engine -/

/-- Start a measurement (R204, R205): the window covers the N rows after the row in production. -/
def startMeas (s : State) (k : MeasKind) (mask point n ref exp via : Nat) : State × Option Ans :=
  match s.cal.running with
  | some m => answer s (Ans.err stBusy m.via)
  | none =>
    let m : Meas := ⟨k, mask, point, n, s.flt.rows.row + 1, ref, exp, via, [], [], [], []⟩
    answer (s.updCal fun c => { c with running := some m }) Ans.done

/-- What a row gives the engine for one channel: x_s, the row values in phase and in quadrature, the response to the test
current where the row has one, whether the channel counts for FDT_LEARN, and its flags. -/
structure MeasIn where
  xs      : Int
  inPhase : Int
  quad    : Int
  test    : Int
  counts  : Bool
  fl      : Nat
deriving DecidableEq, Repr

/-- Add one row to the accumulator of a channel; `step` is the row's place in the period of the test signal, 8192 steps long
(R225). -/
def accRow (a : MeasAcc) (v : MeasIn) (step : Nat) : MeasAcc :=
  let x := Fp.round 53 (Fp.ofInt v.xs (-61))
  let w := BitVec.ofNat 64 x.to64
  { sum := BitVec.ofNat 64 ((Fp.get64 a.sum.toNat).add x).to64
    lo := if a.rows = 0 || Fp.lt x (Fp.get64 a.lo.toNat) then w else a.lo
    hi := if a.rows = 0 || Fp.lt (Fp.get64 a.hi.toNat) x then w else a.hi
    rows := a.rows + 1
    flagged := a.flagged || v.fl &&& (fUns + fOvr + fClp + fWft + fSub) ≠ 0
    inPhase := a.inPhase + v.inPhase
    quad := a.quad + v.quad
    sine := a.sine + v.xs * sineFine step
    cosine := a.cosine + v.xs * cosineFine step
    quadMax := if v.counts then Nat.max a.quadMax v.quad.natAbs else a.quadMax
    testMax := if v.counts then Nat.max a.testMax v.test.natAbs else a.testMax }

/-- A channel counts for FDT_LEARN: no signal open is reported on it, and WF_EXCLUDE does not exclude it (R228). -/
def State.fdtCounts (s : State) (ch : Nat) : Bool :=
  !(s.chan ch).openP && !(s.chan ch).openN && !(s.pat.f sExc (chCluster ch) 7 1).testBit (ch % 8)

/-- What row `r` gives the engine for one channel. -/
def measIn (s : State) (i : RowInput) (r : Nat) (t : Tbl Nat) (ch : Nat) : MeasIn :=
  let sl := s.chSlice ch
  { xs := s.xs sl (s.pat.gain ch), inPhase := Tbl.get 0 s.flt.inPhase sl, quad := Tbl.get 0 s.flt.quad sl
    test := if r % 2 = 1 && s.testRuns (chCluster ch) then testOf i ch else 0
    counts := s.fdtCounts ch, fl := s32Flags (Tbl.get 0 t ch) }

/-- A row of a running measurement, at its boundary: `r` is the row just produced. -/
def calRow (s : State) (i : RowInput) (r : Nat) : State :=
  match s.cal.running with
  | none => s
  | some m =>
    if r < m.first ∨ m.first + m.n ≤ r then s else
      let t := match s.flt.recent with
        | [] => []
        | x :: _ => x.s32
      let chs := bitsOf 256 m.mask
      let step := if m.kind = .skew then r * 2 ^ (13 - m.exp) % 8192 else 0
      let acc := Tbl.updAll MeasAcc.init m.acc chs fun ch a => accRow a (measIn s i r t ch) step
      let cond := if r = m.first then chs.foldl (fun a ch => Tbl.set 0 a ch (s.condition ch)) [] else m.cond
      let last := chs.foldl (fun a ch => Tbl.set 0 a ch (s.condition ch)) []
      let trim := chs.foldl (fun a ch => Tbl.set 0 a ch (s.pat.phaseTrim ch)) []
      s.updCal fun c => { c with running := some { m with acc := acc, cond := cond, condEnd := last, trim := trim } }

/-- A commit changes gain or excitation of a channel: POINTS is cleared (R219). -/
def calCondition (s : State) (ch : Nat) : State := s.updRes ch fun r => { r with points := 0 }

/-! ### Results of each kind: the state, and whether the channel's result was refused -/

def refuse (s : State) (ch reason : Nat) : State × Bool := (s.updRes ch fun r => { r with reason := reason }, true)

/-- 16-bit fields that saturate. -/
def sat16 (v : Int) : Int := clampI (-32768) 32767 v

/-- θ of a channel as LIN_TEMP_ccc shows it (R187). -/
def State.thetaShown (s : State) (ch : Nat) : Nat := (clampTheta (s.theta ch).1).1.to32

/-- CAL_POINT (R214, R215). -/
def pointResult (s : State) (m : Meas) (ch : Nat) : State × Bool :=
  let a := Tbl.get MeasAcc.init m.acc ch
  let mean := ((Fp.get64 a.sum.toNat).div (Fp.ofInt m.n 0)).toUnits (-31)
  let spr := (Fp.get64 a.hi.toNat).sub (Fp.get64 a.lo.toNat)
  let sprN := spr.units (minI spr.e (-61))
  let den := 2 ^ (-(minI spr.e (-61))).toNat
  let s := s.updRes ch fun r => { r with spread := sat 65535 (quot (sprN * 100000000) den).toNat }
  let r := s.calRes ch
  let cond := Tbl.get 0 m.cond ch
  if a.flagged then refuse s ch rsFlagged
  else if (s.pat.f sCalLim 0 8 2 : Int) * den < sprN * 100000000 then refuse s ch rsSpread
  else if m.point = 1 ∧ r.points.testBit 0 = true ∧ condSame r.cond0 cond = false then refuse s ch rsCondition
  else if !inI (-(2 ^ 31)) (2 ^ 31 - 1) mean then refuse s ch rsMean
  else
    let th := BitVec.ofNat 32 (s.thetaShown ch)
    (s.updRes ch fun r =>
      if m.point = 0 then { r with mean0 := mean, cond0 := cond, points := bitSet r.points 0 true, theta := th }
      else { r with mean1 := mean, cond1 := cond, points := bitSet r.points 1 true, theta := th }, false)

/-- PHASE_MEASURE (R220, R221), with the excitation and the trim of the window's rows. A channel without carrier at the start and
at the end of the window gets no result; one that has passed to or from DC or PARKED in it has flagged rows. -/
def phaseResult (s : State) (m : Meas) (ch : Nat) : State × Bool :=
  let a := Tbl.get MeasAcc.init m.acc ch
  let carrier := fun (t : Tbl Nat) => carrierMode (Tbl.get 0 t ch / 256 % 4)
  if !carrier m.condEnd && !carrier m.cond then (s, false) else
    let d := atan2 a.quad a.inPhase
    let trim := Tbl.get 0 m.trim ch + d
    if a.flagged then refuse s ch rsFlagged
    else if 20 * a.inPhase.natAbs < m.n * 2 ^ 31 then refuse s ch rsSignal
    else if !inI (-1023) 1023 trim then refuse s ch rsPhase
    else (s.updTrim ch fun t => { t with delta := d, pTrim := trim, phValid := true }, false)

/-- arctan of a small ratio, in units of 2^-80. -/
def arcSeries (x : Int) : Int :=
  let q := 2 ^ 80
  let x2 := x * x / q
  let x3 := x2 * x / q
  let x5 := x3 * x2 / q
  x - x3 / 3 + x5 / 5 - x5 * x2 / q / 7

/-- The angle of the vector (dot, cross) in units of 2^-80: the nearest of 4096 directions, and the rest by the series. -/
def arcOf (cross dot : Int) : Int :=
  let d := atan2 cross dot
  let i := unsigned 13 (2 * d)
  let x := dot * cosineFine i + cross * sineFine i
  let y := cross * cosineFine i - dot * sineFine i
  d * (2 * stepAngle : Nat) + (if x = 0 then 0 else arcSeries (y * 2 ^ 80 / x))

/-- The delay of a channel against the reference in 1/64 ns (R225): the angle between their vectors (sine, −cosine), in a
period of 2^s rows. -/
def delayBetween (c r : MeasAcc) (k e : Nat) : Int :=
  nearest (arcOf (c.sine * r.cosine - c.cosine * r.sine) (c.sine * r.sine + c.cosine * r.cosine) * (2 ^ e * 2 ^ k * 160 * 64 : Nat))
    (8192 * stepAngle)

/-- The amplitude of the test signal is at least 1 % FS: (2/N)·√(sine² + cosine²), sums in units of 2^-141. -/
def amplitudeOk (a : MeasAcc) (n : Nat) : Bool :=
  (n : Int) ^ 2 * 2 ^ 282 ≤ 4 * (a.sine ^ 2 + a.cosine ^ 2) * 10000

/-- SKEW_MEASURE (R225). -/
def skewResult (s : State) (m : Meas) (ch : Nat) : State × Bool :=
  let a := Tbl.get MeasAcc.init m.acc ch
  let d := delayBetween a (Tbl.get MeasAcc.init m.acc m.ref) s.flt.chain.k m.exp
  let trim := signed 16 (s.pat.f sSkw (ch / 8) (2 * (ch % 8)) 2) - d
  if a.flagged then refuse s ch rsFlagged
  else if !amplitudeOk a m.n then refuse s ch rsSignal
  else if !inI (-2048) 2047 trim then refuse s ch rsPhase
  else (s.updTrim ch fun t => { t with dtau := sat16 d, pSkew := trim, skValid := true }, false)

/-- FDT_LEARN (R228): four times the largest statistics of the channels that count, in the units of FDT_CFG. A flagged row of
such a channel refuses the result (R229; notes/assumptions/48.md). With it the count of the channels that get a REASON. -/
def fdtResult (s : State) (m : Meas) : State × Nat :=
  let chs := (clChans m.point).filter s.fdtCounts
  let acc := fun ch => Tbl.get MeasAcc.init m.acc ch
  let q := 4 * (chs.map fun ch => (acc ch).quadMax).foldl Nat.max 0
  let t := 4 * (chs.map fun ch => (acc ch).testMax).foldl Nat.max 0
  let bad := chs.filter fun ch => (acc ch).flagged
  if !bad.isEmpty then (bad.foldl (fun s ch => (refuse s ch rsFlagged).1) s, bad.length)
  else if 5000 * 2 ^ 31 < q * 10000000 ∨ 1000 * 2 ^ 31 < t * 100000000 then
    ((clChans m.point).foldl (fun s ch => (refuse s ch rsSignal).1) s, 8)
  else
    let qThr := Nat.max 10 (quot (q * 10000000 : Nat) (2 ^ 31)).toNat
    let tThr := Nat.max 5 (quot (t * 100000000 : Nat) (2 ^ 31)).toNat
    (s.updCal fun c => { c with fdt := Tbl.set 0 c.fdt m.point (qThr + 65536 * tThr) }, 0)

/-- Run a result over channels and count the refusals. -/
def eachResult (s : State) (chs : List Nat) (f : State → Nat → State × Bool) : State × Nat :=
  chs.foldl (fun a ch => let r := f a.1 ch; (r.1, a.2 + b2n r.2)) (s, 0)

def measCode : MeasKind → Nat
  | .point => 0 | .phase => 1 | .skew => 2 | .fdt => 3

/-- The engine ends a measurement and reports CAL_DONE or CAL_REJECTED (R205, R231). -/
def endMeas (s : State) (m : Meas) (n refused : Nat) : State :=
  let s := s.updCal fun c => { c with running := none }
  if refused = 0 then emit s 0x1032 (measCode m.kind) n else emit s 0x1033 (measCode m.kind) refused

/-- The results of a measurement whose window has ended (R205). -/
def calFinish (s : State) (m : Meas) : State :=
  let chs := bitsOf 256 m.mask
  let r := match m.kind with
    | .point => eachResult s chs fun s ch => pointResult s m ch
    | .phase => eachResult s chs fun s ch => phaseResult s m ch
    | .skew => eachResult s chs fun s ch => skewResult s m ch
    | .fdt => fdtResult s m
  endMeas r.1 m chs.length r.2

/-- The stream closes: within the window every channel gets FLAGGED_ROW (R229); a window that has ended has its results. -/
def calRestart (s : State) : State :=
  match s.cal.running with
  | none => s
  | some m =>
    if m.first + m.n ≤ s.flt.rows.row then calFinish s m else
    let chs := bitsOf 256 m.mask
    let r := eachResult s chs fun s ch => refuse s ch rsFlagged
    endMeas r.1 m chs.length (Nat.max 1 r.2)

/-- CAL_DONE (R205): within one row after the boundary that ends the window. -/
def execCalDone (s : State) : Host.Outcome State Fault Refusal :=
  .next (match s.cal.running with
    | none => s
    | some m =>
      if s.flt.rows.row < m.first + m.n then s else calFinish s m)

/-! ### Measurement commands -/

def windowOk (lo n : Nat) : Bool := inR lo 65536 n

def cmdCalPoint : CmdHdr → Bytes → State → State :=
  mailbox 0x0300 (form 40 fun p => [(0, fld p 0 32 ≠ 0), (32, fld p 32 1 < 2), rsv p 33 3, (36, windowOk 16 (fld p 36 4))])
    fun s h p => startMeas s .point (fld p 0 32) (fld p 32 1) (fld p 36 4) 0 0 (viaTag h.via)

def execCalPoint (h : CmdHdr) (p : Bytes) (s : State) : Host.Outcome State Fault Refusal := .next (cmdCalPoint h p s)

/-- The channels of a cluster mask. -/
def chansOfClusters (m : Nat) : Nat := (bitsOf 32 m).foldl (fun a cl => a + 255 * 2 ^ (8 * cl)) 0

def cmdPhaseMeasure : CmdHdr → Bytes → State → State :=
  mailbox 0x0303 (form 8 fun p => [(0, fld p 0 4 ≠ 0), (4, windowOk 16 (fld p 4 4))])
    fun s h p => startMeas s .phase (chansOfClusters (fld p 0 4)) 0 (fld p 4 4) 0 0 (viaTag h.via)

def execPhaseMeasure (h : CmdHdr) (p : Bytes) (s : State) : Host.Outcome State Fault Refusal := .next (cmdPhaseMeasure h p s)

/-- f_ROW/2^e lies within the passband of the FIR set (R151, R152); the carrier limit always holds, since R153 gives
K ≥ 10 + CARRIER and e ≥ 3. -/
def inPassband (firSet e : Nat) : Bool := if firSet = 3 then 4 ≤ e else if firSet = 4 then 5 ≤ e else true

/-- The owner of a commit of SKW_CFG that is pending, or that waits for its answer (R229). -/
def State.skewCommit (s : State) : Option Nat :=
  ((s.mbx.pending.toList ++ (s.mbx.wait.map (·.commit)).toList).find? fun c => c.keys.any fun k => k / 65536 = sSkw).map (·.owner)

def cmdSkewMeasure : CmdHdr → Bytes → State → State :=
  mailbox 0x0304 (form 40 fun p =>
      [(0, fld p 0 32 ≠ 0), (32, (fld p 0 32).testBit (fld p 32 2)), (34, inR 3 12 (fld p 34 1)), rsv p 35 1,
        (36, windowOk 4096 (fld p 36 4) && fld p 36 4 % 2 ^ fld p 34 1 = 0)])
    fun s h p =>
      if !inPassband s.flt.chain.cur.firSet (fld p 34 1) then answer s (Ans.err stBadParam 34)
      else match s.skewCommit with
        | some owner => answer s (Ans.err stBusy owner)
        | none => startMeas s .skew (fld p 0 32) 0 (fld p 36 4) (fld p 32 2) (fld p 34 1) (viaTag h.via)

def execSkewMeasure (h : CmdHdr) (p : Bytes) (s : State) : Host.Outcome State Fault Refusal := .next (cmdSkewMeasure h p s)

def cmdFdtLearn : CmdHdr → Bytes → State → State :=
  mailbox 0x0305 (form 8 fun p => [(0, fld p 0 1 < 32), rsv p 1 3, (4, windowOk 256 (fld p 4 4))])
    fun s h p => startMeas s .fdt (chansOfClusters (2 ^ fld p 0 1)) (fld p 0 1) (fld p 4 4) 0 0 (viaTag h.via)

def execFdtLearn (h : CmdHdr) (p : Bytes) (s : State) : Host.Outcome State Fault Refusal := .next (cmdFdtLearn h p s)

/-- CAL_ABORT (R205): the result registers stay as they were. -/
def cmdCalAbort : CmdHdr → Bytes → State → State :=
  mailbox 0x0302 formEmpty fun s _ _ => answer (s.updCal fun c => { c with running := none }) Ans.done

def execCalAbort (h : CmdHdr) (p : Bytes) (s : State) : Host.Outcome State Fault Refusal := .next (cmdCalAbort h p s)

/-! ### CAL_SOLVE (R216, R217) -/

/-- A proposal, or the REASON of its refusal. -/
structure Solve where
  offset   : Int
  gain     : Nat
  residual : Int
  reason   : Nat
deriving DecidableEq, Repr

/-- OFFSET = M0 − T0/GAIN in binary64, to the nearest unit. -/
def solveOffset (m0 t0 : Int) (g : Nat) : Int :=
  ((Fp.ofInt m0 (-31)).sub ((Fp.ofInt t0 (-31)).div (Fp.ofInt g (-30)))).toUnits (-31)

/-- |x − 1| ≤ lim · 10^-4 for x = a/b. -/
def devOk (a b lim : Nat) : Bool := ((a : Int) - b).natAbs * 10000 ≤ lim * b

def solve (s : State) (ch : Nat) (zero : Bool) (t0 t1 : Int) : Solve :=
  let r := s.calRes ch
  let lim := s.pat.f sCalLim 0
  let gf := s.pat.f sSwatch ch 4 4
  let no := fun k => (⟨0, 0, 0, k⟩ : Solve)
  let sepOk := fun (d : Int) => lim 10 2 * 2 ^ 31 ≤ d.natAbs * 10000
  if !r.points.testBit 0 || (!zero && !r.points.testBit 1) then no rsPoints
  else if !zero && !condSame r.cond0 r.cond1 then no rsCondition
  else if !zero && (!sepOk (t1 - t0) || !sepOk (r.mean1 - r.mean0)) then no rsSeparation
  else
    let gi := if zero then (gf : Int) else ((Fp.ofInt (t1 - t0) 0).div (Fp.ofInt (r.mean1 - r.mean0) 0)).toUnits (-30)
    let g := gi.toNat
    if gi < 0x30000000 || 0x50000000 < gi || !devOk g (2 ^ 30) (lim 4 2) then no rsGain
    else if lim 6 2 ≠ 0 && !devOk g gf (lim 6 2) then no rsStep
    else
      let o := solveOffset r.mean0 t0 g
      if (lim 0 4 : Int) < o.natAbs || !inI (-(2 ^ 30)) (2 ^ 30) o then no rsOffset
      else
        let m := if zero then r.mean0 else r.mean1
        let t := if zero then t0 else t1
        ⟨o, g, sat16 (nearest (((m - o) * g - t * 2 ^ 30) * 100000000) (2 ^ 61)), 0⟩

def cmdCalSolve : CmdHdr → Bytes → State → State :=
  mailbox 0x0301 (form 12 fun p => [(0, fld p 0 2 < 256), (2, fld p 2 1 < 2), rsv p 3 1]) fun s _ p =>
    let ch := fld p 0 2
    let zero := fld p 2 1 = 1
    let v := solve s ch zero (signed 32 (fld p 4 4)) (signed 32 (fld p 8 4))
    if v.reason ≠ 0 then answer (s.updRes ch fun r => { r with reason := v.reason }) (Ans.err stLimit v.reason)
    else
      answer (s.updRes ch fun r =>
          { r with pOffset := v.offset, pGain := v.gain, residual := v.residual, proposal := true, zeroOnly := zero
                   pCond := if zero then r.cond0 else r.cond1, pTheta := r.theta })
        (Ans.ok (le 4 (unsigned 32 v.offset) ++ le 4 v.gain ++ le 2 (unsigned 16 v.residual)))

def execCalSolve (h : CmdHdr) (p : Bytes) (s : State) : Host.Outcome State Fault Refusal := .next (cmdCalSolve h p s)

/-! ### SWATCH_STAGE (R217) and the mismatch condition (R208) -/

/-- The swatch that a plausible proposal makes; SEQ, TIME and CHECK come at the commit (R210). -/
def proposedSwatch (r : CalRes) (old : Bytes) : Bytes :=
  swatchSeal (le 4 (unsigned 32 r.pOffset) ++ le 4 r.pGain ++ le 3 r.pCond ++ le 1 (1 + 2 * b2n r.zeroOnly) ++ slice old 12 10 ++
    zeros 2 ++ le 4 r.pTheta.toNat)

def cmdSwatchStage : CmdHdr → Bytes → State → State :=
  mailbox 0x0306 (form 32 fun _ => []) fun s h p =>
    if s.isSealed then answer s (Ans.err stSealed 0) else
      let chs := bitsOf 256 (fld p 0 32)
      if chs.any fun ch => !(s.calRes ch).proposal then answer s (Ans.err stBadParam 0)
      else stage s h fun base =>
        .inl (chs.foldl (fun q ch => q.setStr sSwatch ch (proposedSwatch (s.calRes ch) (q.str sSwatch ch))) base)

def execSwatchStage (h : CmdHdr) (p : Bytes) (s : State) : Host.Outcome State Fault Refusal := .next (cmdSwatchStage h p s)

/-- The settings in force differ from those recorded in a channel's VALID swatch. -/
def State.mismatched (s : State) (ch : Nat) : Bool :=
  (s.pat.f sSwatch ch 11 1).testBit 0 && !condSame (s.pat.f sSwatch ch 8 3) (s.condition ch)

/-- MISMATCH of every channel after a change, SWATCH_MISMATCH for each that arises (R208). -/
def swatchCheck (s : State) : State :=
  let now := allChans.foldl (fun m ch => bitSet m ch (s.mismatched ch)) 0
  let new := (bitsOf 256 now).filter fun ch => !s.cal.mismatch.testBit ch
  new.foldl (fun s ch => emit s 0x1034 ch 0) (s.updCal fun c => { c with mismatch := now })

end Sys2Proof.Machine
end

