-- ==== Sys2Proof/Machine/Kilzar.lean ====
section
/-!
DEFINITION. The Kilzar stream format (R315–R330), the compressor (R331–R338) and the decompressor (R339–R342), and their
jobs (R343–R347). notes/assumptions/16.md says what the spec leaves to the compressor.
-/
namespace Sys2Proof.Machine

/-! ### Bits: bit 7 of the first byte first (R322) -/

def bitsMsb : Nat → Nat → List Bool
  | 0, _ => []
  | n + 1, v => v.testBit n :: bitsMsb n v

/-- Pack bits into bytes, padded with 0 bits. -/
def packBits : Nat → List Bool → Bytes
  | 0, _ => []
  | n + 1, l =>
    if l.isEmpty then [] else
      BitVec.ofNat 8 ((List.range 8).foldl (fun a i => 2 * a + b2n (l.getD i false)) 0) :: packBits n (l.drop 8)

def pack (l : List Bool) : Bytes := packBits (l.length / 8 + 1) l

/-- Bit `i` of a byte string, none beyond its end. -/
def bitAt (b : Bytes) (i : Nat) : Option Bool := (b[i / 8]?).map fun x => x.getLsbD (7 - i % 8)

/-- `n` bits from bit `i` as a number. -/
def readBits (b : Bytes) : Nat → Nat → Nat → Option Nat
  | 0, _, a => some a
  | n + 1, i, a => match bitAt b i with
    | none => none
    | some x => readBits b n (i + 1) (2 * a + b2n x)

/-- How many bits equal to `v` stand at bit `i`, at most `lim`. -/
def runOf (b : Bytes) (v : Bool) : Nat → Nat → Option Nat
  | 0, _ => some 0
  | lim + 1, i => match bitAt b i with
    | none => none
    | some x => if x = v then (runOf b v lim (i + 1)).map (· + 1) else some 0

/-! ### Lanes and words (R321, R324–R327) -/

/-- State of a lane: words produced, accumulator, last flag byte, and the last three samples. -/
structure Lane where
  n  : Nat
  a  : Nat
  f  : Nat
  x1 : Int
  x2 : Int
  x3 : Int
deriving DecidableEq, Repr

def Lane.init (k0 : Nat) : Lane := ⟨0, 2 ^ k0, 0, 0, 0, 0⟩

def red24 (v : Int) : Int := signed 24 (unsigned 24 v)

/-- The prediction of order min(ORDER, n) (R324). -/
def Lane.predict (l : Lane) (order : Nat) : Int :=
  match Nat.min order l.n with
  | 0 => 0
  | 1 => l.x1
  | 2 => 2 * l.x1 - l.x2
  | _ => 3 * l.x1 - 3 * l.x2 + l.x3

/-- The lane after a word (R327, R329). -/
def Lane.push (l : Lane) (w : Nat) : Lane :=
  { l with n := l.n + 1, f := w % 256, x1 := signed 24 (w / 256), x2 := l.x1, x3 := l.x2 }

def zigzag (e : Int) : Nat := if 0 ≤ e then (2 * e).toNat else (-2 * e - 1).toNat
def unzigzag (u : Nat) : Int := if u % 2 = 0 then (u / 2 : Nat) else -(((u + 1) / 2 : Nat) : Int)

def Lane.code (l : Lane) (order w : Nat) : Nat := zigzag (red24 (signed 24 (w / 256) - l.predict order))
def Lane.rice (l : Lane) : Nat := if l.a = 0 then 0 else Nat.min 23 l.a.log2

/-- A SAMPLE token and the lane after it (R323–R327). -/
def sampleBits (l : Lane) (order w : Nat) : List Bool × Lane :=
  let u := l.code order w
  let k := l.rice
  let q := u / 2 ^ k
  let rice := if q < 24 then List.replicate q true ++ [false] ++ bitsMsb k u else List.replicate 24 true ++ bitsMsb 24 u
  let flag := if w % 256 = l.f then [false] else true :: bitsMsb 8 (w % 256)
  (false :: (rice ++ flag), { l.push w with a := (l.a + u + 1) / 2 })

/-- A MATCH token (R328). -/
def matchBits (len dist : Nat) : List Bool :=
  let v := len - 2
  let n := (v + 1).log2
  true :: (List.replicate n false ++ bitsMsb (n + 1) (v + 1) ++ bitsMsb 16 (dist - 1))

abbrev Lanes := Tbl Lane
def laneGet (k0 : Nat) (t : Lanes) (l : Nat) : Lane := Tbl.get (Lane.init k0) t l
def laneSet (k0 : Nat) (t : Lanes) (l : Nat) (v : Lane) : Lanes := Tbl.set (Lane.init k0) t l v

/-! ### Headers (R316–R318) -/

def kzHeader (kind level origSize : Nat) : Bytes := [0x4B, 0x5A, 0x53, 1] ++ le 1 kind ++ le 1 level ++ zeros 2 ++ le 8 origSize

def kzBlockHeader (coded : Bool) (order k0 stride lane0 origLen codedLen check : Nat) : Bytes :=
  (if coded then [0x02] ++ le 1 (order + 4 * k0) ++ le 2 stride ++ le 2 lane0 else [0x01] ++ zeros 5) ++ zeros 2 ++
    le 4 origLen ++ le 4 codedLen ++ le 4 check

def kzTrailer (orig : Bytes) : Bytes := [0x0E] ++ zeros 3 ++ le 4 (crc32c orig) ++ le 8 orig.length

/-! ### The compressor's choices (R331–R333) -/

def candidates : Nat → Nat
  | 0 => 0
  | n => 2 ^ (n - 1)

/-- The codes u of a block's words under an order, in order. -/
def blockCodes (order k0 stride lane0 : Nat) : Nat → Nat → Bytes → Lanes → List Nat
  | 0, _, _, _ => []
  | n + 1, i, b, ls =>
    let l := laneGet k0 ls ((lane0 + i) % stride)
    let w := fld b 0 4
    l.code order w :: blockCodes order k0 stride lane0 n (i + 1) (b.drop 4) (laneSet k0 ls ((lane0 + i) % stride) (l.push w))

/-- ORDER with the smallest sum of u, the lowest on ties. -/
def chooseOrder (stride lane0 w : Nat) (b : Bytes) : Nat :=
  let sum := fun o => (blockCodes o 0 stride lane0 w 0 b []).sum
  [1, 2, 3].foldl (fun o x => if sum x < sum o then x else o) 0

/-- K0 from the mean u of the first min(16, W) words. -/
def chooseK0 (order stride lane0 w : Nat) (b : Bytes) : Nat :=
  let n := Nat.min 16 w
  let s := ((blockCodes order 0 stride lane0 w 0 b []).take n).sum
  if n = 0 ∨ s < n then 0 else Nat.min 23 (s / n).log2

/-- Words that match between position `p` and the end `e` of what is produced, in `all`; at most `lim` words. -/
def matchWords (all : Bytes) (e p lim : Nat) : Nat :=
  let n := ((List.range (4 * lim)).takeWhile fun k => all[p + k]? == all[e + k]?).length
  n / 4

/-- The longest match at byte `e`, the nearest on ties: (words, distance). -/
def bestMatch (level : Nat) (all : Bytes) (e lim : Nat) : Nat × Nat :=
  let h := fun p => Config.kzHash (BitVec.ofNat 64 (fld all p 8))
  let ps := (((List.range (Nat.min e 65536)).map fun d => e - 1 - d).filter fun p => h p == h e).take (candidates level)
  ps.foldl (fun m p => let n := matchWords all e p lim; if m.1 < n then (n, e - p) else m) (0, 0)

/-- Bits of coding `n` words as samples, and the lanes after them. -/
def samplesCost (order k0 stride lane0 : Nat) : Nat → Nat → Bytes → Lanes → Nat
  | 0, _, _, _ => 0
  | n + 1, i, b, ls =>
    let l := laneGet k0 ls ((lane0 + i) % stride)
    let r := sampleBits l order (fld b 0 4)
    r.1.length + samplesCost order k0 stride lane0 n (i + 1) (b.drop 4) (laneSet k0 ls ((lane0 + i) % stride) r.2)

/-- Lanes after `n` words that a MATCH produces (R329). -/
def pushWords (k0 stride lane0 : Nat) : Nat → Nat → Bytes → Lanes → Lanes
  | 0, _, _, ls => ls
  | n + 1, i, b, ls =>
    let j := (lane0 + i) % stride
    pushWords k0 stride lane0 n (i + 1) (b.drop 4) (laneSet k0 ls j ((laneGet k0 ls j).push (fld b 0 4)))

/-- What coding a block has produced so far. -/
structure Coded where
  bits  : List Bool
  words : Nat
  /-- the output has no room for the next token -/
  full  : Bool
deriving DecidableEq, Repr

/-- Code a block's words: `hist` are the original bytes before it, `before` the stream bytes before its payload, `room` the
payload bytes that the output holds (R332, R333, R337). -/
def codeWords (level order k0 stride lane0 before room : Nat) (hist block : Bytes) (w : Nat) : Nat → Coded → Lanes → Coded
  | 0, c, _ => c
  | fuel + 1, c, ls =>
    if w ≤ c.words then c else
      let i := c.words
      let rest := block.drop (4 * i)
      let j := (lane0 + i) % stride
      let (bits, l) := sampleBits (laneGet k0 ls j) order (fld rest 0 4)
      let (mw, dist) := if level = 0 then (0, 0) else bestMatch level (hist ++ block) (hist.length + 4 * i) (w - i)
      -- R333: shortened so that the ratio stays within 64:1 at the end of the token
      let ok := fun n =>
        hist.length + 4 * (i + n) ≤ 64 * (before + ceilDiv (c.bits.length + (matchBits n dist).length) 8)
      let mw := ((List.range (mw + 1)).filter fun n => 2 ≤ n && ok n).foldl Nat.max 0
      let tok := matchBits mw dist
      if 2 ≤ mw ∧ tok.length < samplesCost order k0 stride lane0 mw i rest ls then
        if room * 8 < c.bits.length + tok.length then { c with full := true }
        else codeWords level order k0 stride lane0 before room hist block w fuel
          { c with bits := c.bits ++ tok, words := i + mw } (pushWords k0 stride lane0 mw i rest ls)
      else if room * 8 < c.bits.length + bits.length then { c with full := true }
      else codeWords level order k0 stride lane0 before room hist block w fuel
        { c with bits := c.bits ++ bits, words := i + 1 } (laneSet k0 ls j l)

/-- One block of a stream: its bytes, and how many original bytes it holds. `whole` says that the block may have a tail. -/
def codeBlock (level stride : Nat) (before room : Nat) (hist block : Bytes) (whole : Bool) : Bytes × Nat :=
  if room < 28 then ([], 0) else
    let w := block.length / 4
    let tail := if whole then block.length % 4 else 0
    let lane0 := (hist.length / 4) % stride
    let order := chooseOrder stride lane0 w block
    let k0 := chooseK0 order stride lane0 w block
    let c := if level = 0 then ⟨[], 0, true⟩
      else codeWords level order k0 stride lane0 (before + 20) (room - 20) hist block w (w + 1) ⟨[], 0, false⟩ []
    let tailFits := !c.full && ceilDiv c.bits.length 8 + tail ≤ room - 20
    let n := 4 * c.words + (if tailFits then tail else 0)
    let o := block.take n
    let pay := pack c.bits ++ (if tailFits then o.drop (4 * c.words) else [])
    if level ≠ 0 && 0 < n && pay.length < n then
      (kzBlockHeader true order k0 stride lane0 n pay.length (crc32c o) ++ pay, n)
    else
      let m := 4 * w + tail
      let n := if 20 + m ≤ room then m else (room - 20) / 4 * 4
      let o := block.take n
      if n = 0 then ([], 0) else (kzBlockHeader false 0 0 0 0 n n (crc32c o) ++ o, n)

/-! ### Compression jobs (R335–R337, R343, R344) -/

/-- The fields of a KZ_JOB. -/
def jobOp (j : Bytes) : Nat := fld j 0 1
def jobFlag (j : Bytes) (i : Nat) : Bool := (fld j 1 1).testBit i
def jobOutLimit (j : Bytes) : Nat := fld j 8 4

/-- R343: the fields of a job that are in range. -/
def jobOk (j : Bytes) : Bool :=
  let begin_ := jobFlag j 0
  let comp := jobOp j = 0
  j.length = 32 && jobOp j < 2 && fld j 1 1 < 16 && (begin_ != jobFlag j 1) && (comp || !(jobFlag j 2 || jobFlag j 3)) &&
    (if comp && begin_ then fld j 2 1 ≤ 9 && fld j 3 1 ≤ 3 && inR 1 1024 (fld j 4 2)
     else fld j 2 4 == 0 && fld j 16 8 == 0) &&
    2 ≤ fld j 6 2 && inR 64 16777216 (jobOutLimit j) && allZero (slice j 12 4) && allZero (slice j 24 8)

/-- Progress of a compression job. -/
structure CJob where
  c    : KzComp
  out  : Bytes
  full : Bool
deriving DecidableEq, Repr

/-- A block of `n` original bytes is written. -/
def CJob.block (x : CJob) (b : Bytes) (n : Nat) : CJob :=
  { x with
    out := x.out ++ b
    c := { x.c with
      written := x.c.written + b.length, orig := x.c.orig ++ x.c.block.take n, block := x.c.block.drop n
      lastBlk := if n = 0 then x.c.lastBlk else n } }

/-- Put bytes into the output. -/
def CJob.put (x : CJob) (b : Bytes) : CJob := { x with out := x.out ++ b, c := { x.c with written := x.c.written + b.length } }

/-- Write blocks while a block ends: at 65,536 bytes, or at FLUSH or END with bytes left (`flush`). -/
def writeBlocks (limit : Nat) (flush : Bool) : Nat → CJob → CJob
  | 0, x => x
  | fuel + 1, x =>
    let n := x.c.block.length
    if n = 0 ∨ (n < 65536 ∧ flush = false) then x else
      let blk := x.c.block.take 65536
      let r := codeBlock x.c.level x.c.stride x.c.written (limit - x.out.length) x.c.orig blk (flush && n ≤ 65536)
      let y := { x.block r.1 r.2 with full := x.full || r.2 < blk.length }
      if r.2 < blk.length then y else writeBlocks limit flush fuel y

/-- The block that stays open at the end of a job ends there after all where the output has no room for its whole words (R335,
R337). -/
def openBlock (limit : Nat) (x : CJob) : CJob :=
  let w := x.c.block.length / 4 * 4
  if w = 0 || x.full then x
  else
    let r := codeBlock x.c.level x.c.stride x.c.written (limit - x.out.length) x.c.orig x.c.block false
    if r.2 < w then { x.block r.1 r.2 with full := true } else x

/-- Run a compression job of a holder to its end; bytes of the job's own input that no block took are dropped and resubmitted
by the host. A job with nothing to do writes nothing (R346); an END whose total is not the ORIG_SIZE of the header would make a
stream that is not valid, and ends with STREAM_CHECK (R330, R344; notes/assumptions/16.md). -/
def runCompress (c : KzComp) (tag : Nat) (j input : Bytes) : KzComp × KzEnd :=
  let begin_ := jobFlag j 0
  let open_ := c.stat.isOpen && c.stat.holder = tag
  if !begin_ && !open_ then
    (c, ⟨7, c.stat.holder, c.stat.isOpen, 0, 0, c.stat.blockOut, c.stat.streamOut, []⟩)
  else
    let limit := jobOutLimit j
    let c := if begin_ then
        { c with level := fld j 2 1, kind := fld j 3 1, stride := fld j 4 2, origSize := fld j 16 8, orig := [], block := []
                 headed := false, written := 0, closing := false, lastBlk := 0 }
      else c
    let flush := jobFlag j 2 || jobFlag j 3
    let blockOut := fun (c : KzComp) => if c.block.isEmpty then c.lastBlk else c.block.length
    if input.isEmpty && !flush && !c.closing then
      (c, ⟨0, tag, true, 0, 0, blockOut c, c.orig.length + c.block.length, []⟩)
    else
    let carried := c.block.length
    let x : CJob := ⟨{ c with block := c.block ++ input }, [], false⟩
    let x := if c.headed then x else { x.put (kzHeader c.kind c.level c.origSize) with c := { x.c with headed := true, written := x.c.written + 16 } }
    let x := writeBlocks limit flush (x.c.block.length / 4 + 2) x
    let x := if flush then x else openBlock limit x
    let closing := jobFlag j 3 || c.closing
    let done := closing && !x.full && x.c.block.isEmpty
    let bad := done && c.origSize ≠ 2 ^ 64 - 1 && x.c.orig.length ≠ c.origSize
    let fits := bad || x.out.length + 16 ≤ limit
    let y := if done && fits && !bad then x.put (kzTrailer x.c.orig) else x
    let full := y.full || (done && !fits)
    -- uncoded bytes of this job's input go back to the host; bytes carried from earlier jobs stay
    let coded := carried + input.length - y.c.block.length
    let kept := if y.full then y.c.block.take (carried - coded) else y.c.block
    let used := if y.full then coded - carried else input.length
    let ended := done && fits
    let c := { y.c with block := kept, closing := closing && !ended }
    (c, ⟨if bad then 5 else if full then 2 else 0, if ended then 0 else tag, !ended, 0, used, blockOut c,
      c.orig.length + kept.length, y.out⟩)

/-! ### The decompressor (R330, R339–R342) -/

/-- The block being decoded. -/
structure Blk where
  coded  : Bool
  order  : Nat
  k0     : Nat
  stride : Nat
  lane0  : Nat
  len    : Nat
  /-- bit position of the payload's end -/
  pend   : Nat
  check  : Nat
  start  : Nat
  i      : Nat
  lanes  : Lanes
deriving DecidableEq, Repr

/-- Decoder: parse position, position after the last token, header, open block and output. -/
structure Dec where
  p    : Nat
  c    : Nat
  size : Option Nat
  blk  : Option Blk
  /-- original bytes of the latest block that has ended -/
  made : Nat
  out  : Bytes
deriving DecidableEq, Repr

def Dec.init : Dec := ⟨0, 0, none, none, 0, []⟩

/-- One step of the decoder: it goes on, or it stops with a RESULT of R344. -/
inductive DecRes where
  | go (d : Dec)
  | stop (d : Dec) (result : Nat)
deriving DecidableEq, Repr

/-- Copy bytes one at a time from `dist` back. -/
def copyBack (dist : Nat) : Nat → Bytes → Bytes
  | 0, o => o
  | n + 1, o => copyBack dist n (o ++ [o.getD (o.length - dist) 0])

/-- The limits of a job: output already there when it began, OUT_LIMIT and EXP_LIMIT; tokens below `from_` bits were
produced by earlier jobs. -/
structure DecLim where
  from_   : Nat
  outLim  : Nat
  expLim  : Nat
  outBase : Nat
deriving DecidableEq, Repr

/-- Emit a token that ends at bit `e` and produces `b`, after the tests of R340. -/
def emitTok (lim : DecLim) (d : Dec) (e : Nat) (b : Bytes) (blk : Blk) : DecRes :=
  if lim.from_ < e ∧ lim.outLim < d.out.length - lim.outBase + b.length then .stop d 2
  else if lim.from_ < e ∧ lim.expLim * ceilDiv e 8 < d.out.length + b.length then .stop d 3
  else .go { d with p := e, c := e, out := d.out ++ b, blk := some blk }

/-- A SAMPLE or MATCH token at the parse position (R323–R329). -/
def decToken (inp : Bytes) (lim : DecLim) (d : Dec) (k : Blk) : DecRes :=
  let w := k.len / 4
  let j := (k.lane0 + k.i) % k.stride
  let l := laneGet k.k0 k.lanes j
  let spent := fun e => k.pend < e
  match bitAt inp d.p with
  | none => .stop d 1
  | some false =>
    (match runOf inp true 24 (d.p + 1) with
      | none => .stop d 1
      | some q =>
        let ku := l.rice
        let pos := if q = 24 then d.p + 25 else d.p + 2 + q
        let nb := if q = 24 then 24 else ku
        match readBits inp nb pos 0 with
        | none => .stop d 1
        | some v =>
          let u := if q = 24 then v else q * 2 ^ ku + v
          let x := red24 (l.predict k.order + unzigzag u)
          match bitAt inp (pos + nb) with
          | none => .stop d 1
          | some fl =>
            match (if fl then readBits inp 8 (pos + nb + 1) 0 else some l.f) with
            | none => .stop d 1
            | some f =>
              let e := pos + nb + 1 + (if fl then 8 else 0)
              if spent e then .stop d 6 else
                let word := unsigned 24 x * 256 + f
                let l' := { l.push word with a := (l.a + u + 1) / 2 }
                emitTok lim d e (le 4 word) { k with i := k.i + 1, lanes := laneSet k.k0 k.lanes j l' })
  | some true =>
    match runOf inp false 14 (d.p + 1) with
    | none => .stop d 1
    | some n =>
      if 13 < n then .stop d 6 else
        match readBits inp (n + 1) (d.p + 1 + n) 0, readBits inp 16 (d.p + 2 + 2 * n) 0 with
        | some v, some dd =>
          let len := v + 1
          let dist := dd + 1
          let e := d.p + 18 + 2 * n
          if w - k.i < len ∨ d.out.length < dist ∨ spent e then .stop d 6 else
            let o := (copyBack dist (4 * len) d.out).drop d.out.length
            emitTok lim d e o { k with i := k.i + len, lanes := pushWords k.k0 k.stride k.lane0 len k.i o k.lanes }
        | _, _ => .stop d 1

/-- A block has produced all its bytes: padding is checked and BCHECK tested (R341). -/
def decBlockEnd (d : Dec) (k : Blk) : DecRes :=
  if crc32c (d.out.drop k.start) = k.check then .go { d with blk := none, made := k.len } else .stop d 4

/-- The bits between two positions are all 0. -/
def padZero (inp : Bytes) (a b : Nat) : Option Bool := (readBits inp (b - a) a 0).map (· == 0)

/-- The header of the stream, of a block, or the trailer. -/
def decHeader (inp : Bytes) (_lim : DecLim) (d : Dec) : DecRes :=
  let o := d.p / 8
  match d.size with
  | none =>
    if inp.length < 16 then .stop d 1
    else if slice inp 0 4 ≠ [0x4B, 0x5A, 0x53, 1] ∨ 3 < fld inp 4 1 ∨ 9 < fld inp 5 1 ∨ fld inp 6 2 ≠ 0 then .stop d 6
    else .go { d with p := 128, size := some (fld inp 8 8) }
  | some size =>
    match inp[o]? with
    | none => .stop d 1
    | some t =>
      if t = 0x0E then
        if inp.length < o + 16 then .stop d 1
        else if fld inp (o + 1) 3 ≠ 0 then .stop d 6
        else
          let tot := fld inp (o + 8) 8
          let bad := tot ≠ d.out.length || (size ≠ 2 ^ 64 - 1 && tot ≠ size) || fld inp (o + 4) 4 ≠ crc32c d.out
          let d := { d with p := d.p + 128, c := d.p + 128 }
          .stop d (if bad then 5 else 0)
      else if inp.length < o + 20 then (if t = 1 || t = 2 then .stop d 1 else .stop d 6)
      else
        let f := fun a n => fld inp (o + a) n
        let len := f 8 4
        let stored := t = 1 && f 1 7 == 0 && f 12 4 == len
        let coded := t = 2 && f 1 1 < 128 && f 1 1 / 4 ≤ 23 && inR 1 1024 (f 2 2) && f 4 2 < f 2 2 && f 6 2 == 0 && f 12 4 ≤ 65536
        if !(stored || coded) || !inR 1 65536 len then .stop d 6
        else
          let k : Blk := ⟨t = 2, f 1 1 % 4, f 1 1 / 4, f 2 2, f 4 2, len, d.p + 160 + 8 * f 12 4, f 16 4, d.out.length, 0, []⟩
          .go { d with p := d.p + 160, blk := some k }

def decStep (inp : Bytes) (lim : DecLim) (d : Dec) : DecRes :=
  match d.blk with
  | none => decHeader inp lim d
  | some k =>
    let made := d.out.length - k.start
    if !k.coded then
      if made = k.len then decBlockEnd d k
      else match inp[d.p / 8]? with
        | none => .stop d 1
        | some b => emitTok lim d (d.p + 8) [b] k
    else
      let w := k.len / 4
      let t := k.len % 4
      if k.i < w then decToken inp lim d k
      else
        -- padding and tail
        let tailAt := k.pend - 8 * t
        if made = k.len then
          if t ≠ 0 then decBlockEnd d k
          else if k.pend < d.p ∨ 8 ≤ k.pend - d.p then .stop d 6
          else match padZero inp d.p k.pend with
            | none => .stop d 1
            | some ok => if ok then decBlockEnd { d with p := k.pend } k else .stop d 6
        else if tailAt < d.p ∨ 8 ≤ tailAt - d.p then .stop d 6
        else if inp.length * 8 < k.pend then .stop d 1
        else match padZero inp d.p tailAt with
          | none => .stop d 1
          | some ok => if ok then emitTok lim d k.pend (slice inp (tailAt / 8) t) k else .stop d 6

def decRun (inp : Bytes) (lim : DecLim) : Nat → Dec → Dec × Nat
  | 0, d => (d, 6)
  | n + 1, d => match decStep inp lim d with
    | .go d => decRun inp lim n d
    | .stop d r => (d, r)

/-- Run a decompression job: the stream so far is decoded again from its start, with the limits laid on new tokens only. -/
def runDecompress (k : KzDec) (tag : Nat) (j input : Bytes) : KzDec × KzEnd :=
  let begin_ := jobFlag j 0
  let open_ := k.stat.isOpen && k.stat.holder = tag
  if !begin_ && !open_ then
    (k, ⟨7, k.stat.holder, k.stat.isOpen, k.stat.inBit, 0, k.stat.blockOut, k.stat.streamOut, []⟩)
  else
    let old := if begin_ then [] else k.fed
    let base := if begin_ then 0 else k.out.length
    let from_ := if begin_ then 0 else 8 * k.fed.length + k.bitPos
    let inp := old ++ input
    let r := decRun inp ⟨from_, jobOutLimit j, fld j 6 2, base⟩ (8 * inp.length + 64 + 2 * inp.length) Dec.init
    let d := r.1
    let res := r.2
    let done := res = 0
    let dead := res = 4 ∨ res = 5 ∨ res = 6
    let pos := if done ∨ dead then Nat.max d.c from_ else Nat.max d.c from_
    let blockOut := match d.blk with
      | some b => d.out.length - b.start
      | none => d.made
    if d.out.length < base then
      -- not yet back at the position where the stream stopped
      (k, ⟨1, tag, true, k.stat.inBit, 0, k.stat.blockOut, k.stat.streamOut, []⟩)
    else
    ({ k with fed := inp.take (pos / 8), bitPos := pos % 8, out := d.out },
      ⟨res, if done ∨ dead then 0 else tag, !(done || decide dead), pos % 8, pos / 8 - old.length, blockOut, d.out.length,
        d.out.drop base⟩)

/-- Original bytes of a whole valid stream (R349), none where the stream is not valid. -/
def kzExpand (b : Bytes) : Option Bytes :=
  let r := decRun b ⟨0, 2 ^ 40, 64, 0⟩ (10 * b.length + 64) Dec.init
  if r.2 = 0 ∧ r.1.c = 8 * b.length then some r.1.out else none

/-- A whole stream of bytes in one job (R348): none where it stops with OUT_LIMIT. -/
def kzChunk (kind level stride : Nat) (b : Bytes) (limit : Nat) : Option Bytes :=
  let j := [0, 0x0D] ++ le 1 level ++ le 1 kind ++ le 2 stride ++ le 2 64 ++ le 4 limit ++ zeros 4 ++ le 8 b.length ++ zeros 8
  let r := runCompress KzComp.init 1 j b
  if r.2.result = 0 then some r.2.out else none

/-! ### The engines' commands -/

/-- Put a job's end into the status register and report it (R344, R345, R347). -/
def endStat (old : KzStat) (e : KzEnd) : KzStat :=
  { result := e.result, holder := e.holder, busy := false, isOpen := e.isOpen, inBit := e.inBit, inUsed := e.inUsed
    outWritten := e.out.length, blockOut := e.blockOut
    errors := if 4 ≤ e.result then sat 65535 (old.errors + 1) else old.errors, streamOut := e.streamOut }

def kzReport (s : State) (tag : Nat) (e : KzEnd) : State :=
  if e.result = 4 ∨ e.result = 5 then emit s 0x4020 tag (e.result + 256 * e.streamOut)
  else if e.result = 6 then emit s 0x4021 tag (e.inUsed + 2 ^ 32 * e.inBit)
  else if e.result = 7 then emit s 0x4022 tag e.streamOut
  else s

/-- The job status of a RESULT (R344); 8 stands for a job that was refused (R338, R342). -/
def kzStatus (result : Nat) : Nat :=
  if result ≤ 1 then stOk else if result ≤ 3 then stLimit else if result ≤ 6 then stBadParam else if result = 7 then stTruncated else stBusy

/-- The holder of a job learns its status. -/
def kzTell (s : State) (decompressor : Bool) (tag status : Nat) : State :=
  if decompressor then { s with kzD := { s.kzD with told := some (tag, status) } }
  else { s with kzC := { s.kzC with told := some (tag, status) } }

/-- A fresh context for an engine that is reset: posted jobs go on competing. -/
def KzComp.clear (k : KzComp) (stat : KzStat) : KzComp := { KzComp.init with stat := stat, told := k.told, waiting := k.waiting, arb := k.arb }
def KzDec.clear (k : KzDec) (stat : KzStat) : KzDec := { KzDec.init with stat := stat, told := k.told, waiting := k.waiting, arb := k.arb }

/-- Position of a holder in an engine's order (R42): the compressor takes TS0–TS3 at 0–3, DMA00–DMA15, the control core and
the management core, the decompressor the two cores first. -/
def kzPos (decompressor : Bool) (tag : Nat) : Nat :=
  if decompressor then (if tag = 1 then 0 else if tag = 2 then 1 else tag % 16 + 2)
  else if tag = 1 then 20 else if tag = 2 then 21 else if tag < 0x30 then tag % 16 else tag % 16 + 4

/-- The next posted job that the engine takes. -/
def kzNext (decompressor : Bool) (arb : Arb) (l : List KzReq) : Option KzReq :=
  (arb.winner 22 (l.map fun r => kzPos decompressor r.tag)).bind fun p => l.find? fun r => kzPos decompressor r.tag == p

/-- The arbitration after a grant: the jobs left behind have lost one. -/
def kzGranted (decompressor : Bool) (arb : Arb) (r : KzReq) (rest : List KzReq) : Arb :=
  arb.grant (kzPos decompressor r.tag) ((rest.map fun x => kzPos decompressor x.tag).eraseDups.erase (kzPos decompressor r.tag))

/-- A job that the engine does not accept when it is granted: a BEGIN while another holder's stream is open (R338, R342). -/
def kzRefused (k : KzStat) (r : KzReq) : Bool := jobFlag r.job 0 && k.isOpen && k.holder ≠ r.tag

/-- The end of a job goes to the DMA channel that holds it while that is at work (R415). -/
def kzToDma (s : State) (tag : Nat) (e : KzEnd) : State :=
  let c := s.dmaCh (tag - 0x30)
  if inR 0x30 0x3F tag && (c.st = .running || c.st = .pausing || c.st = .draining) then
    s.updDma (tag - 0x30) fun c => { c with kz := some e }
  else s

/-- What a channel learns of a job that was refused with BUSY. -/
def KzEnd.refused : KzEnd := ⟨8, 0, false, 0, 0, 0, 0, []⟩

/-- The status while a job runs: a BEGIN opens its holder's stream. -/
def KzStat.running (k : KzStat) (r : KzReq) : KzStat :=
  if jobFlag r.job 0 then { k with busy := true, isOpen := true, holder := r.tag } else { k with busy := true }

/-- The engine takes a job: its outcome is computed at once and appears with KZ_JOB_DONE. -/
def kzStart (s : State) (decompressor : Bool) (r : KzReq) : State :=
  if decompressor then
    let k := s.kzD
    let e := runDecompress k r.tag r.job r.input
    acquire { s with kzD := { e.1 with job := some e.2, runner := r.tag, stat := k.stat.running r, kept := false } } (.kilzar true)
  else
    let k := s.kzC
    let e := runCompress k r.tag r.job r.input
    acquire { s with kzC := { e.1 with job := some e.2, runner := r.tag, stat := k.stat.running r } } (.kilzar false)

/-- A posted job leaves the list, and a compressor's leaves Q8 (R516). -/
def kzPop (s : State) (decompressor : Bool) (r : KzReq) : State :=
  if decompressor then
    let rest := s.kzD.waiting.erase r
    { s with kzD := { s.kzD with waiting := rest, arb := kzGranted true s.kzD.arb r rest } }
  else
    let rest := s.kzC.waiting.erase r
    qErase { s with kzC := { s.kzC with waiting := rest, arb := kzGranted false s.kzC.arb r rest } } 8 (BitVec.ofNat 32 r.tag)

/-- The free engine goes through the posted jobs in the order of R42 and R43 until it takes one. The blocks of one host job
follow each other (R338, notes/assumptions/16.md). -/
def kzGrant (decompressor : Bool) : Nat → State → State
  | 0, s => s
  | fuel + 1, s =>
    let k := if decompressor then (s.kzD.stat, s.kzD.arb, s.kzD.waiting) else (s.kzC.stat, s.kzC.arb, s.kzC.waiting)
    if k.1.busy then s else
      match kzNext decompressor k.2.1 k.2.2 with
      | none => s
      | some r =>
        let s := kzPop s decompressor r
        if kzRefused k.1 r then kzGrant decompressor fuel (kzToDma (kzTell s decompressor r.tag stBusy) r.tag KzEnd.refused)
        else kzStart s decompressor r

/-- How many jobs stand posted. -/
def State.kzPosted (s : State) (decompressor : Bool) : Nat := if decompressor then s.kzD.waiting.length else s.kzC.waiting.length

/-- A holder posts a job, for the compressor with one word, its tag, in Q8 (R516), and the engine takes what it can. -/
def kzPost (s : State) (decompressor : Bool) (r : KzReq) : State :=
  let s := if decompressor then { s with kzD := { s.kzD with waiting := s.kzD.waiting ++ [r] } }
    else (qPut { s with kzC := { s.kzC with waiting := s.kzC.waiting ++ [r] } } 8 [BitVec.ofNat 32 r.tag]).1
  kzGrant decompressor (s.kzPosted decompressor) s

/-- A holder withdraws its jobs: its count starts again (R43). -/
def kzWithdraw (s : State) (tag : Nat) : State :=
  let s := (s.kzC.waiting.filter (·.tag = tag)).foldl (fun s _ => qErase s 8 (BitVec.ofNat 32 tag)) s
  { s with
    kzC := { s.kzC with waiting := s.kzC.waiting.filter (·.tag ≠ tag), arb := s.kzC.arb.forget (kzPos false tag) }
    kzD := { s.kzD with waiting := s.kzD.waiting.filter (·.tag ≠ tag), arb := s.kzD.arb.forget (kzPos true tag) } }

/-- Compressor jobs whose words were dropped or flushed from Q8 end TRUNCATED (DESIGN CHOICE, notes/assumptions/16.md). -/
def kzDropped (s : State) (words : List (BitVec 32)) : State :=
  words.foldl (fun s w =>
    match s.kzC.waiting.find? (·.tag = w.toNat) with
    | none => s
    | some r =>
      let s := { s with kzC := { s.kzC with waiting := s.kzC.waiting.erase r } }
      kzToDma (kzTell s false r.tag stTruncated) r.tag ⟨7, 0, false, 0, 0, 0, 0, []⟩) s

/-- KZ_COMPRESS and KZ_DECOMPRESS: a job that passes R343 is posted, one that does not is refused with BAD_PARAM, and one of a
holder that is barred ends at once (R48). -/
def kzSubmit (s : State) (decompressor : Bool) (tag : Nat) (job input : Bytes) : State :=
  if !(jobOk job && jobOp job == b2n decompressor) then kzTell s decompressor tag stBadParam
  else if s.isBarred (.kilzar decompressor) tag then kzTell s decompressor tag stTruncated
  else kzPost s decompressor ⟨tag, job, input⟩

def execKzCompress (tag : Nat) (job input : Bytes) (s : State) : Host.Outcome State Fault Refusal :=
  .next (kzSubmit s false tag job input)

def execKzDecompress (tag : Nat) (job input : Bytes) (s : State) : Host.Outcome State Fault Refusal :=
  .next (kzSubmit s true tag job input)

/-- The job that an engine runs ends: its report and its channel's outcome (R344, R345). -/
def kzJobEnd (s : State) (decompressor : Bool) : State :=
  if decompressor then
    match s.kzD.job with
    | none => s
    | some e =>
      let tag := s.kzD.runner
      let s := kzReport { s with kzD := { s.kzD with stat := endStat s.kzD.stat e, job := none, kept := e.isOpen, told := some (tag, kzStatus e.result) } } tag e
      kzToDma s tag e
  else
    match s.kzC.job with
    | none => s
    | some e =>
      let tag := s.kzC.runner
      let s := kzReport { s with kzC := { s.kzC with stat := endStat s.kzC.stat e, job := none, told := some (tag, kzStatus e.result) } } tag e
      kzToDma s tag e

/-- KZ_JOB_DONE: the job ends, and the engine takes the next posted one. -/
def kzJobDone (s : State) (decompressor : Bool) : State :=
  kzGrant decompressor (s.kzPosted decompressor) (kzJobEnd s decompressor)

def execKzJobDone (decompressor : Bool) (s : State) : Host.Outcome State Fault Refusal := .next (kzJobDone s decompressor)

/-- The open stream of an engine is dropped with its context. -/
def kzClose (s : State) (decompressor : Bool) : State :=
  if decompressor then { s with kzD := s.kzD.clear { s.kzD.stat with isOpen := false, holder := 0 } }
  else { s with kzC := s.kzC.clear { s.kzC.stat with isOpen := false, holder := 0 } }

/-- KZ_CONTEXT_TIMEOUT (R342): the kept context is dropped. -/
def execKzContextTimeout (s : State) : Host.Outcome State Fault Refusal :=
  .next (if s.kzD.kept then kzClose s true else s)

/-- Holder of an engine's lease: of the job that runs, else of the open stream (R47). -/
def State.kzHolder (s : State) (decompressor : Bool) : Nat :=
  if decompressor then (if s.kzD.stat.busy then s.kzD.runner else if s.kzD.stat.isOpen then s.kzD.stat.holder else 0)
  else if s.kzC.stat.busy then s.kzC.runner else if s.kzC.stat.isOpen then s.kzC.stat.holder else 0

/-- An engine whose lease is revoked: reset, TRUNCATED, no trailer, and the holder's request completes (R47, R346). -/
def kzTruncate (s : State) (decompressor : Bool) : State :=
  let old := if decompressor then s.kzD.stat else s.kzC.stat
  let holder := s.kzHolder decompressor
  let e : KzEnd := ⟨7, 0, false, 0, old.inUsed, old.blockOut, old.streamOut, []⟩
  let st := { endStat old e with outWritten := old.outWritten }
  let s := if decompressor then { s with kzD := s.kzD.clear st } else { s with kzC := s.kzC.clear st }
  let s := kzToDma (emit (kzTell s decompressor holder stTruncated) 0x4022 holder old.streamOut) holder e
  kzGrant decompressor (s.kzPosted decompressor) s

end Sys2Proof.Machine
end

