-- ==== Sys2Proof/Machine/Outputs.lean ====
section
/-!
DEFINITION. The digital outputs: the source of each (R44, R513), the latch stage of the active engine with its HOLD (R434,
R441, R446), and the SAFE levels (R515).
-/
namespace Sys2Proof.Machine

/-- The cluster's channels of the newest row: one carries WFT. -/
def State.clusterFault (s : State) (cl : Nat) : Bool :=
  match s.flt.recent with
  | [] => false
  | r :: _ => (clChans cl).any fun ch => (s32Flags (Tbl.get 0 r.s32 ch)).testBit 3

/-- The level of a source (R513). -/
def State.outSource (s : State) (src idx : Nat) : Bool :=
  match src with
  | 1 => true
  | 2 => s.flt.thrState.testBit idx
  | 3 => (s.seq (idx / 4)).out.testBit (idx % 4)
  | 4 => (s.tev idx).out
  | 5 => s.ic.diLevel.testBit idx
  | 6 => s.lin.stable.testBit idx
  | 7 => s.clusterFault idx
  | _ => false

/-- Live sources in WATCH, in DOZE and during bind-off: LOW, HIGH and time-event outputs. -/
def liveAlways (src : Nat) : Bool := src = 0 || src = 1 || src = 4

/-- Every output is high-impedance (R515). -/
def State.outsOff (s : State) : Bool := s.ic.fatal || s.pm.st = .cocoon

def State.outsSafe (s : State) : Bool := s.pm.st ≠ .active || s.pm.binding.isSome || s.pm.emergency

/-- The level of the WAKE_OUT ball: high while the device is ACTIVE or DOZE (R596); in reset it is not. -/
def State.wakeOut (s : State) : Bool := !s.pm.inReset && (s.pm.st = .active || s.pm.st = .doze)

/-- The level and impedance that DOn takes now. -/
def State.outNow (s : State) (n : Nat) : Bool × Bool :=
  let f := fun o w => s.pat.f sOutMap 0 (4 * n + o) w
  let src := f 0 1
  let fl := f 3 1
  if s.outsOff then (false, true)
  else if s.outsSafe && !liveAlways src then
    match fl / 2 % 4 with
    | 0 => (false, false)
    | 1 => (true, false)
    | 2 => (s.fe.doLevel.testBit n, s.fe.doHighZ.testBit n)
    | _ => (false, true)
  else (s.outSource src (f 1 2) != fl.testBit 0, false)

/-- Outputs with a PULSE of their time event running (R438). -/
def State.pulseMask (s : State) : Nat :=
  (List.range 16).foldl (fun m n =>
    bitSet m n (s.pat.f sOutMap 0 (4 * n) 1 = 4 && (s.tev (s.pat.f sOutMap 0 (4 * n + 1) 2)).pulse)) 0

/-- The latches take the current states, unless they are frozen; a power state's levels go before HOLD (R522). -/
def refreshOutputs (s : State) : State :=
  if s.fe.hold && !s.outsOff && !s.outsSafe then s
  else { s with fe := { s.fe with
    doLevel := (List.range 16).foldl (fun m n => bitSet m n (s.outNow n).1) 0
    doHighZ := (List.range 16).foldl (fun m n => bitSet m n (s.outNow n).2) 0
    doPulse := s.pulseMask } }

/-- Vector 31 (FATAL): the device needs a reset, and every output is high-impedance until it (R404, R515, R576). -/
def raiseFatal (s : State) : State := refreshOutputs (vecRaw { s with ic := { s.ic with fatal := true } } 31)

end Sys2Proof.Machine
end

