-- ==== Sys2Proof/Machine/Store.lean ====
section
/-!
DEFINITION. What the sequencers and the log writer share of the capture store (R290–R298, R302, R306): row time records (R269),
class buffers, the ends of skeins and hold-off, eviction and rewind marks, sizes and room in the log. notes/assumptions/17.md.
-/
namespace Sys2Proof.Machine

/-! ### Row times (R143, R261, R269) -/

/-- t_N in the selected base for a row whose boundaries lie on the present grid; `row` is in production after `last`. -/
def State.gridTime (s : State) (n : Nat) : Fns :=
  let d : Int := (n : Int) + 1 - s.flt.rows.row
  ((s.flt.rows.last : Int) + d * rowT s.flt.chain.k - s.groupDelay).toNat

/-- The time record of a row: as its production noted it. -/
def State.rowNote (s : State) (n : Nat) : RowEv :=
  match s.flt.recent.find? (·.row == n) with
  | some r => r.ev
  | none =>
    { RowEv.none with
      base := s.time.selected, tflags := s.timeFlags, timeSel := s.gridTime n
      timeOther := s.inOther (s.gridTime n), epoch := s.flt.rows.epoch }

/-! ### Class buffers (R298) -/

def Pat.prog (p : Pat) (n : Nat) : Bytes := p.str sTsProg n
def Pat.skc (p : Pat) (n cls : Nat) : Bytes := p.str sSkc (4 * n + cls)

/-- Transition entry e of state s of a program. -/
def trEntry (b : Bytes) (st e : Nat) : Bytes := slice b (48 + 32 * st + 8 * e) 8

/-- The classes that a sequencer's program OPENs. -/
def progOpens (b : Bytes) (cls : Nat) : Bool :=
  (List.range 64).any fun t =>
    let a := fld b (48 + 8 * t + 4) 4
    a % 4 = 1 && a / 4 % 4 = cls

/-- The class buffers in use: 4·sequencer + class. -/
def Pat.bufs (p : Pat) : List Nat := (List.range 16).filter fun k => progOpens (p.prog (k / 4)) (k % 4)

/-- Oldest row held in a class buffer: the last PRE + 256 rows since it came into use, in the current epoch. -/
def State.oldestHeld (s : State) (k pre : Nat) : Option Nat :=
  match Tbl.get none s.cap.since k with
  | none => none
  | some a => some (Nat.max a (s.flt.rows.row - (pre + 256)))

/-! ### Skeins -/

def Skein.l32 (k : Skein) : Bool := (fld k.cfg 0 1).testBit 0
def Skein.compressed (k : Skein) : Bool := (fld k.cfg 0 1).testBit 1
def Skein.stop (k : Skein) : Bool := fld k.cfg 2 1 = 1

def State.updSkein (s : State) (id : Nat) (f : Skein → Skein) : State :=
  { s with cap := { s.cap with skeins := s.cap.skeins.map fun k => if k.id = id then f k else k } }

def State.skein? (s : State) (id : Nat) : Option Skein := s.cap.skeins.find? (·.id == id)

/-- Open skeins of a sequencer, oldest first (R290). -/
def State.openOf (s : State) (n : Nat) : List Skein := s.cap.skeins.filter fun k => k.isOpen && k.seq = n

/-- The earliest of the ends by POST, by an end before it, and by MAX_ROWS, with its END code (R296). -/
def endOf (k : Skein) (close : Option (Nat × Nat)) : Nat × Nat :=
  let post := fld k.cfg 8 4
  let cands := (if post = 0 then [] else [(k.trig + post - 1, 1)]) ++ close.toList
  cands.foldr (fun a b => if b.1 < a.1 then b else a) (k.first + fld k.cfg 12 4 - 1, 4)

/-- The last row: the end, raised to the 64-row minimum. -/
def lastOf (k : Skein) (close : Option (Nat × Nat)) : Nat × Nat :=
  ((endOf k close).1.max (k.first + 63), (endOf k close).2)

/-- TB2 at B_N of a row held in the recent rows. -/
def State.rowTb2 (s : State) (n : Nat) : Fns :=
  match s.flt.recent.find? (·.row == n) with
  | some r => r.ev.tb2
  | none => s.time.b2.val

/-- A skein stops counting as open in row X: hold-off starts, or starts again (R293). -/
def holdFrom (s : State) (n x : Nat) : State :=
  let b := s.pat.prog n
  let mode := fld b 2 1
  if mode = 0 then s
  else s.updSeq n fun q => { q with hold := some ⟨x, s.rowTb2 x, if mode = 3 then fld b 4 4 else 0⟩ }

/-- A skein enters its tail at row C with an end cause: its last row becomes known (R296). -/
def tailSkein (s : State) (k : Skein) (c endc : Nat) : State :=
  let l := lastOf k (some (c + fld k.cfg 6 2, endc))
  let s := s.updSkein k.id fun x => { x with isOpen := false, last := some l.1, endCause := l.2 }
  holdFrom s k.seq c

/-- The end of the stream or of the supply at a given last row, without the 64-row minimum and, where no further rows come,
without the delay of R300; only STREAM_END starts no hold-off (R293, R296). -/
def cutSkein (s : State) (k : Skein) (lastRow endc : Nat) (now : Bool) : State :=
  let s := s.updSkein k.id fun x =>
    { x with isOpen := false, last := some lastRow, endCause := endc, flush := now || x.flush }
  if k.isOpen && endc ≠ 5 then holdFrom s k.seq lastRow else s

/-! ### Marks and eviction (R302, R306) -/

def State.capMark (s : State) (m : Nat) : CapMark := Tbl.get CapMark.init s.cap.marks m

def protectedId (s : State) (id : Nat) : Bool :=
  (List.range 8).any fun m => (s.capMark m).valid && (s.capMark m).protect && (s.capMark m).id = id

/-- Evict a skein whole: unprotected marks on it are lost, each reported with the sequencer, the skein and the mark (R314). -/
def evict (s : State) (id : Nat) : State :=
  let n := ((s.skein? id).map (·.seq)).getD 0
  let s := { s with cap := { s.cap with skeins := s.cap.skeins.filter fun k => k.id ≠ id } }
  (List.range 8).foldl (fun s m =>
    let k := s.capMark m
    if k.valid && k.id = id then
      emit { s with cap := { s.cap with
        marks := Tbl.set CapMark.init s.cap.marks m { k with valid := false, lost := true }
        marksLost := sat 65535 (s.cap.marksLost + 1) } } 0x4005 n (id + 2 ^ 32 * m)
    else s) s

/-- The oldest resident skein, where it may be evicted. -/
def State.evictable (s : State) : Option Nat :=
  match s.cap.skeins with
  | [] => none
  | k :: _ => if k.closed && !protectedId s k.id then some k.id else none

/-- The writer is held: CAPTURE_BLOCKED once per episode, with the sequencer and the skein that hold it (R314). -/
def blockWriter (s : State) : State :=
  if s.cap.blocked then s
  else
    let k := s.cap.skeins.head?
    emit { s with cap := { s.cap with blocked := true } } 0x4007 ((k.map (·.seq)).getD 0) ((k.map (·.id)).getD 0)

/-! ### Sizes (R297, R298) -/

def pad8 (n : Nat) : Nat := 8 * ceilDiv n 8

/-- ROW_BYTES of a class in a pattern, less the disabled weighing points. -/
def Pat.classBytes (p : Pat) (k : Nat) : Nat :=
  let c := p.skc (k / 4) (k % 4)
  rowBytes (fld c 16 32) (p.wpMask (fld c 48 8)) ((fld c 0 1).testBit 0)

/-- Bytes of the class buffers in use: PRE + 256 rows each. -/
def Pat.bufBytes (p : Pat) : Nat := (p.bufs.map fun k => (fld (p.skc (k / 4) (k % 4)) 4 2 + 256) * p.classBytes k).sum

/-- LOG_SIZE of a pattern: what the class buffers and the replay window leave free. -/
def Pat.logSize (p : Pat) : Nat := Config.mdBytes - p.bufBytes - p.regionMiB * 2 ^ 20

def Skein.rowBytes (k : Skein) : Nat := Machine.rowBytes (fld k.cfg 16 32) k.wpMask k.l32
def Skein.members (k : Skein) : Nat := k.chans.length + k.wps.length
def Skein.trailerBytes (k : Skein) : Nat := 328 + 40 * k.members
def Chunk.bytes (c : Chunk) : Nat := 16 + pad8 c.payload.length
def Skein.chunkBytes (k : Skein) : Nat := (k.chunks.map Chunk.bytes).sum

/-- What a header takes of the log; the trailer's place is kept with it. -/
def Skein.frameBytes (k : Skein) : Nat := 128 + k.trailerBytes

/-- IMAGE_BYTES, as far as they stand in the log: the header waits where there is no room (R306). -/
def Skein.imageBytes (k : Skein) : Nat := (if k.headed then k.frameBytes else 0) + k.chunkBytes

/-- FILL of CAP_STAT. -/
def State.logFill (s : State) : Nat := (s.cap.skeins.map Skein.imageBytes).sum

/-! ### Room in the log (R302, R306) -/

/-- What making room in the log came to. -/
inductive Room where
  | ok | blocked | own
deriving DecidableEq, Repr

/-- Make room for `n` more bytes of a skein: evict the oldest skeins, unless the oldest is the skein itself, protected or
open. -/
def makeRoom (id n : Nat) : Nat → State → State × Room
  | 0, s => (s, .blocked)
  | f + 1, s =>
    if s.logFill + n ≤ s.pat.logSize then
      let held := 65536 ≤ s.cap.skeins.length && s.evictable.isNone
      (if held then s else { s with cap := { s.cap with blocked := false } }, .ok)
    else match s.cap.skeins.head?, s.evictable with
      | some k, ev =>
        if k.id = id then (s, .own)
        else (match ev with
          | some e => makeRoom id n f (evict s e)
          | none => (blockWriter s, .blocked))
      | none, _ => (s, .own)

end Sys2Proof.Machine
end

