-- ==== Sys2Proof/Machine/Sequencer.lean ====
section
/-!
DEFINITION. The trigger sequencers (R279–R294): opening, re-triggering and hold-off, arming, the step of a row with its
conditions and actions. notes/assumptions/17.md.
-/
namespace Sys2Proof.Machine

/-! ### Opening (R291, R292, R303) -/

def triggerMissed (s : State) (n : Nat) : State :=
  emit (s.updSeq n fun q => { q with missed := sat 65535 (q.missed + 1) }) 0x4006 n 0

/-- A 65,537th skein does not open while the oldest may not be evicted (R302). -/
def State.refusesOpen (s : State) : Bool := 65536 ≤ s.cap.skeins.length && s.evictable.isNone

/-- Room for the header of a skein, and the trailer's place. -/
def headSkein (s : State) (k : Skein) : State :=
  if k.headed then s
  else match makeRoom k.id k.frameBytes 65537 s with
    | (s, .ok) => s.updSkein k.id fun x => { x with headed := true }
    | (s, _) => s

/-- Carry out an OPEN with trigger row T, in which the pattern epoch was `ep`, in the step of a row. -/
def openSkein (s : State) (n cls t ep : Nat) : State :=
  if s.refusesOpen then blockWriter (triggerMissed s n)
  else
    let s := if 65536 ≤ s.cap.skeins.length then (match s.evictable with | some id => evict s id | none => s) else s
    let cfg := s.pat.skc n cls
    let pre := fld cfg 4 2
    let first := Nat.max (t - pre) ((s.oldestHeld (4 * n + cls) pre).getD t)
    let id := s.cap.nextId
    let note := s.rowNote first
    let k : Skein :=
      { id := id, seq := n, cls := cls, cfg := cfg, trig := t, first := first, pre := t - first
        patEpoch := ep, base := note.base, tflags := note.tflags
        timeSel := note.timeSel, timeOther := note.timeOther
        wpMask := s.pat.wpMask (fld cfg 48 8), isOpen := true, last := none, endCause := 0, moved := first
        reduced := first, captured := 0, missing := 0, chunks := [], marks := [], marksLost := 0, trflags := 0
        wftOnset := 0, reds := [], closed := false, flush := false, lossEp := false, gone := false, headed := false }
    let l := lastOf k none
    let k := { k with last := some l.1, endCause := l.2 }
    let s := { s with cap := { s.cap with
      skeins := s.cap.skeins ++ [k], newestId := id, nextId := if id = 2 ^ 32 - 1 then 1 else id + 1 } }
    -- the first open skein of a sequencer takes its lease anew
    let s := if 1 < (s.cap.skeins.filter fun x => x.isOpen && x.seq = n).length then s else acquire s (.skein n)
    headSkein (s.updSeq n fun q => { q with lastTrig := t, lastSkein := id }) k

def maxOpen (b : Bytes) : Nat := fld b 1 1
def retrig (b : Bytes) : Nat := fld b 0 1 / 2 % 4

/-- An OPEN suppressed by hold-off counts (R293). -/
def suppressOne (s : State) (n : Nat) : State :=
  s.updSeq n fun q =>
    { q with
      heldOff := sat 65535 (q.heldOff + 1)
      hold := if fld (s.pat.prog n) 2 1 = 3 then (match q.hold with
          | some h => if h.left ≤ 1 then none else some { h with left := h.left - 1 }
          | none => none) else q.hold }

/-- The OPEN action of a transition in step N (R291). -/
def doOpen (s : State) (n cls t : Nat) : State :=
  let b := s.pat.prog n
  let q := s.seq n
  let stack := retrig b = 1
  let ep := (s.rowNote t).epoch
  if q.hold.isSome then
    if stack then
      if q.pendingOpen.isSome then triggerMissed s n
      else (suppressOne s n).updSeq n fun q => { q with pendingOpen := some (t, cls, ep) }
    else suppressOne s n
  else if maxOpen b ≤ (s.openOf n).length then
    match retrig b with
    | 1 => if q.pendingOpen.isSome then triggerMissed s n else s.updSeq n fun q => { q with pendingOpen := some (t, cls, ep) }
    | 2 =>
      (match s.openOf n with
        | k :: _ => openSkein (if s.refusesOpen then s else tailSkein s k t 6) n cls t ep
        | [] => openSkein s n cls t ep)
    | _ => triggerMissed s n
  else openSkein s n cls t ep

/-- A pending STACK OPEN, once a slot is open and hold-off has ended (R292). -/
def runPending (s : State) (n : Nat) : State :=
  let q := s.seq n
  match q.pendingOpen with
  | none => s
  | some (t, cls, ep) =>
    if q.hold.isNone ∧ (s.openOf n).length < maxOpen (s.pat.prog n) then
      openSkein (s.updSeq n fun q => { q with pendingOpen := none }) n cls t ep
    else s

/-! ### Arming (R287–R289) -/

/-- Arm: state, counters, timers, outputs; hold-off and a pending OPEN are dropped. Conditions go on seeing the outputs that
the last step left until the first step has been taken (R281). -/
def armSeq (s : State) (n : Nat) : State :=
  let b := s.pat.prog n
  (unbar s (0x10 + n)).updSeq n fun q =>
    { q with st := 0, run := .running, out := fld b 3 1, missed := 0, heldOff := 0
             cnt := [0, 0, 0, 0], tmr := [Tmr.init, Tmr.init, Tmr.init, Tmr.init], armAt := none, first := true
             pendingOpen := none, hold := none, late := 0, blockedEp := false }

/-- The row from which a request of now counts: the one after the row in production, row 0 of the next epoch without one. -/
def State.nextRow (s : State) : Nat := if s.rowOpen then s.flt.rows.row + 1 else 0

/-- A request to arm: it changes nothing on a running sequencer, and a time event's leaves a HALTED one to TS_ARM (R48, R311). -/
def requestArm (s : State) (mask : Nat) (byEvent : Bool) : State :=
  (bitsOf 4 mask).foldl (fun s n =>
    if (s.seq n).run = .running || (byEvent && (s.seq n).run = .halted) then s
    else s.updSeq n fun q => { q with armAt := some s.nextRow }) s

/-- The sequencers armed for the row now in production start (R287). -/
def armDue (s : State) : State :=
  (List.range 4).foldl (fun s n =>
    match (s.seq n).armAt with
    | some a => if a ≤ s.flt.rows.row then armSeq s n else s
    | none => s) s

def autoArm (p : Pat) (n : Nat) : Bool := (fld (p.prog n) 0 1).testBit 0

/-- TS_DISARM acting at row N (R288). -/
def disarmSeq (s : State) (n row : Nat) : State :=
  let s := (s.openOf n).foldl (fun s k => tailSkein s k row 7) s
  s.updSeq n fun q =>
    { q with run := .idle, out := 0, seen := 0, outPrev := q.out, pendingOpen := none, disarmAt := none, armAt := none, late := 0 }

/-! ### The step of a row (R281–R286) -/

/-- Elapsed value of a timer in step M (R286). -/
def tmrElapsed (unitTime : Bool) (t : Tmr) (m : Nat) (tb2 : Fns) : Nat :=
  if !t.running then t.value
  else sat (2 ^ 32 - 1) (if unitTime then (tb2 - t.startTb2) / (10 * nsF) else ((m : Int) - t.startRow).toNat)

def Seq.elapsed (q : Seq) (b : Bytes) (k m : Nat) (tb2 : Fns) : Nat :=
  tmrElapsed ((fld b 8 1).testBit k) (q.tmr.getD k Tmr.init) m tb2

/-- A condition in the step of the row `r`; `s` holds the outputs as they stood after the previous step (R281). -/
def condTrue (s : State) (n : Nat) (r : RowRec) (cond arg : Nat) : Bool :=
  let q := s.seq n
  let b := s.pat.prog n
  let o := s.seq (arg / 4)
  match cond with
  | 0x01 => true
  | 0x02 => q.first
  | 0x10 => r.ev.rise.testBit arg
  | 0x11 => r.ev.fall.testBit arg
  | 0x12 => r.ev.init.testBit arg && r.cmp0.testBit arg
  | 0x13 => r.ev.init.testBit arg && !r.cmp0.testBit arg
  | 0x20 => r.ev.diRise.testBit arg
  | 0x21 => r.ev.diFall.testBit arg
  | 0x22 => r.ev.diLevel.testBit arg
  | 0x23 => !r.ev.diLevel.testBit arg
  | 0x30 => r.ev.te.testBit arg
  | 0x40 => o.seen.testBit (arg % 4)
  | 0x41 => !o.seen.testBit (arg % 4)
  | 0x42 => o.seen.testBit (arg % 4) && !o.outPrev.testBit (arg % 4)
  | 0x50 => fld b (16 + 4 * arg) 4 ≤ q.cnt.getD arg 0
  | 0x51 => (q.tmr.getD arg Tmr.init).running && fld b (32 + 4 * arg) 4 ≤ q.elapsed b arg r.row r.ev.tb2
  | 0x60 => r.ev.stable.testBit arg
  | _ => false

/-- The transition taken: the first true one that is not TMR_EXP, else the first true TMR_EXP (R284, R285). -/
def pick (s : State) (n : Nat) (r : RowRec) : Option Bytes :=
  let es := (List.range 4).map (trEntry (s.pat.prog n) (s.seq n).st)
  let ts := es.filter fun e => condTrue s n r (fld e 0 1) (fld e 2 2)
  match ts.find? (fun e => fld e 0 1 ≠ 0x51) with
  | some e => some e
  | none => ts.head?

/-- Close skeins of a sequencer: the oldest open one of a class, or all (R282). -/
def doClose (s : State) (n cls row : Nat) (all : Bool) : State :=
  let ks := s.openOf n
  let ks := if all then ks else (ks.filter (·.cls == cls)).take 1
  ks.foldl (fun s k => tailSkein s k row 0) s

/-- A mark entry, or MARKS_LOST, on every open skein (R305, R310). -/
def doMark (s : State) (n : Nat) (m : MarkEnt) : State :=
  { s with cap := { s.cap with skeins := s.cap.skeins.map fun k =>
    if k.isOpen && k.seq = n then
      (if k.marks.length < 16 then { k with marks := k.marks ++ [m] } else { k with marksLost := sat 255 (k.marksLost + 1) })
    else k } }

/-- A TS_EVENT record (R310). -/
def State.tsRecord (s : State) (n : Nat) (m : MarkEnt) : List (BitVec 32) :=
  let newest := ((s.openOf n).getLast?.map (·.id)).getD 0
  wordsOf 6 (le 2 0x4010 ++ le 1 n ++ le 1 m.user ++ le 6 m.row ++ le 1 m.state ++ zeros 1 ++ le 4 newest ++
    le 4 m.cnt ++ le 4 m.tmr)

/-- The EVENT action: its record is carried in the next EVENT frame (R284). -/
def tsEvent (s : State) (n : Nat) (m : MarkEnt) : State := qPush s 3 (s.tsRecord n m)

/-- The IRQ action: its source fires, and the event queue of the core that takes the source holds the same content (R310,
R495). -/
def tsIrq (s : State) (n : Nat) (m : MarkEnt) : State :=
  let s := fireSrc s (32 + n)
  if s.ic.routedC.testBit (32 + n) then qPush s 1 (s.tsRecord n m)
  else if s.ic.routedM.testBit (32 + n) then qPush s 2 (s.tsRecord n m) else s

/-- The actions of a transition, in the order of R283. -/
def act (s : State) (n : Nat) (r : RowRec) (a : Nat) : State :=
  let b := s.pat.prog n
  let sk := a % 4
  let cls := a / 4 % 4
  let ci := a / 128 % 4
  let ti := a / 2048 % 4
  let oi := a / 32768 % 4
  let s := if sk = 2 then doClose s n cls r.row false else if sk = 3 then doClose s n cls r.row true else s
  let s := if sk = 1 then doOpen s n cls r.row else s
  let s := if a.testBit 6 then s.updSeq n fun q => { q with cnt := q.cnt.set ci 0 } else s
  let s := if a.testBit 5 then s.updSeq n fun q => { q with cnt := q.cnt.set ci (sat (2 ^ 32 - 1) (q.cnt.getD ci 0 + 1)) } else s
  let q := s.seq n
  let m : MarkEnt := ⟨r.row, q.st, a / 2 ^ 19 % 256, q.cnt.getD ci 0, q.elapsed b ti r.row r.ev.tb2⟩
  let s := if a.testBit 4 then doMark s n m else s
  let s := if a.testBit 17 then tsIrq s n m else s
  let s := if a.testBit 18 then tsEvent s n m else s
  let s := if a.testBit 10 then
      s.updSeq n fun q => { q with tmr := q.tmr.set ti { q.tmr.getD ti Tmr.init with running := false, value := m.tmr } }
    else s
  let s := if a.testBit 9 then s.updSeq n fun q => { q with tmr := q.tmr.set ti ⟨true, 0, r.row, r.ev.tb2⟩ } else s
  if a.testBit 13 then s.updSeq n fun q => { q with out := bitSet q.out oi (a.testBit 14) } else s

/-- Hold-off ends at this step (R293). -/
def endHold (s : State) (n : Nat) (r : RowRec) : State :=
  let b := s.pat.prog n
  match (s.seq n).hold with
  | none => s
  | some h =>
    let ended : Bool := match fld b 2 1 with
      | 1 => h.row + fld b 4 4 ≤ r.row
      | 2 => fld b 4 4 * (10 * nsF) ≤ r.ev.tb2 - h.tb2
      | 3 => h.left = 0
      | _ => true
    if ended then s.updSeq n fun q => { q with hold := none } else s

/-- One sequencer's step of row `r`; `s0` is the state before any sequencer has stepped it. -/
def stepSeq (s0 s : State) (n : Nat) (r : RowRec) : State :=
  let q := s.seq n
  if q.run ≠ .running then s
  else if q.disarmAt.any (· ≤ r.row) then disarmSeq s n r.row
  else
    let s := runPending (endHold s n r) n
    let before := q.out
    let s := match pick s0 n r with
      | none => s
      | some e => (act s n r (fld e 4 4)).updSeq n fun q => { q with st := fld e 1 1 }
    s.updSeq n fun q => { q with seen := q.out, outPrev := before, first := false, late := q.late - 1 }

/-- Skeins whose POST rows or MAX_ROWS end with this row stop counting as open, though the 64-row minimum may give them more
rows (R290). -/
def endDue (s : State) (r : Nat) : State :=
  (s.cap.skeins.filter fun k => k.isOpen && (endOf k none).1 ≤ r).foldl (fun s k =>
    holdFrom (s.updSkein k.id fun x => { x with isOpen := false }) k.seq r) s

/-- The oldest produced row that a running sequencer has not stepped. -/
def State.stepRow (s : State) : Option RowRec :=
  let late := ((List.range 4).map fun n => if (s.seq n).run = .running then (s.seq n).late else 0).foldl Nat.max 0
  if late = 0 then none else s.flt.recent.find? (·.row + late == s.flt.rows.row)

/-- TS_STEP (R284): every running sequencer that has this row to step takes its step. -/
def stepAll (s : State) : State :=
  match s.stepRow with
  | none => s
  | some r =>
    let back := s.flt.rows.row - r.row
    let s1 := (List.range 4).foldl (fun t n =>
      if (s.seq n).run ≠ .running then t.updSeq n fun q => { q with outPrev := q.seen }
      else if (s.seq n).late = back then stepSeq s t n r else t) s
    endDue s1 r.row

def execTsStep (s : State) : Host.Outcome State Fault Refusal := .next (refreshOutputs (stepAll s))

/-- Every step still due, taken before an epoch closes. -/
def stepRest : Nat → State → State
  | 0, s => s
  | n + 1, s => stepRest n (stepAll s)

/-- A row has been produced: each running sequencer owes its step, except in DOZE (R571); armings due act (the new row is in production). With no
sequencer running, skeins still end by their rows. -/
def seqRow (s : State) (r : Nat) : State :=
  let s := (List.range 4).foldl (fun s n =>
    if (s.seq n).run = .running then
      (if s.pm.st = .active then s.updSeq n fun q => { q with late := q.late + 1 } else s)
    else if (s.seq n).disarmAt.any (· ≤ r) then s.updSeq n fun q => { q with disarmAt := none } else s) s
  let s := if s.stepRow.isNone then endDue s r else s
  armDue s

/-! ### TS_ARM and TS_DISARM (R287, R288) -/

def cmdTsArm : CmdHdr → Bytes → State → State :=
  mailbox 0x0500 (form 1 fun p => [(0, fld p 0 1 < 16)]) fun s _ p => answer (requestArm s (fld p 0 1) false) Ans.done

def execTsArm (h : CmdHdr) (p : Bytes) (s : State) : Host.Outcome State Fault Refusal := .next (cmdTsArm h p s)

def cmdTsDisarm : CmdHdr → Bytes → State → State :=
  mailbox 0x0501 (form 1 fun p => [(0, fld p 0 1 < 16)]) fun s _ p =>
    answer ((bitsOf 4 (fld p 0 1)).foldl (fun s n =>
      s.updSeq n fun q => { q with disarmAt := some s.nextRow }) s) Ans.done

def execTsDisarm (h : CmdHdr) (p : Bytes) (s : State) : Host.Outcome State Fault Refusal := .next (cmdTsDisarm h p s)

end Sys2Proof.Machine
end

