-- ==== Sys2Proof/Machine/Capture.lean ====
section
/-!
DEFINITION. The capture store (R298–R314): the size of the log, the reducers, the log writer with its chunks, the image of
a skein (R303–R305), rewind marks, and the readout commands (R371, R492). notes/assumptions/17.md and 18.md.
-/
namespace Sys2Proof.Machine

/-! ### The image (R303–R305, R309, R310) -/

def skeinHeader (k : Skein) : Bytes :=
  let b := [0x53, 0x4B, 0x48, 0x01] ++ le 4 k.id ++ le 1 k.seq ++ le 1 k.cls ++ le 1 (fld k.cfg 0 1) ++ le 1 (fld k.cfg 2 1) ++
    le 2 k.pre ++ le 1 (fld k.cfg 1 1) ++ zeros 1 ++ le 6 k.trig ++ le 6 k.first ++ le 2 k.patEpoch ++ le 1 k.base ++
    le 1 k.tflags ++ timeBytes k.timeSel ++ timeBytes k.timeOther ++ le 2 k.chans.length ++ le 1 k.wps.length ++ zeros 1 ++
    le 4 k.rowBytes ++ slice k.cfg 16 32 ++ le 8 k.wpMask ++ zeros 20
  b ++ le 4 (crc32c b)

def chunkImage (c : Chunk) : Bytes :=
  le 1 c.kind ++ zeros 1 ++ le 2 c.count ++ le 4 c.payload.length ++ le 6 c.first ++ zeros 2 ++ c.payload ++
    zeros (pad8 c.payload.length - c.payload.length)

def markImage (m : MarkEnt) : Bytes := le 6 m.row ++ le 1 m.state ++ le 1 m.user ++ le 4 m.cnt ++ le 4 m.tmr

/-- CENTROID in units of 2^-16 row, none where it is undefined (R308). -/
def centroid (k : Skein) (num : Int) (den : Int) : Option Nat :=
  if den ≤ 0 then none
  else
    let c := (k.first : Int) * 65536 + rne (num * 65536) den.toNat
    if c < (k.first : Int) * 65536 ∨ ((k.last.getD 0 : Nat) : Int) * 65536 < c then none else some c.toNat

/-- The centroid of a member: exact for S32, from the binary64 sums otherwise. -/
def redCentroid (k : Skein) (exact : Bool) (r : Red) : Option Nat :=
  if exact then centroid k r.m1I r.sumI
  else
    let m := Fp.get64 r.m1F.toNat
    let d := Fp.get64 r.sumF.toNat
    let e := minI m.e d.e
    centroid k (m.units e) (d.units e)

def redImage (k : Skein) (j : Nat) : Bytes :=
  let r := Tbl.get Red.init k.reds j
  let exact := j < k.chans.length && !k.l32
  let c := redCentroid k exact r
  let lost := k.missing ≠ 0 || (k.endCause = 3 && (k.last.getD 0) + 1 < k.reduced)
  let fl := r.flags + b2n c.isNone * 8 + b2n (r.n = 0) * 16 + b2n lost * 32
  (if exact then le 8 (unsigned 64 r.sumI) else le 8 r.sumF.toNat) ++ le 4 (unsigned 32 r.minV) ++ le 4 (unsigned 32 r.maxV) ++
    le 8 (c.getD 0) ++ le 6 r.argMax ++ le 1 fl ++ zeros 1 ++ le 4 r.duration ++ le 4 r.n

def skeinTrailer (k : Skein) : Bytes :=
  let b := [0x53, 0x4B, 0x54, 0x01] ++ le 4 k.id ++ le 6 (k.last.getD 0) ++ le 1 k.endCause ++ le 1 k.trflags ++
    le 4 k.captured ++ le 4 k.missing ++ le 1 k.marks.length ++ le 1 k.marksLost ++ zeros 2 ++ le 6 k.wftOnset ++ zeros 2 ++
    le 8 (k.captured * k.rowBytes) ++ le 8 k.chunkBytes ++ zeros 12 ++ (k.marks.map markImage).flatten ++
    zeros (16 * (16 - k.marks.length)) ++ ((List.range k.members).map (redImage k)).flatten
  b ++ le 4 (crc32c b) ++ zeros 4

/-- The image of a closed skein. -/
def skeinImage (k : Skein) : Bytes := skeinHeader k ++ (k.chunks.map chunkImage).flatten ++ skeinTrailer k

/-! ### Rows of a skein (R297) -/

/-- A weighing point's stitch in a row; where it is disabled, VALUE 0.0 with SUB set. -/
def RowRec.wpStitch (r : RowRec) (wp : Nat) : Nat :=
  match r.w64.find? (·.1 == wp) with
  | some e => e.2
  | none => Machine.w64 0 fSub r.row

/-- A row with the given members, laid out as in a skein or in the row stream. -/
def rowImage (r : RowRec) (chs wps : List Nat) (l32 : Bool) : Bytes :=
  (if l32 then
    (chs.map fun c => le 4 (Tbl.get (0, 0) r.l32 c).1).flatten ++ (chs.map fun c => le 1 (Tbl.get (0, 0) r.l32 c).2).flatten ++
      zeros (4 * ceilDiv chs.length 4 - chs.length)
  else (chs.map fun c => le 4 (Tbl.get 0 r.s32 c)).flatten) ++ (wps.map fun w => le 8 (r.wpStitch w)).flatten

def State.rowRec? (s : State) (n : Nat) : Option RowRec := s.flt.recent.find? (·.row == n)

/-- Every stitch of a row with SUB, PAR recomputed (R584). -/
def RowRec.allSub (r : RowRec) : RowRec :=
  { r with
    s32 := Tbl.updAll 0 r.s32 allChans fun _ w => patchSub 0 w
    l32 := Tbl.updAll (0, 0) r.l32 allChans fun _ e => (e.1, patchSub 0 e.2)
    w64 := r.w64.map fun e => (e.1, patchSub 24 e.2) }

/-- A row as the class buffer of a skein gives it. -/
def RowRec.forSkein (r : RowRec) (k : Skein) : RowRec := if r.ev.mdCls.testBit (4 * k.seq + k.cls) then r.allSub else r

def rowOfSkein (s : State) (k : Skein) (n : Nat) : Bytes :=
  match s.rowRec? n with
  | some r => rowImage (r.forSkein k) k.chans k.wps k.l32
  | none => zeros k.rowBytes

/-! ### Reducers (R308) -/

/-- One value into the reduction of an S32 member. -/
def Red.addInt (r : Red) (row off : Nat) (v : Int) : Red :=
  let r1 := { r with n := r.n + 1, sumI := r.sumI + v, m1I := r.m1I + off * v }
  let r2 := if r.n = 0 ∨ v < r.minV then { r1 with minV := v } else r1
  if r.n = 0 ∨ r.maxV < v then { r2 with maxV := v, argMax := row } else r2

/-- One value (binary32) into the reduction of another member. -/
def Red.addFp (r : Red) (row off : Nat) (b : Nat) : Red :=
  let v := Fp.get32 b
  let put := fun (acc : BitVec 64) (x : Fp) => BitVec.ofNat 64 (((Fp.get64 acc.toNat).add x).to64)
  let r1 := { r with n := r.n + 1, sumF := put r.sumF v, m1F := put r.m1F (Fp.get64 (Fp.mul (Fp.ofInt off 0) v).to64) }
  let r2 := if r.n = 0 ∨ Fp.lt v (Fp.get32 r.minV.toNat) then { r1 with minV := b } else r1
  if r.n = 0 ∨ Fp.lt (Fp.get32 r.maxV.toNat) v then { r2 with maxV := b, argMax := row } else r2

/-- One member's part of a row: `v` its value, `hi` its comparator 0. -/
def reduceMember (r : Red) (fl : Nat) (hi : Bool) (add : Red → Red) : Red :=
  let r := if hi then { r with duration := r.duration + 1 } else r
  if fl &&& (fUns + fWft + fSub) ≠ 0 then { r with flags := r.flags ||| 1 }
  else add (if fl.testBit 1 then { r with flags := r.flags ||| 2 } else r)

/-- A row read by the reducers of a skein. -/
def reduceRow (k : Skein) (r : RowRec) : Skein :=
  let r := r.forSkein k
  let off := r.row - k.first
  let nc := k.chans.length
  let t1 := (List.range nc).foldl (fun (t : Tbl Red) j =>
    let c := k.chans.getD j 0
    let w := Tbl.get 0 r.s32 c
    let e := Tbl.get (0, 0) r.l32 c
    Tbl.upd Red.init t j fun x =>
      reduceMember x (if k.l32 then e.2 else s32Flags w) (r.cmp0.testBit (2 * c)) fun x =>
        if k.l32 then x.addFp r.row off e.1 else x.addInt r.row off (s32Val w)) k.reds
  let t2 := (List.range k.wps.length).foldl (fun (t : Tbl Red) j =>
    let p := k.wps.getD j 0
    let w := r.wpStitch p
    Tbl.upd Red.init t (nc + j) fun x =>
      reduceMember x (w64Flags w) (r.cmp0.testBit (512 + 2 * p)) fun x => x.addFp r.row off (w64Val w)) t1
  let chFl := k.chans.foldl (fun a c => a ||| (if k.l32 then (Tbl.get (0, 0) r.l32 c).2 else s32Flags (Tbl.get 0 r.s32 c))) 0
  let all := k.wps.foldl (fun a p => a ||| w64Flags (r.wpStitch p)) chFl
  { k with
    reds := t2
    reduced := r.row + 1
    trflags := k.trflags ||| (b2n (chFl.testBit 4) * 4 + b2n (all.testBit 6) * 8 + b2n (all.testBit 0) * 16) }

/-- The first row that the reducers may not read yet: a row not yet stepped by the skein's sequencer, or past the last. -/
def State.reduceEnd (s : State) (k : Skein) : Nat :=
  let a := if k.isOpen then s.flt.rows.row - (s.seq k.seq).late else s.flt.rows.row
  match k.last with
  | some l => Nat.min a (l + 1)
  | none => a

/-- Reduce up to `n` further rows of a skein. -/
def reduceSkein (s : State) : Nat → Skein → Skein
  | 0, k => k
  | n + 1, k =>
    if s.reduceEnd k ≤ k.reduced then k
    else match s.rowRec? k.reduced with
      | some r => reduceSkein s n (reduceRow k r)
      | none => reduceSkein s n { k with reduced := k.reduced + 1 }

/-- The reducers' share of a row period: the row itself and 16 rows of a catch-up (R308). -/
def reduceAll (s : State) : State :=
  { s with cap := { s.cap with skeins := s.cap.skeins.map fun k => if k.closed then k else reduceSkein s 17 k } }

/-! ### The log writer (R300, R301, R306, R348) -/

/-- A skein ends with OVERFLOW at the last row moved (R301, R306). -/
def overflowSkein (s : State) (k : Skein) : State :=
  let s := s.updSkein k.id fun x =>
    { x with isOpen := false, last := some (k.moved - 1), endCause := 3, flush := true }
  let s := { s with cap := { s.cap with overflows := sat 65535 (s.cap.overflows + 1) } }
  let s := if k.isOpen then holdFrom s k.seq s.flt.rows.row else s
  emit s 0x4003 k.seq k.id

/-- The first row that the writer may not move yet: rows younger than 128 rows unless the epoch has ended, rows not yet
reduced, and rows past the last. -/
def State.writeEnd (s : State) (k : Skein) : Nat :=
  let a := if k.gone then k.reduced else if k.flush then s.flt.rows.row else s.flt.rows.row - 128
  let a := Nat.min a k.reduced
  match k.last with
  | some l => Nat.min a (l + 1)
  | none => a

/-- The first row that a skein does not lose (R301): the oldest that its class buffer still holds. While the reducers still
catch up after the OPEN, the rows ahead of them leave neither the buffer nor the skein (notes/assumptions/17.md). -/
def State.bufferFrom (s : State) (k : Skein) : Nat :=
  if k.gone then (k.last.getD 0) + 1
  else if k.flush || k.reduced + 17 ≤ s.reduceEnd k then 0
  else s.flt.rows.row - (fld k.cfg 4 2 + 256)

/-- Append to the last chunk of the same kind while it has room, or start a new one. -/
def appendRow (k : Skein) (row : Nat) (b : Bytes) : List Chunk :=
  match k.chunks.getLast? with
  | some c =>
    if c.kind = 1 ∧ !k.compressed ∧ c.first + c.count = row ∧ c.count < 65535 ∧ (c.count + 1) * k.rowBytes ≤ 65536 then
      k.chunks.dropLast ++ [{ c with count := c.count + 1, payload := c.payload ++ b }]
    else k.chunks ++ [⟨1, 1, row, b⟩]
  | none => [⟨1, 1, row, b⟩]

/-- GAP chunks for `n` missing rows from a row on, continuing a GAP chunk that ends there. -/
def appendGap (k : Skein) (row n : Nat) : List Chunk :=
  match k.chunks.getLast? with
  | some c =>
    if c.kind = 3 ∧ c.first + c.count = row ∧ c.count < 65535 then
      k.chunks.dropLast ++ [{ c with count := c.count + Nat.min n (65535 - c.count) }]
    else k.chunks ++ [⟨3, Nat.min n 65535, row, []⟩]
  | none => [⟨3, Nat.min n 65535, row, []⟩]

/-- Rows that the last GAP chunk gains. -/
def gapTake (k : Skein) (row n : Nat) : Nat :=
  match k.chunks.getLast? with
  | some c => if c.kind = 3 ∧ c.first + c.count = row ∧ c.count < 65535 then Nat.min n (65535 - c.count) else Nat.min n 65535
  | none => Nat.min n 65535

/-- Store new chunks of a skein that hold `n` more rows (or name them as missing), if the log has room for them. -/
def storeChunks (s : State) (k : Skein) (cs : List Chunk) (n : Nat) (gap : Bool) : State × Room :=
  let grow := (cs.map Chunk.bytes).sum - k.chunkBytes + (if k.headed then 0 else k.frameBytes)
  match makeRoom k.id grow 65537 s with
  | (s, .ok) =>
    let s := s.updSkein k.id fun x =>
      { x with
        headed := true, chunks := cs, moved := k.moved + n
        captured := if gap then x.captured else x.captured + n
        missing := if gap then x.missing + n else x.missing
        trflags := if gap then x.trflags ||| 2 else x.trflags
        lossEp := gap }
    (if gap then { s with cap := { s.cap with gapRows := sat (2 ^ 32 - 1) (s.cap.gapRows + n) } } else s, .ok)
  | (s, r) => (s, r)

/-- Rows that have left the class buffer before the writer moved them (R301): a GAP chunk, or the end of the skein. -/
def loseRows (s : State) (k : Skein) (n : Nat) : State × Room :=
  if k.stop then (overflowSkein s k, .own)
  else
    let s := if k.lossEp then s else emit (s.updSkein k.id fun x => { x with lossEp := true }) 0x4004 k.seq k.id
    let t := gapTake k k.moved n
    match storeChunks s k (appendGap k k.moved n) t true with
    | (s, .own) => (overflowSkein s k, .own)
    | r => r

/-- Rows of a compressed chunk that starts at the next row: as many as R348 allows, cut at the last row; 0 while its last
row is not yet due. -/
def State.kzCount (s : State) (k : Skein) : Nat :=
  let cap := if k.rowBytes = 0 then 128 else Nat.min 128 (65536 / k.rowBytes)
  let e := s.writeEnd k
  let n := Nat.min cap (e - k.moved)
  if n = cap ∨ k.last.any (fun l => e = l + 1) then n else 0

/-- The chunk for `n` rows of a compressed class: a Kilzar stream, or the rows themselves. -/
def kzRows (s : State) (k : Skein) (n : Nat) : Chunk :=
  let raw := ((List.range n).map fun i => rowOfSkein s k (k.moved + i)).flatten
  match kzChunk 1 (fld k.cfg 1 1) (k.rowBytes / 4) raw 65536 with
  | some z => if z.length < raw.length then ⟨2, n, k.moved, z⟩ else ⟨1, n, k.moved, raw⟩
  | none => ⟨1, n, k.moved, raw⟩

/-- Move the next row, or the next compressed chunk, of a skein. -/
def writeOnce (s : State) (k : Skein) : State × Room :=
  if s.writeEnd k ≤ k.moved then (s, .blocked)
  else if k.moved < s.bufferFrom k then loseRows s k (Nat.min (s.bufferFrom k) (s.writeEnd k) - k.moved)
  else
    let n := if k.compressed then s.kzCount k else 1
    if n = 0 then (s, .blocked)
    else
      let cs := if k.compressed then k.chunks ++ [kzRows s k n] else appendRow k k.moved (rowOfSkein s k k.moved)
      match storeChunks s k cs n false with
      | (s, .own) => (overflowSkein s k, .own)
      | r => r

/-- Move everything of a skein that is due. -/
def writeSkein (id : Nat) : Nat → State → State
  | 0, s => s
  | f + 1, s =>
    match s.skein? id with
    | none => s
    | some k =>
      if k.closed then s
      else match writeOnce s k with
        | (s, .ok) => writeSkein id f s
        | (s, _) => s

/-- The sequencers in number order, and each one's skeins oldest first (R300, R302). -/
def State.writeOrder (s : State) : List Nat :=
  ((List.range 4).map fun n => (s.cap.skeins.filter fun k => !k.closed && k.seq = n).map (·.id)).flatten

/-- The writer keeps up with every class that is not compressed (R300). -/
def writeRaw (s : State) : State :=
  (s.writeOrder.filter fun id => (s.skein? id).any fun k => !k.compressed).foldl (fun s id => writeSkein id 33000 s) s

def writeLog (s : State) : State := s.writeOrder.foldl (fun s id => writeSkein id 33000 s) s

def execCaptureLogWrite (s : State) : Host.Outcome State Fault Refusal := .next (writeLog s)

/-- A skein is cut at a last row, unless it ends by then of itself. -/
def cutOne (lastRow endc : Nat) (now : Bool) (s : State) (k : Skein) : State :=
  match k.last with
  | some l => if l ≤ lastRow then cutSkein s k l k.endCause now else cutSkein s k lastRow endc now
  | none => cutSkein s k lastRow endc now

/-- Every skein is cut at a last row (R296). -/
def cutEach (s : State) (lastRow endc : Nat) (now : Bool) : State :=
  (s.cap.skeins.filter fun k => !k.closed && k.endCause ≠ 3).foldl (cutOne lastRow endc now) s

/-- Every skein is cut, and its rows are reduced and moved at once: the epoch or the supply ends. -/
def cutAll (s : State) (lastRow endc : Nat) : State :=
  let s := cutEach s lastRow endc true
  writeLog { s with cap := { s.cap with skeins := s.cap.skeins.map fun k => if k.closed then k else reduceSkein s 65536 k } }

/-- The trailer of a skein becomes resident: its last row is moved, and the delay of R300 has passed it (R305). -/
def Skein.trailerDue (s : State) (k : Skein) : Bool :=
  !k.closed && (match k.last with
    | some l => (k.endCause = 3 || l + 1 ≤ k.moved) && (k.flush || l + 129 ≤ s.flt.rows.row)
    | none => false)

def closeSkein (s : State) (id : Nat) : State :=
  match s.skein? id with
  | some k =>
    if Skein.trailerDue s k then
      let s := headSkein s k
      if (s.skein? id).any (·.headed) then
        emit (s.updSkein id fun x => { reduceSkein s 65536 x with closed := true }) 0x4001 k.seq id
      else s
    else s
  | none => s

def execSkeinClosed (id : Nat) (s : State) : Host.Outcome State Fault Refusal := .next (closeSkein s id)

/-! ### Rewind marks and readout (R306, R492) -/

def setMark (s : State) (m : Nat) (f : CapMark → CapMark) : State :=
  { s with cap := { s.cap with marks := Tbl.upd CapMark.init s.cap.marks m f } }

def cmdCapMarkSet : CmdHdr → Bytes → State → State :=
  mailbox 0x0502 (form 8 fun p => [(0, fld p 0 1 < 8), (1, fld p 1 1 < 2), rsv p 2 2]) fun s _ p =>
    let name := fld p 4 4
    let k := if name = 0 then s.cap.skeins.getLast? else s.skein? name
    match k with
    | none => answer s (Ans.err stNoResource 0)
    | some k => answer (setMark s (fld p 0 1) fun m => { m with id := k.id, valid := true, protect := fld p 1 1 = 1 }) (Ans.ok (le 4 k.id))

def execCapMarkSet (h : CmdHdr) (p : Bytes) (s : State) : Host.Outcome State Fault Refusal := .next (cmdCapMarkSet h p s)

def cmdCapMarkClear : CmdHdr → Bytes → State → State :=
  mailbox 0x0503 (form 1 fun p => [(0, fld p 0 1 < 8)]) fun s _ p =>
    answer (setMark s (fld p 0 1) fun m => { CapMark.init with lost := m.lost }) Ans.done

def execCapMarkClear (h : CmdHdr) (p : Bytes) (s : State) : Host.Outcome State Fault Refusal := .next (cmdCapMarkClear h p s)

/-- The cursor of a transport: the ring counts as one transport per originating station (R372, R492). -/
def cursorKey : Via → Nat
  | .ring st => st
  | v => 256 + viaTag v

def State.cursor (s : State) (v : Via) : Nat := Tbl.get 0 s.cap.cursors (cursorKey v)
def setCursor (s : State) (v : Via) (id : Nat) : State :=
  { s with cap := { s.cap with cursors := Tbl.set 0 s.cap.cursors (cursorKey v) id } }

/-- The resident skein next after a cursor in log order. Everything still resident is newer than an evicted skein. -/
def nextAfter (l : List Skein) (c : Nat) : Option Skein :=
  match l.dropWhile (·.id != c) with
  | _ :: r => r.head?
  | [] => l.head?

/-- The skein before one in log order, 0 for none. -/
def idBefore (l : List Skein) (id : Nat) : Nat := (((l.takeWhile (·.id != id)).getLast?).map (·.id)).getD 0

def cmdCapRewind : CmdHdr → Bytes → State → State :=
  mailbox 0x0504 (form 1 fun p => [(0, fld p 0 1 < 8)]) fun s h p =>
    let m := s.capMark (fld p 0 1)
    if m.valid then answer (setCursor s h.via (idBefore s.cap.skeins m.id)) (Ans.ok (le 4 m.id))
    else answer s (Ans.err stMarkLost (fld p 0 1))

def execCapRewind (h : CmdHdr) (p : Bytes) (s : State) : Host.Outcome State Fault Refusal := .next (cmdCapRewind h p s)

def cmdSkeinNext : CmdHdr → Bytes → State → State :=
  mailbox 0x0505 formEmpty fun s h _ =>
    match nextAfter s.cap.skeins (s.cursor h.via) with
    | some k =>
      if k.closed then answer (setCursor s h.via k.id) (Ans.ok (le 4 k.id ++ le 4 k.imageBytes))
      else answer s (Ans.ok (zeros 8))
    | none => answer s (Ans.ok (zeros 8))

def execSkeinNext (h : CmdHdr) (p : Bytes) (s : State) : Host.Outcome State Fault Refusal := .next (cmdSkeinNext h p s)

/-- The SKEIN frames of a piece of an image, each as large as FRAME_MAX allows (R364, R371). -/
def sendSkein (dst id size : Nat) : Nat → Nat → Bytes → State → State
  | 0, _, _, s => s
  | f + 1, off, b, s =>
    if b.isEmpty then s
    else
      sendSkein dst id size f (off + size) (b.drop size)
        (sendBe s (s.steer dst) 2 dst 0 (le 4 id ++ zeros 4 ++ le 8 off ++ b.take size))

def cmdSkeinRead : CmdHdr → Bytes → State → State :=
  mailbox 0x0506 (form 24 fun p => [rsv p 4 4, (16, fld p 20 1 ≠ 0 || inR 1 2032 (fld p 16 4)), (20, fld p 20 1 < 2), rsv p 21 3])
    fun s h p =>
      let route := fld p 20 1
      match s.skein? (fld p 0 4) with
      | none => answer s (Ans.err stNoResource 0)
      | some k =>
        if !k.closed then answer s (Ans.err stBusy 0)
        else
          let b := slice (skeinImage k) (fld p 8 8) (fld p 16 4)
          match h.via, route with
          | .ring st, 1 =>
            let s := sendSkein st k.id (s.pat.f sRing 0 4 2 - 66) (b.length + 1) (fld p 8 8) b s
            answer s (Ans.ok (le 8 b.length))
          | _, 1 => answer s (Ans.err stBadParam 20)
          | _, _ => answer s (Ans.ok b)

def execSkeinRead (h : CmdHdr) (p : Bytes) (s : State) : Host.Outcome State Fault Refusal := .next (cmdSkeinRead h p s)

end Sys2Proof.Machine
end

