-- ==== Sys2Proof/Machine/Clock.lean ====
section
/-!
DEFINITION. The advance of the four bases (R232, R234, R236): ticks of CLK_SYS, and how many of them bring a base to an
instant. notes/assumptions/1.md and 26.md.
-/
namespace Sys2Proof.Machine

/-- What `k` ticks add to a slew that has not ended: the increment times RATE ppb, with what earlier ticks have left over, in
10^-9 units (R236). -/
def Base.slewParts (b : Base) (k : Nat) : Nat := b.slewFrac + k * b.incr * b.slewRate

/-- What a slew moves in `k` ticks. -/
def Base.slewMove (b : Base) (k : Nat) : Int :=
  let m := Nat.min b.slewRem.natAbs (b.slewParts k / 1000000000)
  if b.slewRem < 0 then -(m : Int) else m

/-- `k` ticks of a base; a slew ends when nothing remains. -/
def Base.run (b : Base) (k : Nat) : Base :=
  let rem := b.slewRem - b.slewMove k
  { b with
    val := (((b.val + k * b.incr : Nat) : Int) + b.slewMove k).toNat
    slewRem := rem, slewFrac := if rem = 0 then 0 else b.slewParts k % 1000000000 }

/-- Ticks until a base reads `t` or later: the number that a slew which ends, or else one which does not, calls for, and of
its neighbours the first that serves. -/
def Base.ticksTo (b : Base) (t : Fns) : Nat :=
  if t ≤ b.val then 0
  else
    let incr := Nat.max 1 b.incr
    let ended := ceilDiv ((t : Int) - b.val - b.slewRem).toNat incr
    let k :=
      if b.slewRem.natAbs ≤ b.slewParts ended / 1000000000 then ended
      else
        let rate := if b.slewRem < 0 then 1000000000 - b.slewRate else 1000000000 + b.slewRate
        ceilDiv ((t - b.val) * 1000000000) (incr * rate)
    (((List.range 5).map (k - 2 + ·)).find? fun j => t ≤ (b.run j).val).getD (k + 3)

/-- Ticks until a slew has ended. -/
def Base.ticksToEnd (b : Base) : Nat :=
  if b.slewRem = 0 then 0 else ceilDiv (b.slewRem.natAbs * 1000000000 - b.slewFrac) (Nat.max 1 (b.incr * b.slewRate))

/-- The time unit is out of reset: from cast-on on, until a reset or COCOON takes LD down (R232, R572). -/
def State.timeRuns (s : State) : Bool := s.pm.castOn && !s.pm.inReset && s.pm.st ≠ .cocoon

/-- `k` ticks of all four bases, in the same cycles (R234). -/
def runTicks (s : State) (k : Nat) : State :=
  let t := s.time
  if s.timeRuns then
    { s with time := { t with b0 := t.b0.run k, b1 := t.b1.run k, b2 := t.b2.run k, b3 := t.b3.run k } }
  else s

end Sys2Proof.Machine
end

