-- ==== Sys2Proof/Machine/Egress.lean ====
section
/-!
DEFINITION. The egress of the two ring ports (R363, R366, R386): which waiting frame a free wire takes, how long it takes it,
the shapers of MGMT and of G_RES, and the Ethernet frame that leaves. notes/assumptions/22.md.
-/
namespace Sys2Proof.Machine

/-! ### The frame on the wire (R363) -/

def crc32Bit : Nat → Nat → Nat
  | 0, c => c
  | n + 1, c => crc32Bit n (if c % 2 = 1 then (c / 2) ^^^ 0xEDB88320 else c / 2)

/-- The Ethernet CRC-32. -/
def crc32 (b : Bytes) : Nat := b.foldl (fun c x => crc32Bit 8 (c ^^^ x.toNat)) 0xFFFFFFFF ^^^ 0xFFFFFFFF

/-- The frame without its FCS: addresses, EtherType, header and payload, padded to 60 bytes. -/
def Sent.body (x : Sent) : Bytes :=
  let b := [0x03, 0x5A, 0x52, 0, 0, 0] ++ [0x02, 0x5A, 0x52, 0, 0] ++ le 1 x.sender ++ be 2 x.etherType ++ zBytes x.frame
  b ++ zeros (60 - b.length)

/-- The whole frame; the forwarded copy of a frame whose FCS failed ends with an invalid one. -/
def Sent.bytes (x : Sent) : Bytes :=
  let c := crc32 x.body
  x.body ++ le 4 (if x.fcsOk then c else 0xFFFFFFFF - c)

/-- Bytes of a frame from destination address to FCS (R377). -/
def frameSize (f : ZFrame) : Nat := Nat.max 64 (50 + f.payload.length)

/-! ### Order and shaping -/

/-- Place of a waiting frame in the service order of an egress: BEAT and MGMT; guaranteed frames in transit, then the
station's DATA, then what G_RES carries in the order of R386; best-effort frames in transit, then its own. -/
def State.rank (s : State) (f : ZFrame) : Nat :=
  if f.kind = 6 || f.kind = 7 then 0
  else if !(f.src = s.srcNo && f.hops = 0) then (if kindGuaranteed f.kind then 1 else 8)
  else if f.flags.getLsbD 0 then 7
  else match f.kind with
    | 1 => if fld f.payload 44 1 < s.pat.framesPerCycle then 2 else 3
    | 4 => 4
    | 3 => 5
    | 5 => 6
    | _ => 9

/-- Bytes of a frame that G_RES carries: all of an added, a replayed or another guaranteed one, and of a regular DATA frame
its markers beyond the 64-byte reserve (R370). -/
def State.reserved (s : State) (f : ZFrame) : Nat :=
  let r := s.rank f
  if inR 3 7 r then frameSize f else if r = 2 then 16 * (fld f.payload 43 1 - 4) else 0

/-- Time that one byte takes: on the wire of a mode, of MGMT at 200 Mbit/s, of G_RES at 20 Mbit/s. -/
def wireTime (mode n : Nat) : Fns := 8 * n * nsF / (if mode = 2 then 10 else 25)
def mgmtTime (n : Nat) : Fns := 40 * n * nsF
def resTime (n : Nat) : Fns := 400 * n * nsF

/-- The earliest instant at which a waiting frame may start, from `prev` on. A frame for the PCIe endpoint waits for no
wire. -/
def State.readyAt (s : State) (prev : Fns) (e : Egr) : Fns :=
  if e.port = 2 then prev
  else
    let p := s.port e.port
    let t := Nat.max prev p.freeAt
    let r := s.rank e.frame
    if r = 0 then Nat.max t p.mgmtTat
    else if inR 3 7 r then Nat.max t (s.ring.resTat - resTime (16384 - frameSize e.frame))
    else t

/-- The frame that starts next before `now`: the first that may, by its place in the order, the oldest of equals. -/
def State.nextEgress (s : State) (prev now : Fns) : Option (Fns × Egr) :=
  let able := (s.ring.egress.map fun e => (s.readyAt prev e, e)).filter (·.1 < now)
  match able.map (·.1) with
  | [] => none
  | t :: ts =>
    let first := ts.foldl Nat.min t
    (able.filter (·.1 = first)).foldl (fun a e => match a with
      | none => some e
      | some b => if s.rank e.2.frame ≤ s.rank b.2.frame then some e else some b) none

/-- A frame starts on its wire at `t`. -/
def startFrame (s : State) (t : Fns) (e : Egr) : State :=
  let n := frameSize e.frame
  let res := s.reserved e.frame
  let sent : Sent := ⟨e.port, s.srcNo, s.pat.f sRing 0 2 2, e.frame, e.fcsOk⟩
  let s := { s with ring := { s.ring with
    egress := s.ring.egress.erase e, wire := sent :: s.ring.wire
    resTat := if res = 0 then s.ring.resTat else Nat.max s.ring.resTat t + resTime res } }
  if e.port = 2 then s
  else s.updPort e.port fun p => { p with
    freeAt := t + wireTime p.mode (n + 20)
    mgmtTat := if e.frame.kind = 6 || e.frame.kind = 7 then Nat.max p.mgmtTat t + mgmtTime n else p.mgmtTat }

/-- What leaves between `prev` and `now`. -/
def serve (prev now : Fns) : Nat → State → State
  | 0, s => s
  | n + 1, s =>
    match s.nextEgress prev now with
    | none => s
    | some (t, e) => serve prev now n (startFrame s t e)

/-- `k` ticks pass, and the egresses send. -/
def passTime (s : State) (k : Nat) : State :=
  let t := runTicks s k
  serve s.time.b2.val t.time.b2.val t.ring.egress.length t

/-- Every frame that waits leaves before the transmitters go down (R577). -/
def sendAll (s : State) : State := serve s.time.b2.val (s.time.b2.val + 60 * secF) s.ring.egress.length s

/-! ### Breaks and full queues (R380, R381) -/

/-- Link-local frames die with their link; every other frame that waits at a broken port is turned. -/
def rerouteEgress (s : State) (port : Nat) : State :=
  let here := s.ring.egress.filter (·.port = port)
  let s := { s with ring := { s.ring with egress := s.ring.egress.filter (·.port ≠ port) } }
  here.reverse.foldl (fun s e => if e.frame.dst = 0xFE then s else egressAs s port e.frame e.fcsOk) s

/-- A best-effort frame that finds its queue full goes: the newest that waits at the port. -/
def dropNewestBe (s : State) (port : Nat) : State :=
  match s.ring.egress.find? fun e => e.port = port && !kindGuaranteed e.frame.kind with
  | some e => { s with ring := { s.ring with egress := s.ring.egress.erase e } }
  | none => s

end Sys2Proof.Machine
end

