-- ==== Sys2Proof/Machine/RingLink.lean ====
section
/-!
DEFINITION. The state of links and hops that several families act on: HELLO and BEAT contents (R374, R375), LEAVING (R388),
breaking a hop (R381), the root's view of the ring and TOPOLOGY (R376, R382, R387, R388), the start of an enumeration
(R359), and port roles (R258). notes/assumptions/21.md.
-/
namespace Sys2Proof.Machine

/-! ### What a station sends its neighbours -/

def Pat.ringDigest (p : Pat) : Nat := crc32c ((p.str sRing 0).drop 1)

def helloBytes (s : State) (port : Nat) : Bytes :=
  le 8 Config.uid.toNat ++ [2, 3] ++ le 1 (s.pat.f sRing 0 0 1) ++ le 1 s.srcNo ++ le 4 s.pat.ringDigest ++ le 2 s.ring.session ++
    le 1 port ++ zeros 1 ++ le 4 s.ring.gSeq

/-- Hops from this station to another along one physical port, by the last TOPOLOGY; 0xFF where a hop on the way is down. -/
def State.hopsBy (s : State) (port dst : Nat) : Nat :=
  let n := s.ring.order.length
  match indexIn s.ring.order s.ring.station, indexIn s.ring.order dst with
  | some i, some j =>
    let down := port = s.portD
    let k := if down then (j + n - i) % n else (i + n - j) % n
    if hopsUp s.ring.linkUp n (if down then i else j) k && (s.port port).st = .up then k else 0xFF
  | _, _ => 0xFF

/-- The port with fewer hops to a station; the logical downstream one on a tie (R255). -/
def State.freqPort (s : State) (st : Nat) : Nat := if s.hopsBy s.portU st < s.hopsBy s.portD st then s.portU else s.portD

/-- CLK_SYS follows the port with fewer hops to the source, also when a hop has come back: no step, and no report (R255, R256). -/
def freqReturn (s : State) : State :=
  match s.time.freq with
  | .port p =>
    let q := s.freqPort s.time.freqSrc
    if s.hopsBy q s.time.freqSrc < s.hopsBy p s.time.freqSrc then { s with time := { s.time with freq := .port q } } else s
  | _ => s

/-- FREQ_HOPS and FREQ_QUAL (R255, R256, R375). -/
def State.freqState (s : State) : Nat × Nat :=
  match s.time.freq with
  | .ownRef => (if s.ring.numbered && s.time.freqSrc = s.ring.station then 0 else 0xFF, 2)
  | .port p => (s.hopsBy p s.time.freqSrc, 0)
  | .holdover _ => (0xFF, 1)

/-- A BEAT's payload; at version 2 FREQ_QUAL is 0 (R353). DEDUCED (notes/assumptions/21.md): SWITCHING stands from HOLD to the
end of it. -/
def beatBytes (s : State) (port : Nat) (leaving : Nat) : Bytes :=
  let fs := s.freqState
  le 8 Config.uid.toNat ++ le 1 s.srcNo ++ le 1 port ++
    le 1 (b2n (s.port port).wrap + 2 * b2n (leaving ≠ 0) + 4 * s.fe.active + 8 * b2n s.fe.hold) ++ le 1 leaving ++ le 2 s.ring.topoEpoch ++
    le 1 fs.1 ++ le 1 (if s.sendVersion port = 2 then 0 else fs.2) ++ le 6 s.flt.rows.row ++ zeros 2

/-- A BEAT leaves by its own port even where the station wraps there: it is never forwarded. -/
def sendBeat (s : State) (port leaving : Nat) : State :=
  if s.portRole port ≠ 0 then s else
  let f := mkFrame s (s.sendVersion port) 7 0xFE 0 0 s.flt.rows.row (beatBytes s port leaving)
  { s with ring := { s.ring with egress := ⟨port, f, true⟩ :: s.ring.egress } }

/-- A HELLO or an ENUM is link-local: it leaves by its own port. -/
def sendLocal (s : State) (port subtype : Nat) (p : Bytes) : State :=
  if s.portRole port ≠ 0 then s else
  let f := mkFrame s (s.sendVersion port) 6 0xFE s.ring.beSeq subtype s.flt.rows.row p
  { s with ring := { s.ring with beSeq := (s.ring.beSeq + 1) % 2 ^ 32, egress := ⟨port, f, true⟩ :: s.ring.egress } }

/-- A BEAT that the station waits for: it has left when the step ends. -/
def beatNow (s : State) (port leaving : Nat) : State :=
  let t := sendBeat s port leaving
  match t.ring.egress with
  | e :: _ => if s.ring.egress.length < t.ring.egress.length then startFrame t (Nat.max t.time.b2.val (t.port port).freeAt) e else t
  | [] => t

/-- Three BEATs with LEAVING out of every port that is UP, before anything else happens (R388). -/
def sendLeaving (s : State) (reason : Nat) : State :=
  [0, 1].foldl (fun s p =>
    if (s.port p).st = .up then (List.range 3).foldl (fun s _ => beatNow s p reason) s else s) s

/-! ### The ring as the root knows it -/

/-- RING_STATE by the hops that are up (R381, R387, R390). -/
def ringStateOf (linkUp n : Nat) : Nat :=
  match n - popcount n linkUp with
  | 0 => 1
  | 1 => 2
  | _ => 3

/-- Index i of the order is reachable from the root. -/
def reachable (linkUp n i : Nat) : Bool := hopsUp linkUp n 0 i || hopsUp linkUp n i (n - i)

def topologyBytes (s : State) (topo linkUp : Nat) (order : List Nat) : Bytes :=
  le 2 topo ++ le 1 s.ring.count ++ zeros 1 ++ le 8 linkUp ++ (order.map (le 1)).flatten ++ List.replicate (64 - order.length) 0xFF

/-- The hop of a port: bit of LINK_UP. -/
def State.hopBit (s : State) (port : Nat) : Option Nat :=
  (indexIn s.ring.order s.ring.station).map fun i =>
    if port = s.portD then i else (i + s.ring.order.length - 1) % s.ring.order.length

/-- The wraps at ports whose hop is UP, at the port and by the topology applied, are released (R382). -/
def releaseWraps (s : State) : State :=
  [0, 1].foldl (fun s p =>
    match s.hopBit p with
    | some b => if s.ring.linkUp.testBit b && (s.port p).st = .up then s.updPort p fun q => { q with wrap := false } else s
    | none => s) s

/-- REASON of a station that has announced that it leaves, 0 none: by its LEAVING BEATs where it is a neighbour, else as the root
has learned (R388, notes/assumptions/21.md). -/
def State.leavingReason (s : State) (st : Nat) : Nat :=
  let one := fun (p : Port) => if p.nbValid && p.neighbour = st then p.leaving else 0
  Nat.max (Nat.max (one s.ring.za) (one s.ring.zb)) (((s.ring.left.find? (·.1 = st)).map (·.2)).getD 0)

def enumDoneBytes (s : State) (topo : Nat) : Bytes :=
  le 1 s.ring.count ++ le 1 s.ring.version ++ le 2 topo ++ (s.ring.uids.map fun u => le 8 u.toNat).flatten

/-- The root learns of a change of the hops: it reports stations that are lost, have left or have returned, and the state of
the ring, and sends TOPOLOGY, with ENUM_DONE before it for a station that has returned (R362, R382, R387, R388). RING_RESTORED names the
station whose D hop is UP again. -/
def rootLearns (s : State) (linkUp : Nat) : State :=
  let n := s.ring.order.length
  let was := match s.ring.nextTopo with
    | some (_, l, _) => l
    | none => s.ring.linkUp
  if !(s.isRoot && s.ring.enumerated) || was = linkUp then s
  else
    let topo := ((match s.ring.nextTopo with | some (t, _, _) => t | none => s.ring.topoEpoch) + 1) % 65536
    let s := (List.range n).foldl (fun s i =>
      let st := s.ring.order.getD i 0
      if reachable was n i && !reachable linkUp n i then
        (if s.leavingReason st ≠ 0 then emit s 0x5022 st (s.leavingReason st) else emit s 0x5020 st 0)
      else if !reachable was n i && reachable linkUp n i then emit s 0x5021 st 0
      else s) s
    let back := (List.range n).any fun i => !reachable was n i && reachable linkUp n i
    let s := if back then sendMgmt s 0xFF 3 (enumDoneBytes s topo) else s
    let a := ringStateOf was n
    let b := ringStateOf linkUp n
    let s := if a ≠ 3 ∧ b = 3 then emit s 0x5012 0 0 else s
    let healed := (List.range n).filter fun i => linkUp.testBit i && !was.testBit i
    let s := healed.foldl (fun s i => emit s 0x5011 (s.ring.order.getD i 0) b) s
    let s := { s with ring := { s.ring with nextTopo := some (topo, linkUp, s.ring.order), state := b } }
    sendMgmt s 0xFF 4 (topologyBytes s topo linkUp s.ring.order)

/-- A hop of this station's own changes. -/
def rootOwnHop (s : State) (port : Nat) (up : Bool) : State :=
  match s.hopBit port with
  | some b => rootLearns s (bitSet (match s.ring.nextTopo with | some (_, l, _) => l | none => s.ring.linkUp) b up)
  | none => s

/-- SPEED of RING_CFG: mode 2 only. -/
def State.mode2Only (s : State) : Bool := s.pat.f sRing 0 1 1 = 1

/-- The first mode that a port without a link tries (R351). -/
def State.firstMode (s : State) : Nat := if s.mode2Only then 2 else 1

/-- The neighbour of a port as the port's events name it: 0xFE where its number is not known (R393). -/
def State.nbNo (s : State) (port : Nat) : Nat := if (s.port port).nbValid then (s.port port).neighbour else 0xFE

/-- The station wraps at a port; RING_WRAPPED is reported (R381). -/
def wrapAt (s : State) (port : Nat) : State :=
  if (s.port port).wrap then s
  else emit (s.updPort port fun p => { p with wrap := true }) 0x5010 port (s.nbNo port)

/-- A port leaves its state for one without a link. Where it was UP its hop is broken and the station wraps there (R381). A port
without block lock begins with the first mode (R351). -/
def breakHop (s : State) (port : Nat) (st : PortState) : State :=
  let p := s.port port
  let dark := st = .down || st = .off
  let t := s.updPort port fun p =>
    { p with st := st, mode := if dark then 0 else p.mode, helloSeen := false, tryMode := if dark then s.firstMode else p.tryMode }
  if p.st = .up then
    let t := t.updPort port fun p => { p with linkDowns := sat 65535 (p.linkDowns + 1), beatsMissed := 0 }
    let t := emit t 0x5002 port (s.nbNo port)
    let t := rerouteEgress (wrapAt t port) port
    let t := if t.ring.enumerated ∧ !t.isRoot then { t with ring := { t.ring with state := 2 } } else t
    rootOwnHop t port false
  else t

/-- HELD_OUT with its cause: the hop is broken, also where it has never been UP, and the station wraps there; LINK_REFUSED is
reported with the neighbour and, above it, the cause (R354, R381). A port in another role is none of the ring's (R251). -/
def holdOut (s : State) (port cause : Nat) : State :=
  if s.portRole port ≠ 0 then s else
  let s := wrapAt (breakHop s port .heldOut) port
  emit (s.updPort port fun p => { p with holdCause := cause }) 0x5003 port (s.nbNo port + 256 * cause)

/-- Port roles other than RING turn a port OFF for Zimir (R251, R355). -/
def applyRoles (s : State) : State :=
  [0, 1].foldl (fun s p =>
    let off := s.portRole p ≠ 0
    if off then (breakHop s p .off).updPort p fun q => { q with wrap := true }
    else if !off ∧ (s.port p).st = .off then s.updPort p fun q => { q with st := .down } else s) s

/-- The root's first ENUM leaves by ZB as soon as that link is UP, at its version (R359, R573). -/
def sendEnum (s : State) : State :=
  if s.isRoot && s.ring.state = 4 && !s.ring.enumerated && !s.ring.enumOut && (s.port 1).st = .up then
    let s := { s with ring := { s.ring with enumOut := true, enumVer := s.sendVersion 1 } }
    sendLocal s 1 2 (le 1 1 ++ le 1 s.ring.enumVer ++ zeros 2 ++ le 8 Config.uid.toNat)
  else s

/-- The root starts an enumeration out of ZB (R359); every other station waits to be numbered. A root that has been held out stays
so until a commit changes its ROLE (R358). -/
def startEnumeration (s : State) : State :=
  let s := { s with ring := { s.ring with
    enumerated := false, state := 4, nextTopo := none, enumSent := false, enumOut := false
    conflict := s.ring.conflict && s.isRoot, crossed := s.ring.crossed && !s.isRoot
    numbered := s.isRoot || s.ring.numbered, station := if s.isRoot then 0 else s.ring.station } }
  if s.isRoot then sendEnum { s with ring := { s.ring with uids := [Config.uid], count := 1 } } else s

/-- The attempt of a port that has no link begins with the first mode (R351). -/
def restartAttempts (s : State) : State :=
  [0, 1].foldl (fun s p =>
    if (s.port p).st = .down || (s.port p).st = .negotiating then s.updPort p fun q => { q with tryMode := s.firstMode } else s) s

/-- What a restart-class commit changes on the ring (R258, R351, R357, R359). -/
def ringConfigured (s : State) (role ringCfg : Bool) : State :=
  let s := if role then applyRoles s else s
  if ringCfg then startEnumeration (restartAttempts s) else s

end Sys2Proof.Machine
end

