-- ==== Sys2Proof/Machine/FrameAsm.lean ====
section
/-!
DEFINITION. Assembly of a frame cycle (R369, R370, R373, R433, R436), the state record (R438), and the TOPOLOGY that a
frame-cycle boundary applies (R376, R382). notes/assumptions/22.md.
-/
namespace Sys2Proof.Machine

/-! ### DATA frames -/

/-- ROW_TIME of a row (R269). -/
def rowTimeBytes (r : RowRec) : Bytes :=
  le 6 r.row ++ le 1 r.ev.base ++ le 1 r.ev.tflags ++ timeBytes r.ev.timeSel ++ timeBytes r.ev.timeOther

/-- The row as the row stream carries it, under the STREAM_CFG of its own row (R34, R297, R368). -/
def streamRow (r : RowRec) : Bytes :=
  rowImage (if r.ev.mdFrame then r.allSub else r) (bitsOf 256 (fld r.ev.stream 0 32)) (bitsOf 64 r.ev.wpMask) ((fld r.ev.stream 40 1).testBit 0)

def streamRowBytes (r : RowRec) : Nat := rowBytes (fld r.ev.stream 0 32) r.ev.wpMask ((fld r.ev.stream 40 1).testBit 0)

/-- The leading rows that one frame may hold together: the same STREAM_CFG and members. -/
def sameStream (rows : List RowRec) : List RowRec :=
  match rows with
  | [] => []
  | r :: _ => rows.takeWhile fun x => x.ev.stream == r.ev.stream && x.ev.wpMask == r.ev.wpMask

/-- A frame of a cycle before FRAG and FRAGS are known: its rows and its markers. -/
structure Frag where
  rows    : List RowRec
  markers : List Bytes
deriving DecidableEq, Repr

/-- Cut a cycle's rows and markers into frames: `pay` payload bytes each, 48 of them fixed, rows after a reserve of 64 bytes
for markers (R369, R370). -/
def cutFrags (pay : Nat) : Nat → List RowRec → List Bytes → List Frag
  | 0, _, _ => []
  | f + 1, rows, marks =>
    let nm := Nat.min (Nat.min 255 marks.length) ((pay - 48) / 16)
    let run := sameStream rows
    let rb := (run.head?.map streamRowBytes).getD 0
    let nr := if rb = 0 then run.length
      else Nat.min run.length (Nat.min ((pay - 112) / rb) ((pay - 48 - 16 * nm) / rb))
    let here : Frag := ⟨rows.take nr, marks.take nm⟩
    let rest := rows.drop nr
    let mrest := marks.drop nm
    if rest.isEmpty && mrest.isEmpty then [here]
    else if nr = 0 && nm = 0 then [here]
    else here :: cutFrags pay f rest mrest

/-- A DATA payload (R369). -/
def dataPayload (first : RowRec) (g : Frag) (i n : Nat) : Bytes :=
  let r := g.rows.headD first
  rowTimeBytes first ++ le 6 r.row ++ le 2 g.rows.length ++ le 2 (streamRowBytes r) ++ le 1 (fld r.ev.stream 40 1) ++
    le 1 g.markers.length ++ le 1 i ++ le 1 n ++ zeros 2 ++ g.markers.flatten ++ (g.rows.map streamRow).flatten

/-- Markers in order of onset row; equal onsets keep their order. -/
def insertMarker (l : List Bytes) (m : Bytes) : List Bytes :=
  l.takeWhile (fun x => fld x 4 6 ≤ fld m 4 6) ++ m :: l.dropWhile fun x => fld x 4 6 ≤ fld m 4 6

/-- Take every item of a queue, oldest first. -/
def drainQueue (q : Nat) : Nat → State → List Bytes × State
  | 0, s => ([], s)
  | f + 1, s =>
    match qTake s q with
    | none => ([], s)
    | some (i, s) =>
      let r := drainQueue q f s
      (bytesOf i.words :: r.1, r.2)

/-- Originate a DATA frame; its header's epoch is that of its last row (R438, R479). -/
def sendData (s : State) (first : RowRec) (g : Frag) (i n : Nat) : State :=
  let ep := (g.rows.getLast?.getD first).ev.epoch
  let f := zSeal { mkFrame s s.ring.version 1 0 s.ring.gSeq 0 first.row (dataPayload first g i n) with epoch := ep }
  let t := originate s f
  { t with fe := { t.fe with lastData := [f] } }

/-- The rows of the queue from NEXT_ROW up to and without row `e`. -/
def State.queueRows (s : State) (e : Nat) : List RowRec :=
  (s.flt.recent.filter fun r => s.fe.nextRow ≤ r.row && r.row < e).reverse

/-- Assemble one cycle that ends before row `e`. -/
def assembleTo (s : State) (e : Nat) : State :=
  match s.queueRows e with
  | [] => { s with fe := { s.fe with nextRow := Nat.max e s.fe.nextRow } }
  | first :: rest =>
    let d := drainQueue 5 2048 s
    let s := d.2
    let marks := d.1.foldl insertMarker []
    let fs := cutFrags (s.pat.f sRing 0 4 2 - 50) 9000 (first :: rest) marks
    let s := (List.range fs.length).foldl (fun s i => sendData s first (fs.getD i ⟨[], []⟩) i fs.length) s
    { s with fe := { s.fe with nextRow := e, markerRd := (s.fe.markerRd + marks.length) % 2 ^ 32 } }

/-- The rows before `row` are assembled no more. Each of their cycles leaves a gap of its frames in the SEQ series, so that
receivers learn of the range (R33, R449; notes/assumptions/22.md). -/
def loseCycles (s : State) (row : Nat) : State :=
  if row ≤ s.fe.nextRow then s
  else
    let cycles := ceilDiv (row - s.fe.nextRow) (2 ^ s.pat.cycleM)
    let gap := if s.ring.enumerated then cycles * s.pat.framesPerCycle else 0
    { s with fe := { s.fe with nextRow := row }, ring := { s.ring with gSeq := (s.ring.gSeq + gap) % 2 ^ 32 } }

/-- Rows that have left the row queue: it holds the last 4 cycles (R432). -/
def dropOldRows (s : State) : State :=
  let n := 2 ^ s.pat.cycleM
  loseCycles s (s.flt.rows.row / n * n - 4 * n)

/-- Assemble every whole cycle that has ended. -/
def assembleDue : Nat → State → State
  | 0, s => s
  | f + 1, s =>
    let e := s.fe.nextRow + 2 ^ s.pat.cycleM
    if s.originates && e ≤ s.flt.rows.row then assembleDue f (assembleTo s e) else s

/-- The rows of an epoch that closes: whole cycles, then the rest (R33). Where no engine can originate them, their cycles leave
a gap in the SEQ series. -/
def assembleRest (s : State) : State :=
  let s := assembleDue 5 (dropOldRows s)
  if s.originates && s.fe.nextRow < s.flt.rows.row then assembleTo s s.flt.rows.row else loseCycles s s.flt.rows.row

/-! ### EVENT frames (R373) -/

/-- Send the waiting records of Q3, as many to a frame as fit. -/
def sendEvents : Nat → List Bytes → State → State
  | 0, _, s => s
  | f + 1, recs, s =>
    if recs.isEmpty then s
    else
      let n := (s.pat.f sRing 0 4 2 - 54) / 24
      let here := recs.take n
      sendEvents f (recs.drop n) (sendG s 5 0 s.flt.rows.row (le 2 here.length ++ zeros 2 ++ here.flatten))

def flushEvents (s : State) : State :=
  if s.originates then
    let d := drainQueue 3 4096 s
    sendEvents 4096 d.1 d.2
  else s

/-! ### TOPOLOGY at a frame-cycle boundary (R376, R382) -/

/-- A TOPOLOGY received is applied: steering and the frequency port follow it, and a wrap whose hop it shows UP again is released. -/
def applyTopology (s : State) : State :=
  match s.ring.nextTopo with
  | none => s
  | some (topo, linkUp, order) =>
    let s := { s with ring := { s.ring with
      topoEpoch := topo, linkUp := linkUp, order := order, nextTopo := none, state := ringStateOf linkUp order.length } }
    sendWaiting (freqReturn (releaseWraps s))

/-! ### The state record (R438) -/

/-- FRAME_CRC over a cycle's frames, FLAGS and HCHECK taken as 0. -/
def frameCrc (fs : List ZFrame) : BitVec 32 :=
  BitVec.ofNat 32 (crc32c ((fs.map fun f => zHead { f with flags := 0 } ++ zeros 4 ++ f.payload).flatten))

/-- The record's bytes 0–303 (R438). -/
def FeRec.bytes (r : FeRec) : Bytes :=
  le 6 r.nextRow ++ le 2 r.epoch ++ le 4 r.gSeq ++ le 4 r.beSeq ++ le 4 r.oldest ++ le 4 r.replayWr ++ le 4 r.markerRd ++
    le 2 r.doLevel ++ le 2 r.doPulse ++ le 2 r.topo ++ le 1 (b2n r.slew + 2 * b2n r.holdover) ++ zeros 1 ++
    le 6 (r.gridRem % 2 ^ 48).toNat ++ zeros 2 ++ le 4 r.frameCrc.toNat ++
    ((List.range 16).map fun n =>
      let d := Tbl.get (0, 0, 0, 0) r.dma n
      le 4 d.1 ++ le 2 d.2.1 ++ le 1 d.2.2.1 ++ zeros 1 ++ le 8 d.2.2.2).flatten

/-- CHECK. -/
def FeRec.sealed (r : FeRec) : FeRec := { r with check := BitVec.ofNat 32 (crc32c r.bytes) }

/-- The pattern epoch of the last row before NEXT_ROW. -/
def State.epochBefore (s : State) (row : Nat) : Nat :=
  ((s.flt.recent.find? fun r => r.row + 1 = row).map fun r => r.ev.epoch).getD s.flt.rows.epoch

def State.feRecord (s : State) (fs : List ZFrame) : FeRec :=
  FeRec.sealed
  { nextRow := s.fe.nextRow, epoch := s.epochBefore s.fe.nextRow, gSeq := s.ring.gSeq, replayWr := s.ring.replayWr, check := 0
    beSeq := s.ring.beSeq, oldest := (s.ring.replay.head?.map (·.seq)).getD s.ring.gSeq, markerRd := s.fe.markerRd
    doLevel := s.fe.doLevel, doPulse := s.fe.doPulse, topo := s.ring.topoEpoch, slew := s.time.gridRem ≠ 0
    holdover := s.selBase.st = .holdover, gridRem := s.time.gridRem / 65536, frameCrc := frameCrc fs
    dma := (List.range 16).foldl (fun t n =>
      let c := s.dmaCh n
      Tbl.set (0, 0, 0, 0) t n (if c.delivery then (c.wr, c.thrCount, c.st.code, c.bytes) else (0, 0, 0, 0))) [] }

/-- The bytes of stitched rows that carry flags, set to 0: a row in the queue may have been marked after it was sent (R96). `c`
channels and weighing points behind them, `rb` bytes a row. -/
def maskFlags (c rb : Nat) (l32 : Bool) (b : Bytes) : Bytes :=
  let chans := 4 * c + (if l32 then 4 * ceilDiv c 4 else 0)
  (b.zip (List.range b.length)).map fun (x, i) =>
    let o := i % Nat.max 1 rb
    if if o < 4 * c then !l32 && o % 4 = 0 else o < chans || (o - chans) % 8 = 3 then 0 else x

/-- The takeover check (R443): the last frame that the record accounts for, assembled again from the row queue, agrees with its copy
in the replay region but for FLAGS and HCHECK. A frame that is no DATA frame, or whose rows have left the queue, is not assembled
from it. -/
def State.takeoverAgrees (s : State) (gSeq : Nat) : Bool :=
  match s.ring.replay.find? fun f => f.kind = 1 && (f.seq + 1) % 2 ^ 32 = gSeq with
  | none => true
  | some f =>
    let n := fld f.payload 38 2
    let lo := fld f.payload 32 6
    let rows := (s.flt.recent.filter fun r => lo ≤ r.row && r.row < lo + n).reverse
    match s.flt.recent.find? fun r => r.row = f.row, rows.head? with
    | some first, some r =>
      if rows.length < n then true
      else
        let marks := 16 * fld f.payload 43 1
        let again := dataPayload first ⟨rows, []⟩ (fld f.payload 44 1) (fld f.payload 45 1)
        let mask := maskFlags (popcount 256 (fld r.ev.stream 0 32)) (streamRowBytes r) ((fld r.ev.stream 40 1).testBit 0)
        f.epoch = (rows.getLast?.getD r).ev.epoch && f.payload.take 43 == again.take 43 &&
          mask (f.payload.drop (48 + marks)) == mask (again.drop 48)
    | _, _ => true

/-- Guaranteed frames originated since a SEQ, oldest first, as the replay region holds them. -/
def State.framesFrom (s : State) (seq : Nat) : List ZFrame :=
  s.ring.replay.filter fun f => f.seq = seq || seqAbove f.seq seq

end Sys2Proof.Machine
end

