-- ==== Sys2Proof/Machine/Rotation.lean ====
section
/-!
DEFINITION. Spare rotation (R111–R130): steps, calibration of the freed slice, the handover test, pauses, freezes and the
commands and events that move a cluster's rotation on.
-/
namespace Sys2Proof.Machine

/-! ### ROT_CFG (R117, R118) -/

def Pat.rot (p : Pat) (cl off n : Nat) : Nat := p.f sRot cl off n
def State.rotEnabled (s : State) (cl : Nat) : Bool := (s.pat.rot cl 7 1).testBit 0

/-- Frozen by FREEZE, FREEZE_ALL, or AUTO_FREEZE with a skein that holds a channel of the cluster, from its trigger row to
its last row, tail rows and the 64-row minimum included (R127, R296, R311). -/
def State.rotFrozen (s : State) (cl : Nat) : Bool :=
  let m := s.pat.rot cl 7 1
  m.testBit 1 || (s.pat.f sRotGlobal 0 0 1).testBit 0 ||
    (m.testBit 2 && s.cap.skeins.any fun k =>
      !k.closed && !k.gone && k.last.all (s.flt.rows.row ≤ ·) && (k.chans.any (fun ch => ch / 8 = cl) || k.wps.any fun w => s.pat.wpHas w (clChans cl)))

/-- FLT_EXSTAT shows REGULATING or FOUR_WIRE and the die converts (R127), and the rotation controller is not barred from the
handover (R48): one whose lease has run out takes it no more before it is reset, so that rotation stays paused. -/
def State.rotReady (s : State) (cl : Nat) : Bool :=
  let d := (s.cluster cl).drv
  (d.st = .regulating || d.st = .fourWire) && !d.inLimit && !s.dieSub (clDie cl) && s.rowOpen && s.pm.st = .active &&
    !s.isBarred (.handover cl) (0x80 + cl)

/-- A wire fault or a supply fault stands on the channel (R92, R127). -/
def State.chanFaulted (s : State) (ch : Nat) : Bool :=
  (((s.chan ch).openP || (s.chan ch).openN) && s.openDetector ch) || (s.die (chDie ch)).outRange

/-- The next target at or after a position, skipping faulted channels (R111, R92). -/
def State.nextTarget (s : State) (cl from_ : Nat) : Option Nat :=
  let m := s.pat.rot cl 6 1
  ((List.range 8).map fun k => (from_ + k) % 8).find? fun n => m.testBit n && !s.chanFaulted (8 * cl + n)

/-- The handover of a cluster has been declared faulty: nothing but its revocation ends the window now (R47). -/
def State.handoverLost (s : State) (cl : Nat) : Bool := s.leases.faulty.contains (.handover cl, 1)

/-- A window that ends by itself gives its lease back: an expiry not yet acted on lapses (R41). -/
def endLease (s : State) (cl : Nat) : State :=
  { s with leases := { s.leases with faulty := s.leases.faulty.filter fun e => e.1 != .handover cl } }

def setPhase (s : State) (cl : Nat) (p : RotPhase) : State := s.updRot cl fun r => { r with phase := p }

/-! ### The reference ladder (R114) -/

/-- The cluster gives its ladder back, or withdraws its request. -/
def dropLadder (s : State) (cl : Nat) : State :=
  let rg := clRegion cl
  s.updLadder rg fun l =>
    { holder := if l.holder = some cl then none else l.holder
      waiting := l.waiting.erase cl
      arb := l.arb.forget (cl % 4) }

/-- The winner among waiting clusters: promoted ones round-robin after the pointer, else the lowest (R42, R43). -/
def ladderWinner (l : Ladder) : Option Nat :=
  (l.arb.winner 4 (l.waiting.map (· % 4))).bind fun p => l.waiting.find? (· % 4 == p)

/-- Grant the free ladder to one waiting cluster. -/
def grantLadder (l : Ladder) : Ladder :=
  match ladderWinner l with
  | none => l
  | some cl =>
    let rest := l.waiting.erase cl
    { holder := some cl, waiting := rest, arb := l.arb.grant (cl % 4) (rest.map (· % 4)) }

/-! ### Steps -/

/-- C of R112 in rows, without the rows spent waiting. -/
def State.calRows (s : State) (cl : Nat) : Nat :=
  Nat.max (rowsOf s (s.pat.rot cl 4 2 * 1000000)) (s.clL cl + rowsOf s 40000000)

/-- A rotation step begins with the current spare (R112, R119): the values in force now govern it. A freeze does not keep a
step from beginning: it stops the handover (R123, R124, R127; notes/assumptions/41.md). DESIGN CHOICE (notes/assumptions/41.md):
where every target position is skipped for a fault, rotation is PAUSED with TARGET at the position from which it looked, and
starts again under R116. -/
def beginStep (s : State) (cl from_ : Nat) : State :=
  let s := (endLease (dropLadder s cl) cl).updRot cl fun r =>
    { r with target := (s.nextTarget cl from_).getD (from_ % 8), step := RotStep.init, ended := false }
  if !s.rotEnabled cl then setPhase s cl .disabled
  else if !(s.cluster cl).spareValid then setPhase s cl .noSpare
  else if !s.rotReady cl then setPhase s cl .paused
  else match s.nextTarget cl from_ with
    | none => setPhase s cl .paused
    | some t =>
      s.updRot cl fun r =>
        { r with
          phase := .cal
          target := t
          step := { RotStep.init with
            window := s.pat.rot cl 0 2, tol := s.pat.rot cl 2 2, rateGate := s.pat.rot cl 8 1
            deferMax := s.pat.rot cl 9 1, cRows := s.calRows cl, mRows := s.calRows cl - s.clL cl
            meas := .zero, gain := s.pat.gain (8 * cl + t) } }

/-- The spare settles in SHADOW from the row in production on: its row chain starts from the cleared state (R112, R127). -/
def settle (s : State) (cl : Nat) : State :=
  restartChains (s.updRot cl fun r => { r with phase := .settle, step := { r.step with waiting := false, settleAt := s.flt.rows.row } })
    [s.spareSlice cl]

/-! ### The calibration integrator (R112, R120) -/

/-- Number of a measurement phase, and how many there are (R112). -/
def MeasPhase.idx : MeasPhase → Nat
  | .zero => 0 | .gainPos => 1 | .gainNeg => 2 | .phase => 3 | .done => 4

def State.measPhases (s : State) (cl : Nat) : Nat := if s.excMode cl = 0 then 3 else 4

/-- The samples of measurement row `elapsed` that belong to phase `p` of `n`: how many precede them in the row, and how
many they are. The phases share the measurement time equally. -/
def RotStep.span (st : RotStep) (k n p : Nat) : Nat × Nat :=
  let lo := st.elapsed * 2 ^ k
  let a := Nat.max lo (ceilDiv (p * st.mRows * 2 ^ k) n)
  let b := Nat.min (lo + 2 ^ k) (ceilDiv ((p + 1) * st.mRows * 2 ^ k) n)
  (a - lo, b - a)

/-- A run of demodulated samples is added to a phase. -/
def PhaseSum.take (a : PhaseSum) (i q : List Int) : PhaseSum := ⟨a.i + i.sum, a.q + q.sum, a.n + i.length⟩

/-- The row that ends goes into the integrator of a cluster that calibrates: the phases as far as they have come, and while
the ladder is waited for only what is left of ZERO (notes/assumptions/47.md). -/
def calMeasure (i : RowInput) (s : State) (cl : Nat) : State :=
  let r := (s.cluster cl).rot
  let st := r.step
  let waits := r.phase = .ladderWait
  if !(r.phase = .cal || waits) || st.mRows ≤ st.elapsed || !s.rotReady cl then s
  else
    let k := s.flt.chain.k
    let n := s.measPhases cl
    let mode := s.excMode cl
    let car := s.pat.f sExc cl 1 1
    let th := thetaRef (s.pat.f sExc cl 3 1) 0 0
    let xs := samplesOf i (s.spareSlice cl) k
    let xs := if xs.isEmpty then List.replicate (2 ^ k) 0 else xs
    let di := mixed xs (refI mode car th)
    let dq := mixed xs (refQ mode car th)
    let ps := (List.range n).filter fun p => (p ≤ if waits then 0 else st.meas.idx) && !(p = 0 && st.zeroDone)
    let sums := ps.foldl (fun t p =>
      let w := st.span k n p
      Tbl.upd PhaseSum.zero t p (·.take ((di.drop w.1).take w.2) ((dq.drop w.1).take w.2))) st.sums
    s.updRot cl fun r => { r with step := { st with
      sums := sums, zeroDone := st.zeroDone || waits
      elapsed := if waits then st.elapsed else st.elapsed + 1
      waited := if waits then st.waited + 1 else st.waited } }

/-- An abandoned test: the spare calibrates again on the same target (R124). -/
def abandonStep (s : State) (cl : Nat) : State :=
  beginStep (s.updRot cl fun r => { r with lastResult := 3 }) cl (s.cluster cl).rot.target

/-- As abandonStep for a window that ends within a row: the next step begins at the row boundary (R100, R112). -/
def abandonLater (s : State) (cl : Nat) : State :=
  if s.rowOpen then s.updRot cl fun r => { r with lastResult := 3, ended := true } else abandonStep s cl

/-- A rotation event of a cluster: source 72 + region (R495). -/
def rotEvent (s : State) (cl code subj arg : Nat) : State := emitFrom s (some (72 + clRegion cl)) code subj arg

/-- ROT_CAL_LIMIT of a set, naming the quantity: 0 OFFSET, 1 GAIN, 2 PHASE (R121). DESIGN CHOICE (notes/assumptions/13.md): of
several outside their limits the first in this order. -/
def calLimit (s : State) (sl g : Nat) (offset : Int) (gain : Nat) : State :=
  let bad := if !corrOk offset (2 ^ 30) 0 then 0 else if !corrOk 0 gain 0 then 1 else 2
  rotEvent s (sl / 9) 0x1005 sl (args [g, bad])

/-- The spare slice counts a failure; the third makes it SUSPECT (R121, R125). -/
def countFailure (s : State) (cl : Nat) : State :=
  let sl := s.spareSlice cl
  let n := (s.slice sl).fails + 1
  let s := s.updSlice sl fun x => { x with fails := n, suspect := x.suspect || 3 ≤ n }
  if 3 ≤ n then
    let s := s.updCluster cl fun c => { c with spareValid := false }
    rotEvent s cl 0x1003 sl 0
  else s

/-- The handover at the boundary that starts row H, the row now in production (R23, R123). -/
def handover (s : State) (cl : Nat) : State :=
  let c := s.cluster cl
  let t := c.rot.target
  let sp := s.spareSlice cl
  let s := s.updCluster cl fun c =>
    { c with slots := c.slots.set t c.spare, spare := c.slots.getD t 0, mapSeq := (c.mapSeq + 1) % 65536 }
  let s := s.updSlice sp fun x => { x with fails := 0 }
  let s := s.updChan (8 * cl + t) fun x => { x with hnd := true }
  let s := s.updRot cl fun r => { r with lastResult := 1, hndRow := s.flt.rows.row }
  beginStep s cl (t + 1)

/-! ### The handover test (R122, R125) -/

/-- Mean difference of the latest W rows in 0.01 ppm FS, and whether it lies within ±TOL. -/
def testWindow (st : RotStep) : Int × Bool :=
  let ds := st.diffs.take st.window
  let sum := ds.foldl (· + ·) 0
  let mean := quot (sum * 100000000) (st.window * 2 ^ 61)
  (clampI (-32768) 32767 mean, sum.natAbs * 100000000 ≤ st.tol * st.window * 2 ^ 61)

/-- A weighing point that includes the target was STABLE in the last row, and MOTION_GATE is set (R127). -/
def State.gateShut (s : State) (cl : Nat) : Bool :=
  (s.pat.rot cl 7 1).testBit 3 && (bitsOf 64 s.lin.stable).any fun w => s.pat.wpHas w [s.rotTarget cl]

/-- The test has failed: counted, reported, next target (R125). -/
def failStep (s : State) (cl : Nat) (diff : Int) : State :=
  let t := (s.cluster cl).rot.target
  let s := s.updRot cl fun r => { r with lastResult := 2 }
  let s := rotEvent s cl 0x1001 (8 * cl + t) (args [s.spareSlice cl, s.chSlice (8 * cl + t), unsigned 16 diff])
  beginStep (countFailure s cl) cl (t + 1)

/-- The spare is in its shadow window. -/
def State.inWindow (s : State) (cl : Nat) : Bool :=
  let r := (s.cluster cl).rot
  (r.phase = .shadow || r.phase = .defer) && !r.ended

/-- A handover in its shadow window is aborted (R47, R50, R92): no failure counts, and the spare is uncalibrated from the next
row boundary on. -/
def abortHandover (s : State) (cl cause : Nat) : State :=
  if s.inWindow cl then
    let t := (s.cluster cl).rot.target
    let s := rotEvent s cl 0x1002 (8 * cl + t) (args [s.spareSlice cl, cause])
    abandonLater s cl
  else s

/-! ### Rotation at a row boundary: the row just produced is `r`, the row now in production is r + 1 -/

/-- Flags of the spare in the last row: saturation, an overload in it or unsettled after one, a lane without lock or
unsettled after its retraining (R122, R158, R612). -/
def State.spareDirty (s : State) (cl gain : Nat) : Bool :=
  let sl := s.spareSlice cl
  let x := s.slice sl
  x.ovlLast || s.flt.rows.row ≤ x.unsEnd || s.laneSub sl || (satCode (rne (s.xs sl gain) (2 ^ 38))).2

/-- The flags of the target in the last row, and whether it carried WFT, which ends a window by revocation (R92). -/
def State.targetFlags (s : State) (cl : Nat) : Nat :=
  match s.flt.recent with
  | [] => 0
  | r :: _ => s32Flags (Tbl.get 0 r.s32 (s.rotTarget cl))

def State.targetWft (s : State) (cl : Nat) : Bool := s.targetFlags cl &&& fWft ≠ 0

/-- A window row without WFT: another flag abandons the window, else its difference is kept (R122). -/
def shadowRow (s : State) (cl : Nat) : State × Bool :=
  let tch := s.rotTarget cl
  let st := (s.cluster cl).rot.step
  let fl := s.targetFlags cl
  if fl &&& (fUns + fOvr + fClp + fSub) ≠ 0 || s.spareDirty cl st.gain then (abandonStep s cl, true)
  else
    let d := s.xs (s.spareSlice cl) st.gain - s.xs (s.chSlice tch) st.gain
    ((renew s (.handover cl)).updRot cl fun r => { r with step := { r.step with diffs := bounded r.step.window (d :: r.step.diffs) } }, false)

/-- Slices returned by ROT_CLEAR_SUSPECT at this boundary (R126). -/
def returnSpares (s : State) (cl : Nat) : State :=
  (s.cluster cl).rot.clears.foldl (fun s slot =>
    if !(s.slice (9 * cl + slot)).suspect then s else
    let s := s.updCluster cl fun c =>
      { c with spareValid := true, spare := slot, rot := { c.rot with clears := [], phase := if c.rot.phase = .noSpare then .paused else c.rot.phase } }
    rotEvent (s.updSlice (9 * cl + slot) fun x => { x with suspect := false, fails := 0 }) cl 0x1004 (9 * cl + slot) 0) s

/-- Leave a step in progress: the ladder is given back and a window counts as abandoned. -/
def leaveStep (s : State) (cl : Nat) (p : RotPhase) : State :=
  let inWindow := s.inWindow cl
  (endLease (dropLadder s cl) cl).updRot cl fun r =>
    { r with phase := p, step := RotStep.init, ended := false, lastResult := if inWindow then 3 else r.lastResult }

/-- A freeze acts on a cluster: measurement phases go on, settling ends with the new set kept, and a window is abandoned,
which sends the spare to calibrate again (R124). -/
def freezeCluster (s : State) (cl : Nat) : State :=
  match (s.cluster cl).rot.phase with
  | .settle => s.updRot cl fun r => { r with phase := .frozen, step := { r.step with waiting := true } }
  | .shadow | .defer => abandonStep s cl
  | _ => s

/-- A cluster resumes from a freeze (R127). -/
def thawCluster (s : State) (cl : Nat) : State :=
  let r := (s.cluster cl).rot
  if r.step.waiting && r.step.gain = s.pat.gain (8 * cl + r.target) && !s.chanFaulted (s.rotTarget cl) then settle s cl
  else beginStep s cl r.target

/-- The rotation of one cluster at a boundary. -/
def rotBoundary (s : State) (cl : Nat) : State :=
  let s := returnSpares s cl
  let ph := (s.cluster cl).rot.phase
  if s.handoverLost cl then s
  else if !s.rotEnabled cl then (if ph = .disabled then s else leaveStep s cl .disabled)
  else if ph = .disabled then setPhase s cl (if (s.cluster cl).spareValid then .paused else .noSpare)
  else if ph = .noSpare ∨ ph = .paused then s
  else if s.inWindow cl && s.targetWft cl then faultHandover s cl
  else if !s.rotReady cl then leaveStep s cl .paused
  else if (s.cluster cl).rot.ended then beginStep s cl (s.cluster cl).rot.target
  else if s.rotFrozen cl then freezeCluster s cl
  else match ph with
    | .frozen => thawCluster s cl
    | .cal | .ladderWait | .settle =>
      if s.chanFaulted (s.rotTarget cl) then beginStep s cl ((s.cluster cl).rot.target + 1) else s
    | .shadow => (shadowRow s cl).1
    | .defer =>
      let (s, gone) := shadowRow s cl
      if gone then s else
        let s := s.updRot cl fun r => { r with step := { r.step with deferred := r.step.deferred + 1 } }
        let (diff, ok) := testWindow (s.cluster cl).rot.step
        let s := s.updRot cl fun r => { r with lastDiff := diff }
        if ok && !s.gateShut cl then handover s cl else s
    | _ => s

/-- A switching row that changes a structure acting on the cluster, or a restart of its chains (R127, R166): a window is
abandoned, settling restarts from row `from_`, or the spare calibrates again for a new gain. -/
def rotDisturb (s : State) (cl from_ : Nat) : State :=
  let r := (s.cluster cl).rot
  if s.handoverLost cl then s
  else match r.phase with
  | .shadow | .defer => abandonStep s cl
  | .settle =>
    if r.step.gain = s.pat.gain (8 * cl + r.target) then
      s.updRot cl fun x => { x with step := { x.step with settleAt := from_ } }
    else beginStep s cl r.target
  | _ => s

/-- A pause: a restart-class commit, entry to WATCH or DOZE, a die powered down (R127). -/
def rotPause (s : State) (cl : Nat) : State :=
  if s.handoverLost cl then s
  else match (s.cluster cl).rot.phase with
  | .disabled | .noSpare | .paused => s
  | _ => leaveStep s cl .paused

/-! ### The events -/

/-- No channel of the cluster carries UNS in the row in production (R116). -/
def State.clusterClean (s : State) (cl : Nat) : Bool :=
  (clChans cl).all fun ch => (s.chan ch).unsEnd ≤ s.flt.rows.row

/-- ROT_STEP_START (R112, R116). -/
def execRotStepStart (cl : Nat) (s : State) : Host.Outcome State Fault Refusal :=
  .next (if (s.cluster cl).rot.phase = .paused ∧ (s.cluster cl).spareValid = true ∧ s.rotReady cl = true ∧
      s.clusterClean cl = true then
    beginStep s cl (s.cluster cl).rot.target else s)

/-- The end of ZERO asks for the ladder (R114): the request is posted and competes. -/
def askLadder (s : State) (cl : Nat) : State :=
  setPhase (s.updLadder (clRegion cl) fun l => { l with waiting := l.waiting ++ [cl] }) cl .ladderWait

/-- The measurement phase in progress ends in the row in production, or has ended. -/
def State.phaseOver (s : State) (cl : Nat) : Bool :=
  let st := (s.cluster cl).rot.step
  (st.meas.idx + 1) * st.mRows ≤ (st.elapsed + 1) * s.measPhases cl

/-- ROT_PHASE_END (R112): the next source, or the shadow window after L settling rows. -/
def execRotPhaseEnd (cl : Nat) (s : State) : Host.Outcome State Fault Refusal :=
  let r := (s.cluster cl).rot
  .next (if !s.rotReady cl then s else match r.phase with
    | .cal =>
      if !s.phaseOver cl then s
      else (match r.step.meas with
        | .zero => askLadder s cl
        | .gainPos => s.updRot cl fun r => { r with step := { r.step with meas := .gainNeg } }
        | .gainNeg => if s.measPhases cl = 3 then s else s.updRot cl fun r => { r with step := { r.step with meas := .phase } }
        | _ => s)
    | .settle =>
      if r.step.settleAt + s.clL cl ≤ s.flt.rows.row then
        s.updRot cl fun r =>
          { r with phase := .shadow, tcalEff := sat 65535 (r.step.cRows + r.step.waited)
                   step := { r.step with shadowAt := s.flt.rows.row, diffs := [] } }
      else s
    | _ => s)

/-- LADDER_GRANT (R114): the free ladder goes to the winner among the clusters whose requests are posted. -/
def execLadderGrant (rg : Nat) (s : State) : Host.Outcome State Fault Refusal :=
  .next (if (s.ladder rg).holder.isNone then
      let s := s.updLadder rg grantLadder
      match (s.ladder rg).holder with
      | none => s
      | some cl => s.updRot cl fun r => { r with phase := .cal, step := { r.step with meas := .gainPos } }
    else s)

/-- What the integrator gives (R120): OFFSET, GAIN (0 where the taps give no positive span) and PHASE, which in DC mode has no
phase of its own and is kept. -/
def calResult (sums : Tbl PhaseSum) (dc : Bool) (old : CorrSet) : CorrSet :=
  let g := fun p => Tbl.get PhaseSum.zero sums p
  let span := (g 1).i * (g 2).n - (g 2).i * (g 1).n
  { offset := quot (g 0).i ((g 0).n * 2 ^ 30)
    gain := if 0 < span then (quot (2 ^ 91 * ((g 1).n * (g 2).n : Nat)) span.natAbs).toNat else 0
    phase := if dc then old.phase else -(atan2 (g 3).q (g 3).i)
    calAt := none }

/-- The measurement phases have run their rows (R112). -/
def State.calReady (s : State) (cl : Nat) : Bool :=
  let r := (s.cluster cl).rot
  r.phase = .cal && r.step.meas.idx + 1 = s.measPhases cl && r.step.mRows ≤ r.step.elapsed && s.rotReady cl

/-- ROT_CAL_DONE (R120, R121): the new set is kept, or counted as a failure; the ladder is given back. -/
def execRotCalDone (cl : Nat) (s : State) : Host.Outcome State Fault Refusal :=
  let r := (s.cluster cl).rot
  .next (if s.calReady cl then
      let sl := s.spareSlice cl
      let c := calResult r.step.sums (s.measPhases cl = 3) (s.corrSet sl r.step.gain)
      let s := dropLadder s cl
      if corrOk c.offset c.gain c.phase then
        let s := s.setCorr sl r.step.gain { c with calAt := some s.time.b2.val }
        let s := s.updRot cl fun r => { r with step := { r.step with meas := .done } }
        if s.rotFrozen cl then s.updRot cl fun r => { r with phase := .frozen, step := { r.step with waiting := true } }
        else if r.step.gain = s.pat.gain (8 * cl + r.target) then settle s cl
        else beginStep s cl r.target
      else
        let s := calLimit s sl r.step.gain c.offset c.gain
        beginStep (countFailure s cl) cl (r.target + 1)
    else s)

/-- ROT_WINDOW_END (R122–R127): at the boundary after the W-th row. `dTdt` is |dT/dt| of the region in 0.001 K/s, which no rule
derives from the region sensor. -/
def execRotWindowEnd (cl dTdt : Nat) (s : State) : Host.Outcome State Fault Refusal :=
  let r := (s.cluster cl).rot
  .next (if r.phase = .shadow ∧ r.ended = false ∧ r.step.window ≤ r.step.diffs.length ∧ s.rotReady cl = true ∧ s.handoverLost cl = false then
      let (diff, ok) := testWindow r.step
      let s := s.updRot cl fun r => { r with lastDiff := diff }
      if ok then (if s.gateShut cl then setPhase s cl .defer else handover s cl)
      else if r.step.rateGate ≠ 0 ∧ r.step.rateGate < dTdt then abandonStep s cl
      else failStep s cl diff
    else s)

/-- ROT_DEFER_EXPIRED (R127). -/
def execRotDeferExpired (cl : Nat) (s : State) : Host.Outcome State Fault Refusal :=
  let r := (s.cluster cl).rot
  .next (if r.phase = .defer ∧ r.ended = false ∧ r.step.deferMax * r.step.window ≤ r.step.deferred ∧ s.handoverLost cl = false then abandonStep s cl
    else s)

/-- ROT_CLEAR_SUSPECT (R126): accepted for any slice; a SUSPECT one returns at the next row boundary. -/
def cmdRotClearSuspect : CmdHdr → Bytes → State → State :=
  mailbox 0x0210 (form 2 fun p => [(0, fld p 0 2 < 288)]) fun s _ p =>
    let sl := fld p 0 2
    if (s.slice sl).suspect && !((s.cluster (sl / 9)).rot.clears.contains (sl % 9)) then
      answer (s.updRot (sl / 9) fun r => { r with clears := r.clears ++ [sl % 9] }) Ans.done
    else answer s Ans.done

def execRotClearSuspect (h : CmdHdr) (p : Bytes) (s : State) : Host.Outcome State Fault Refusal :=
  .next (cmdRotClearSuspect h p s)

end Sys2Proof.Machine
end

