-- ==== Sys2Proof/Machine/Commit.lean ====
section
/-!
DEFINITION. Committing a pattern: the checks of R477 in their order, the leads of R478, the audit records of R483, R222 and
R210, admission (R379), the swatch store, acceptance, cancelling (R484), and what the change of each structure does at its
row (R34, R67–R68, R104, R148, R161, R171, R185, R191–R192, R197, R227, R289, R298). notes/assumptions/19.md and 20.md.
-/
namespace Sys2Proof.Machine

/-! ### Instants and leads (R40, R478) -/

abbrev msF : Fns := 1000000 * nsF

/-- The sample clock of the input filters: CLK_SYS in ACTIVE, else CLK_AON (R508). -/
def State.samplePeriod (s : State) : Fns := if s.pm.st = .active then 10 * nsF else secF / 32768

/-- N of an input's filter; in COCOON that of the always-on copy (R510, R568). -/
def State.diN (s : State) (n : Nat) : Nat := if s.pm.st = .cocoon then s.pm.aonN else s.pat.f sDi n 0 1

/-- Every input's count restarts; the filtered levels stay (R511). -/
def restartFilters (s : State) : State := { s with ic := { s.ic with diCount := [] } }

/-- The present instant in the selected base: not before the last boundary of a running stream (notes/assumptions/7.md). -/
def State.instant (s : State) : Fns := if s.rowOpen then Nat.max s.selBase.val s.flt.rows.last else s.selBase.val

/-- The date of a change that an input's filter accepts now: the first of its N samples (R509). -/
def State.dated (s : State) (n : Nat) : Fns := s.instant - (s.diN n - 1) * s.samplePeriod

def State.tRow (s : State) : Fns := rowT s.flt.chain.k

/-- B_(n−1), the boundary that starts row n, for a row not yet in production, or the one in production. -/
def State.startOf (s : State) (n : Nat) : Fns := s.flt.rows.last + (n - s.flt.rows.row) * s.tRow

/-- Whether a commit changes a SWATCH. -/
def touches (sid : Nat) (ks : List Nat) : Bool := ks.any fun k => k / 65536 = sid

/-- The G_s that the root has admitted for this station: G_RES alone where the stream is refused (R378). -/
def State.admitted (s : State) : Nat := if s.flt.rows.refused then gRes else s.pat.gS

/-- The lead of R478. -/
def State.lead (s : State) (c : Commit) : Fns :=
  let ms := if touches sSwatch c.keys then 100 else if c.cls / 4 % 2 = 1 then 10 else if s.admitted < c.pat.gS then 2 else 1
  Nat.max (2 * s.tRow) (ms * msF)

/-- The earliest row whose starting boundary meets a lead. -/
def State.earliest (s : State) (lead : Fns) : Nat :=
  s.flt.rows.row + ceilDiv (s.instant + lead - s.flt.rows.last) s.tRow

/-- The last switching row of a commit (R481, R486). -/
def Commit.lastRow (c : Commit) : Nat := if c.cls / 2 % 2 = 1 ∧ c.cls / 4 % 2 = 0 then c.row + 31 else c.row

/-! ### Whole-pattern checks (R153, R295, R369, R267) -/

def chainOk (p : Pat) : Bool := let c := p.chain; 3 + c.hb + c.firSet ≤ p.k && p.k ≤ 10 + c.hb + c.firSet

def carriersOk (p : Pat) : Bool :=
  (List.range 32).all fun cl => !carrierMode (p.f sExc cl 0 1) || 10 + p.f sExc cl 1 1 ≤ p.k

def classesOk (p : Pat) : Bool :=
  p.bufs.all fun k => let c := p.skc (k / 4) (k % 4); fld c 16 32 ≠ 0 || fld c 48 8 ≠ 0

def streamOk (p : Pat) : Bool := p.streamBytes + 162 ≤ p.f sRing 0 4 2

/-- Δ = (other base) − (selected base), read in one tick. -/
def State.baseDelta (s : State) : Int := ((s.base s.otherNo).val : Int) - s.selBase.val

def State.selBaseOk (s : State) (p : Pat) : Bool :=
  p.f sTime 0 0 1 = s.time.selected ||
    (baseLoaded (s.base s.otherNo) && s.baseDelta.natAbs ≤ p.f sTime 0 12 2 * nsF)

/-- DETAIL of a whole-pattern check between two structures (R470). -/
def wholeDetail (n a b : Nat) : Nat := 0x8000 + if Config.wholeFirst n then a else b

/-- The first failing check of R477 step 2, or BUSY for a SEL_BASE commit during a slew (R268). -/
def State.patternAns (s : State) (p : Pat) : Option Ans :=
  if !chainOk p then some (Ans.err stBadParam (wholeDetail 0 sRow sChain))
  else if !carriersOk p then some (Ans.err stBadParam (wholeDetail 1 sRow sExc))
  else if !classesOk p then some (Ans.err stBadParam (wholeDetail 2 sTsProg sSkc))
  else if !streamOk p then some (Ans.err stBadParam (0x8000 + sStream))
  else if p.f sTime 0 0 1 ≠ s.pat.f sTime 0 0 1 ∧ s.time.gridRem ≠ 0 then some (Ans.err stBusy 1)
  else if p.f sTime 0 0 1 ≠ s.pat.f sTime 0 0 1 ∧ !s.selBaseOk p then some (Ans.err stBadParam (0x8000 + sTime))
  else none

/-! ### Memory (R299, R383) -/

/-- Σ ROW_BYTES × 8 × f_ROW ≤ 8 Gbit/s, with f_ROW = 6.25 MHz / 2^K. -/
def classRateOk (p : Pat) : Bool := (p.bufs.map p.classBytes).sum * 8 * 6250000 ≤ 8000000000 * 2 ^ p.k

def memoryOk (p : Pat) : Bool := classRateOk p && p.bufBytes + p.regionMiB * 2 ^ 20 + 64 * 2 ^ 20 ≤ Config.mdBytes

/-! ### Digests (R210, R483, R533) -/

/-- The legally relevant structures in ascending STRUCT and INDEX; of a SWATCH, bytes 0–11 (R527, R533). -/
def legalBytes (p : Pat) : Bytes :=
  ((structTable.filter (·.legal)).map fun d =>
    ((List.range d.count).map fun i => if d.id = sSwatch then (p.str d.id i).take 12 else p.str d.id i).flatten).flatten

def paramDigest (p : Pat) : BitVec 256 := sha256 (legalBytes p)

/-- The digest over every instance of one structure. -/
def structDigest (p : Pat) (sid n : Nat) : BitVec 256 := sha256 ((List.range n).map (p.str sid)).flatten

/-- The first 8 bytes of a digest, as OLD and NEW hold them (R536). -/
def head8 (d : BitVec 256) : Nat := leVal ((digestBytes d).take 8)

/-! ### Audit records (R477 step 5) -/

/-- A gating record whose ROW is the commit row (R222, R483). -/
def gateAt (s : State) (row code subj old new : Nat) : AuditRes × State :=
  let s1 := { s with flt := { s.flt with rows := { s.flt.rows with row := row } } }
  match auditGate s1 code subj old new with
  | (r, s2) => (r, { s2 with flt := { s2.flt with rows := { s2.flt.rows with row := s.flt.rows.row } } })

/-- The records that a commit hands over: code, subject, digests. -/
def commitRecords (old : Pat) (c : Commit) : List (Nat × Nat × Nat × Nat) :=
  let legal := c.keys.any fun k => legalStruct (k / 65536) && !([sSwatch, sDem, sSkw].contains (k / 65536))
  let one : Nat → Nat → Nat → List (Nat × Nat × Nat × Nat) := fun sid n code => if touches sid c.keys then
    [(code, if code = 0x1030 then (c.keys.filter fun k => k / 65536 = sid).length else sid, head8 (structDigest old sid n),
      head8 (structDigest c.pat sid n))] else []
  (if legal then [(0x1040, 0, head8 (paramDigest old), head8 (paramDigest c.pat))] else []) ++
    one sDem 32 0x1035 ++ one sSkw 32 0x1035 ++ one sSwatch 256 0x1030

/-- Hand the records over, all or none. -/
def gateAll (row : Nat) : List (Nat × Nat × Nat × Nat) → State → AuditRes × State
  | [], s => (.accepted, s)
  | (code, subj, old, new) :: r, s =>
    match gateAt s row code subj old new with
    | (.accepted, s) => gateAll row r s
    | x => x

/-- An accepted record is also a report: PATTERN_COMMIT with the transport and the epoch that begins, the others with their
clusters and digests (R477, R231, R494). -/
def reportRecords (c : Commit) (l : List (Nat × Nat × Nat × Nat)) (s : State) : State :=
  l.foldl (fun s r =>
    let clusters := (c.keys.filter fun k => k / 65536 = r.2.1).foldl (fun m k => bitSet m (k % 65536) true) 0
    let d := fun (n : Nat) => r.2.2.1 % 2 ^ n + 2 ^ n * (r.2.2.2 % 2 ^ n)
    if r.1 = 0x1040 then emit s r.1 c.owner ((s.flt.rows.epoch + 1) % 65536)
    else emit s r.1 r.2.1 (c.row + 2 ^ 48 * (if r.1 = 0x1035 then clusters + 2 ^ 32 * d 16 else d 32))) s

/-! ### What the change of a structure does at its row -/

/-- The driver's sequence at a committed change of EXC_CFG, and N_EX (R68, R91). -/
structure ExChange where
  /-- 0 none, 1 the full sequence for leaving PARKED, 2 entering PARKED -/
  seq : Nat
  nEx : Nat
deriving DecidableEq, Repr

def exChange (s : State) (old new : Bytes) (parkedByFault : Bool) : ExChange :=
  let f := fun (b : Bytes) o => fld b o 1
  if f new 0 = 3 then ⟨if f old 0 = 3 then 0 else 2, 0⟩
  else if parkedByFault || f old 0 ≠ f new 0 || (f old 1 ≠ f new 1 && carrierMode (f old 0) && carrierMode (f new 0)) then
    ⟨1, rowsOf s 21000000⟩
  else if f old 2 ≠ f new 2 then ⟨0, rowsOf s 2000000⟩
  else ⟨0, 0⟩

/-- EXC_CFG of a cluster changes at row `r`; the pattern in force holds the new one. The 2 ms ramp of an AMPLITUDE change
leaves STATE as it is (notes/assumptions/46.md). With FOUR_WIRE the sense pair is watched no longer (R54); WFT after a short
outlasts PARKED, and a retry in progress stays one (R91). -/
def excSwitch (old : Bytes) (cl r : Nat) (s : State) : State :=
  let d := (s.cluster cl).drv
  let faulted := d.st = .shortParked || d.st = .reversedParked
  let x := exChange s old (s.pat.str sExc cl) faulted
  let up := (s.die (clDie cl)).powered && !(s.die (clDie cl)).unpark
  let settled := d.st = .regulating || d.st = .fourWire || d.st = .fallback
  let st := if x.seq = 2 then .parked
    else if d.st = .thermalParked || !up then d.st
    else if x.seq = 1 then .check
    else if settled then s.operating cl else d.st
  let s := s.updDrv cl fun d =>
    let d := if s.fourWire cl then d.drop [lvOpenP, lvOpenN, lvSenseShort, lvReversed] else d
    { d with st := st, retries := 0, retrying := d.retrying && x.seq = 0, limit := d.limit && x.seq = 0
             inLimit := d.inLimit && x.seq = 0, restoring := d.restoring && x.seq = 0 }
  if x.seq = 2 then s else unsRows s (clChans cl) r x.nEx

def setRcf (s : State) (chs : List Nat) : State :=
  { s with flt := { s.flt with chans := Tbl.updAll Chan.init s.flt.chans chs fun _ c => { c with rcf := true } } }

/-- The channels of a cluster whose field of a per-channel structure differs. -/
def changedChans (old new : Bytes) (size cl : Nat) : List Nat :=
  ((List.range 8).filter fun n => slice old (size * n) size != slice new (size * n) size).map (8 * cl + ·)

/-- Cluster-sequential changes of one cluster at its switching row `r` (R67, R104, R148, R161), given what it ran before. -/
def clusterSwitch (old : Pat) (ks : List Nat) (cl r : Nat) (s : State) : State :=
  let has := fun sid => ks.contains (patKey sid cl)
  let gains := if has sSlc then changedChans (old.str sSlc cl) (s.pat.str sSlc cl) 1 cl else []
  let trims := if has sDem then changedChans (old.str sDem cl) (s.pat.str sDem cl) 2 cl else []
  let chain := touches sChain ks
  let s := if has sExc then setRcf (excSwitch (old.str sExc cl) cl r s) (clChans cl) else s
  let s := unsRows (setRcf s (gains ++ trims)) (gains ++ trims) r 0
  let s := if chain then unsRows (setRcf s (clChans cl)) (clChans cl) r 0 else s
  let s := restartChains s (if chain then clSlices cl else gains.map s.chSlice)
  let moved := (clChans cl).filter fun ch => !condSame (old.condition ch) (s.condition ch)
  let s := moved.foldl calCondition s
  if has sExc || has sSlc || has sDem || chain then rotDisturb s cl (r + 1) else s

/-- The comparators of one THR structure whose DIR changes become uninitialised (R171). -/
def thrDirs (old new : Bytes) (q : Nat) (s : State) : State :=
  [0, 1].foldl (fun s n =>
    if fld old (12 * n + 8) 1 % 4 = fld new (12 * n + 8) 1 % 4 then s
    else { s with flt := { s.flt with thrInit := bitSet s.flt.thrInit (q + n) false, thrState := bitSet s.flt.thrState (q + n) false } }) s

/-- The channel set of a WP_CFG. -/
def wpSet (b : Bytes) : Nat := (List.range (fld b 0 1)).foldl (fun m i => bitSet m (fld b (16 + 8 * i) 2) true) 0

def wpSwitch (old new : Bytes) (w r : Nat) (s : State) : State :=
  let s := { s with lin := { s.lin with
    wpPast := (s.lin.wpPast.filter fun e => r < e.1 + 128) ++ [(r, w, wpSet old)]
    wpRcf := bitSet s.lin.wpRcf w true, motion := Tbl.set [] s.lin.motion w [] } }
  if wpSet old = wpSet new then s
  else { s with flt := { s.flt with
    thrInit := bitSet (bitSet s.flt.thrInit (512 + 2 * w) false) (513 + 2 * w) false
    thrState := bitSet (bitSet s.flt.thrState (512 + 2 * w) false) (513 + 2 * w) false } }

/-- The always-on domain's copy of the settings that COCOON needs (R568). -/
def aonCopy (s : State) : State :=
  let m := s.pat.f sDi 18 1 1
  { s with pm := { s.pm with
    aonN := s.pat.f sDi 18 0 1, aonInvert := m.testBit 0, aonEdge := bits m 1 2
    aonWake := (s.pat.f sPwr 0 7 1).testBit 0 } }

/-- A row-atomic change acts at row `r` (R480); the pattern in force holds the new structure. A TEMP_CFG puts its channel back to
waiting for a first result, also out of the stale condition (R185; DESIGN CHOICE, notes/assumptions/13.md). -/
def rowSwitch (old : Pat) (r : Nat) (s : State) (k : Nat) : State :=
  let sid := k / 65536
  let i := k % 65536
  let o := old.str sid i
  let n := s.pat.str sid i
  match sid with
  | 0x0006 => auxStop s i
  | 0x0013 => thrDirs o n (2 * i) s
  | 0x0014 => thrDirs o n (512 + 2 * i) s
  | 0x0020 => { s with lin := { s.lin with linRcf := bitSet s.lin.linRcf i true } }
  | 0x0021 =>
    { s with lin := { s.lin with
      linRcf := bitSet s.lin.linRcf i true
      temps := Tbl.upd TempCh.init s.lin.temps i fun t => ⟨t.theta, if fld n 0 1 = 2 then 1 else 0, 0, s.time.b2.val⟩ } }
  | 0x0022 => wpSwitch o n i r s
  | 0x0030 => s.updCal fun c => { c with swRow := Tbl.set 0 c.swRow i r }
  | 0x0033 => emit s 0x2060 i (fld o 0 4 + 2 ^ 32 * fld n 0 4)
  | 0x0040 => if fld n 20 1 = 0xFF then { s with time := { s.time with ppsOut := false } } else s
  | 0x0050 => if (s.seq i).run = .running || (s.rowOpen && (s.seq i).run = .idle && autoArm s.pat i) then armSeq s i else s
  | 0x0071 =>
    let s := if fld o 0 1 ≠ fld n 0 1 ∨ (fld o 1 1).testBit 0 ≠ (fld n 1 1).testBit 0 then
        { s with ic := { s.ic with diCount := Tbl.set 0 s.ic.diCount i 0 } } else s
    if i = 18 then aonCopy s else s
  | 0x0080 => aonCopy s
  | _ => s

/-- The class buffers after a pattern comes into force at row `r`: a buffer with a new use, or a changed class, starts to
fill there (R298, R311). -/
def rebuildBuffers (old : Pat) (r : Nat) (s : State) : State :=
  let since := (List.range 16).foldl (fun t k =>
    if !(s.pat.bufs.contains k) then Tbl.set none t k none
    else if !(old.bufs.contains k) || old.skc (k / 4) (k % 4) != s.pat.skc (k / 4) (k % 4) then Tbl.set none t k (some r)
    else t) s.cap.since
  { s with cap := { s.cap with since := since } }

/-- The metrology identity (R533). -/
def metroOf (fwId param : BitVec 256) : BitVec 256 :=
  sha256 ([0x50, 0x58, 0x4D, 0x49, 0x44, 0x31] ++ digestBytes fwId ++ digestBytes param)

def State.runningFwId (s : State) : BitVec 256 := (s.fwImage s.sec.fwSlot).fwId

def metroRecompute (s : State) : State :=
  let d := paramDigest s.pat
  { s with sec := { s.sec with param := d, metro := metroOf s.runningFwId d } }

def metroAfter (ks : List Nat) (s : State) : State := if ks.any fun k => legalStruct (k / 65536) then metroRecompute s else s

/-! ### Acceptance (R477 step 7) and a commit with no stream -/

/-- Swatches as a commit writes them: SEQ incremented, TIME from TB3, CHECK computed (R210 step 1). -/
def sealSwatches (s : State) (old : Pat) (ks : List Nat) (p : Pat) : Pat :=
  (ks.filter fun k => k / 65536 = sSwatch).foldl (fun p k =>
    let i := k % 65536
    let b := p.str sSwatch i
    p.setStr sSwatch i (swatchSeal (b.take 12 ++ le 4 (old.f sSwatch i 12 4 + 1) ++ le 6 (s.time.b3.val / secF) ++ b.drop 22))) p

/-- A change of every structure at once, with no row in production: drivers follow, RCF waits for row 0 (R482). -/
def switchAll (old : Pat) (ks : List Nat) (s : State) : State :=
  let s := (List.range 32).foldl (fun s cl => clusterSwitch old ks cl 0 s) s
  let s := ks.foldl (rowSwitch old 0) s
  metroAfter ks (swatchCheck (rebuildBuffers old 0 s))

def commitAnswer (s : State) (c : Commit) : Ans :=
  Ans.ok (le 6 c.row ++ le 2 ((s.flt.rows.epoch + 1) % 65536) ++ le 1 c.cls ++ zeros 1 ++ le 6 c.lastRow)

/-! ### Closing and opening a row stream (R30, R261, R296, R482) -/

/-- A base has been carried on from `t`: the armed events whose time it has passed have been crossed (R272). -/
def markCrossed (s : State) (b : Nat) (t : Fns) : State :=
  { s with time := { s.time with events := Tbl.updAll TimeEv.init s.time.events (s.time.events.map (·.1)) fun _ e =>
    { e with crossed := e.crossed || (e.st = 1 && fld e.cfg 0 1 = b && t < e.next && e.next ≤ (s.base b).val) } } }

/-- A base with RELOAD_PENDING is loaded while no open stream follows it (R237). -/
def reloadBase (s : State) (n : Nat) : State :=
  if (s.base n).reload then
    markCrossed (s.updBase n fun b =>
      { b with val := ((b.val : Int) - b.offset * 2 ^ 24).toNat, offset := 0, reload := false, slewRem := 0, slewFrac := 0 })
      n (s.base n).val
  else s

/-- The stream closes after the row before the one in production: its steps are taken, its skeins end, its rows go to
frames, measurements and rotation steps end. -/
def closeStream (s : State) (endc : Nat) : State :=
  if s.rowOpen then
    let s := stepRest 5 s
    let s := cutAll s (s.flt.rows.row - 1) endc
    let s := calRestart (assembleRest s)
    let s := (List.range 32).foldl rotPause s
    [0, 1].foldl reloadBase { s with
      flt := { s.flt with rows := { s.flt.rows with phase := .closed } }
      time := { s.time with gridRem := 0, gridFrac := 0 } }
  else s

/-- Which wait a new epoch begins with; during a bind-off none begins (R165, R244, R261, R577). A start that is given, by a START
or by a wake from WATCH (R570), waits for no SYNC (DESIGN CHOICE for the wake, notes/assumptions/23.md). -/
def State.waitPhase (s : State) (startAt : Option Fns) : StreamPhase :=
  if s.flt.rows.refused || s.pm.binding.isSome || s.pm.emergency then .closed
  else if !baseLoaded s.selBase then .waitBase
  else if startAt.isNone && (s.pat.f sRow 0 1 1).testBit 0 then .waitSync
  else .waitStart

/-- A timer that runs on into a new epoch keeps the rows that it has counted. -/
def Tmr.rebase (t : Tmr) (rows : Nat) : Tmr := { t with startRow := t.startRow - rows }

/-- A sequencer at the start of an epoch: hold-off and a pending OPEN end, AUTO_ARM arms it at row 0 (R287, R293). -/
def Seq.newEpoch (q : Seq) (auto : Bool) (rows : Nat) : Seq :=
  { q with
    hold := none, pendingOpen := none, late := 0
    armAt := if auto && q.run ≠ .halted then some 0 else q.armAt.map fun _ => 0
    disarmAt := q.disarmAt.map fun _ => 0
    tmr := q.tmr.map (·.rebase rows) }

/-- An overload that cleared in a row that is not produced leaves nothing (R612), and no slice is unsettled beyond the epoch. -/
def endOverloads (s : State) : State :=
  { s with flt := { s.flt with
    slices := Tbl.updAll Slice.init s.flt.slices (s.flt.slices.map (·.1)) fun _ x =>
      { x with ovl := if 3 ≤ x.ovl then 0 else x.ovl, ovlLast := false, unsEnd := 0 } } }

/-- A new row epoch is prepared under the pattern in force: nothing of the old rows is held, comparators and motion windows
start again, every channel carries UNS from row 0 for L rows (R158, R171, R192, R298). A stitch that overflows in row 0 is reported
again, whatever the last row of the old epoch held (R203; DESIGN CHOICE, notes/assumptions/13.md). -/
def openStream (s : State) (readyAt : Fns) (startAt : Option Fns) : State :=
  let rows := s.flt.rows.row
  let s := [0, 1].foldl reloadBase s
  let since := s.pat.bufs.foldl (fun t k => Tbl.set none t k (some 0)) []
  let s := { s with
    flt := { s.flt with
      rows := { s.flt.rows with
        phase := s.waitPhase startAt, row := 0, start := 0, last := 0, readyAt := readyAt, startAt := startAt }
      chain := { cur := s.pat.chain, k := s.pat.k, old := none, switched := 32, transEnd := 0 }
      sync := { s.flt.sync with pending := 0 }
      chans := Tbl.updAll Chan.init s.flt.chans (s.flt.chans.map (·.1)) fun _ c => { c with unsEnd := 0, rcf := false, hnd := false }
      chainI := [], chainQ := [], skewRows := [], inPhase := [], quad := []
      thrState := 0, thrInit := 0, thrEvent := s.flt.thrEvent, thrRise := 0, thrFall := 0, recent := [] }
    cal := { s.cal with swRow := [] }
    lin := { s.lin with motion := [], ovfCh := 0, ovfWp := 0, wpRcf := 0, wpPast := [], linRcf := 0 }
    fe := { s.fe with nextRow := 0 }
    cap := { s.cap with
      since := since
      seqs := Tbl.updAll Seq.init s.cap.seqs [0, 1, 2, 3] fun n q => q.newEpoch (autoArm s.pat n) rows
      skeins := s.cap.skeins.map fun k => if k.closed then k else { k with gone := true } } }
  historiesClear (unsRows (endOverloads s) allChans 0 0)

/-- The stream waits no longer for its base (R244). -/
def baseReady (s : State) : State :=
  if s.flt.rows.phase = .waitBase ∧ baseLoaded s.selBase then
    { s with flt := { s.flt with rows := { s.flt.rows with phase := s.waitPhase s.flt.rows.startAt, readyAt := s.selBase.val } } }
  else s

/-- A restart-class change of the pattern between two epochs (R482): every change is in force from row 0. `s` has no row in
production; the new stream is ready at `readyAt` of the base that the grid follows now. -/
def restartWith (s : State) (p : Pat) (ks : List Nat) (readyAt : Fns) (startAt : Option Fns) (counts : Bool) : State :=
  let old := s.pat
  let moves := old.f sTime 0 0 1 ≠ p.f sTime 0 0 1 && p.f sTime 0 0 1 ≠ s.time.selected
  let delta : Int := if moves then s.baseDelta else 0
  let s := { s with
    mbx := { s.mbx with force := p }
    flt := { s.flt with rows := { s.flt.rows with epoch := if counts then (s.flt.rows.epoch + 1) % 65536 else s.flt.rows.epoch } }
    time := { s.time with selected := if moves then p.f sTime 0 0 1 else s.time.selected } }
  let s := ringConfigured s (old.f sTime 0 7 1 ≠ p.f sTime 0 7 1) (touches sRing ks)
  let s := openStream s ((readyAt : Int) + delta).toNat startAt
  let s := if touches sChain ks then { s with flt := { s.flt with chain := { s.flt.chain with transEnd := s.flt.chain.cur.l } } } else s
  switchAll old ks s

/-! ### The root's ledger (R378, R379) -/

/-- Set this station's own entry, on the root. -/
def ledgerOwn (s : State) (g : Nat) : State :=
  if s.isRoot && s.ring.enumerated then { s with ring := { s.ring with ledger := Tbl.set 0 s.ring.ledger s.ring.station g } } else s

/-- The rate of the pattern in force now: the root's own entry follows it, and a member whose rate has fallen tells the root, which
needs no request and gives no answer that the member waits for (R379; DESIGN CHOICE for the message, notes/assumptions/28.md). -/
def rateTaken (s : State) (was : Nat) : State :=
  if s.isRoot then ledgerOwn s s.pat.gS
  else if s.ring.enumerated && s.pat.gS < was then sendMgmt s 0 5 (le 4 s.pat.gS ++ le 6 s.flt.rows.row ++ zeros 2)
  else s

/-- A commit that the root had admitted is not made after all: the rate in force stands again in the ledger (R379). -/
def rateBack (s : State) (c : Commit) : State :=
  if s.isRoot then ledgerOwn s s.admitted
  else if s.ring.enumerated && s.admitted < c.pat.gS then sendMgmt s 0 5 (le 4 s.admitted ++ le 6 s.flt.rows.row ++ zeros 2)
  else s

/-- Lower rates that stations have announced take effect with the row in production (R379). -/
def lowerRates (s : State) : State :=
  let due := s.ring.lowering.filter (·.2.2 ≤ s.flt.rows.row)
  if due.isEmpty then s
  else { s with ring := { s.ring with
    ledger := due.foldl (fun t r => Tbl.set 0 t r.1 r.2.1) s.ring.ledger
    lowering := s.ring.lowering.filter fun r => s.flt.rows.row < r.2.2 } }

/-- Whether the ledger has room for a station's new rate. -/
def State.ledgerRoom (s : State) (station g : Nat) : Bool :=
  ledgerSum s.ring.ledger - Tbl.get 0 s.ring.ledger station + g ≤ s.ledgerLimit

/-! ### Acceptance -/

/-- The commit is accepted: it becomes pending, or, with no row stream, it takes effect at once (notes/assumptions/19.md). -/
def acceptCommit (s : State) (c : Commit) : State :=
  let s := { s with mbx := { s.mbx with
    staged := none, stageOwner := 0, wait := none, commits := sat 65535 (s.mbx.commits + 1) } }
  if s.rowOpen then
    { s with mbx := { s.mbx with pending := some { c with row := Nat.max c.row (s.flt.rows.row + 1) } } }
  else
    let was := s.flt.rows
    let s := if was.refused then { s with flt := { s.flt with rows := { s.flt.rows with refused := false } } } else s
    let restart := c.cls / 4 % 2 = 1
    let ready := if restart then s.instant + 10 * msF else Nat.max was.readyAt s.selBase.val
    let s := rateTaken (restartWith (if restart then sendLeaving s 6 else s) c.pat c.keys ready was.startAt true) s.admitted
    let s := if was.phase = .closed ∧ !was.refused then
        { s with flt := { s.flt with rows := { s.flt.rows with phase := .closed } } } else s
    emit s 0x5053 c.owner s.flt.rows.epoch

/-- Steps 5 to 7: audit records, the swatch store, acceptance. An answer of none waits for SWATCH_STORE_WRITTEN. -/
def commitAudit (s : State) (w : CommitWait) : State × Option Ans :=
  let recs := commitRecords s.pat w.commit
  let held := (holdSerial s).leases
  match gateAll w.commit.row recs s with
  | (.busy, _) => ({ s with mbx := { s.mbx with wait := none } }, some (Ans.err stBusy 0))
  | (.full, _) => ({ s with mbx := { s.mbx with wait := none } }, some (Ans.err stTrailFull 0))
  | (.accepted, s) =>
    let s := reportRecords w.commit recs s
    if touches sSwatch w.commit.keys then
      (holdSerial { s with mbx := { s.mbx with wait := some { w with onRing := false } }, leases := held }, none)
    else (acceptCommit s w.commit, some (commitAnswer s w.commit))

/-- A skew measurement runs: no change of SKW_CFG is committed during its window (R229). -/
def State.skewRuns (s : State) : Option Nat :=
  match s.cal.running with
  | some m => if m.kind = .skew then some m.via else none
  | none => none

/-- Steps 2 to 7 (R477, R379). -/
def commitSteps (s : State) (w : CommitWait) : State × Option Ans :=
  let p := w.commit.pat
  match s.patternAns p with
  | some a => (s, some a)
  | none =>
    if touches sSkw w.commit.keys && s.skewRuns.isSome then (s, some (Ans.err stBusy (s.skewRuns.getD 0)))
    else if touches sSwatch w.commit.keys && s.serialShut 1 then (s, some (Ans.err stBusy 0))
    else if !memoryOk p then (s, some (Ans.err stNoResource 0))
    else if s.admitted < p.gS then
      if s.isRoot then
        if s.ring.enumerated && !s.ledgerRoom s.ring.station p.gS then (s, some (Ans.err stNoResource 0))
        else
          let r := commitAudit (ledgerOwn s p.gS) w
          (if r.2.any (·.status ≠ stOk) then (rateBack r.1 w.commit, r.2) else r)
      else
        let s := { s with mbx := { s.mbx with wait := some { w with onRing := true } } }
        (sendMgmt s 0 5 (le 4 p.gS ++ le 6 w.commit.row ++ zeros 2), none)
    else commitAudit s w

/-- A commit of the staged pattern for a row, or for the earliest (0). -/
def State.stagedCommit (s : State) (owner row : Nat) : Option Commit :=
  s.mbx.staged.map fun p =>
    let ks := patDiff s.pat p
    let p := sealSwatches s s.pat ks p
    let c : Commit := ⟨p, row, patClass s.pat p ks, owner, ks⟩
    if row = 0 then { c with row := if s.rowOpen then s.earliest (s.lead c) else 0 } else c

/-- Row S meets its lead; with no row stream there is no row to wait for. -/
def State.leadOk (s : State) (c : Commit) : Bool :=
  !s.rowOpen || (s.flt.rows.row < c.row && s.instant + s.lead c ≤ s.startOf c.row)

/-! ### COMMIT_AT (R477, R478, R493) -/

/-- One commit runs at a time; a COMMIT_AT that names the row of a time event's COMMIT shares its outcome (R272). -/
def commitBody (s : State) (h : CmdHdr) (p : Bytes) : State × Option Ans :=
  let tag := viaTag h.via
  match s.mbx.pending, s.mbx.wait, s.stagedCommit tag (fld p 0 6) with
  | some c, _, none =>
    if c.owner = 1 ∧ c.row = fld p 0 6 then answer s (commitAnswer s c) else answer s (Ans.err stBusy c.owner)
  | some c, _, some _ => answer s (Ans.err stBusy c.owner)
  | none, some w, _ =>
    if s.rowOpen && w.te.isSome && w.hdr.isNone && w.commit.row = fld p 0 6 then
      ({ s with mbx := { s.mbx with wait := some { w with hdr := some h } } }, none)
    else answer s (Ans.err stBusy w.commit.owner)
  | none, none, none => answer s (Ans.err stNotStaged 0)
  | none, none, some c =>
    if s.mbx.stageOwner ≠ tag then answer s (Ans.err stBusy s.mbx.stageOwner)
    else if !s.leadOk c then answer s (Ans.err stLate 0)
    else commitSteps s ⟨some h, none, c, false⟩

/-- COMMIT_AT; a refusal with LATE, whatever its reason, counts in LATE_COUNT (R486). -/
def cmdCommitAt (h : CmdHdr) (p : Bytes) (s : State) : State :=
  let t := mailbox 0x0103 (form 8 fun p => [rsv p 6 2]) commitBody h p { s with mbx := { s.mbx with last := none } }
  match t.mbx.last with
  | none => { t with mbx := { t.mbx with last := s.mbx.last } }
  | some r =>
    if r.status = stLate then { t with mbx := { t.mbx with lateCount := sat 65535 (t.mbx.lateCount + 1) } } else t

def execCommitAt (h : CmdHdr) (p : Bytes) (s : State) : Host.Outcome State Fault Refusal := .next (cmdCommitAt h p s)

/-! ### A time event's COMMIT (R271, R272, R485, R493) -/

def teResult (s : State) (n r : Nat) (code : Nat) : State := emit (s.updTev n fun e => { e with result := r }) code n 0

/-- The steps of a commit that a time event started have ended: the staged pattern stays staged where one failed. -/
def eventEnds (s : State) (n : Nat) (a : Option Ans) : State :=
  match a with
  | some a => if a.status = stOk then s else teResult s n 1 0x3032
  | none => s

/-- COMMIT of time event `n` at the earliest row that meets the lead; owner 1 names the control core (R470). A COMMIT_AT that
names the same row has committed the staged pattern, and both end OK; another time event has left nothing staged (R272). -/
def eventCommit (s : State) (n : Nat) : State :=
  let same := fun (c : Commit) => c.owner ≠ 1 ∧ c.row = s.earliest (s.lead c)
  match s.mbx.pending, s.mbx.wait, s.stagedCommit 1 0 with
  | some c, _, _ => if same c then s else teResult s n 1 0x3032
  | none, some w, _ =>
    if same w.commit && w.te.isNone then { s with mbx := { s.mbx with wait := some { w with te := some n } } }
    else teResult s n 1 0x3032
  | none, none, none => teResult s n 1 0x3032
  | none, none, some c =>
    let r := commitSteps s ⟨none, some n, c, false⟩
    eventEnds r.1 n r.2

/-! ### What ends a commit's wait -/

/-- Answer whoever waits for a commit: the mailbox, a time event, or both. -/
def endWait (s : State) (w : CommitWait) (a : Option Ans) : State :=
  let s := match w.hdr, a with
    | some h, some a =>
      let s := if a.status = stLate then { s with mbx := { s.mbx with lateCount := sat 65535 (s.mbx.lateCount + 1) } } else s
      respond s 0x0103 h a
    | _, _ => s
  match w.te with
  | some n => eventEnds s n a
  | none => s

/-- ADMIT_RSP, or none within 1 ms, for a commit (R379, R493). -/
def admitAnswer (s : State) (granted : Bool) : State :=
  match s.mbx.wait with
  | some w =>
    if w.onRing then
      let s := { s with mbx := { s.mbx with wait := none } }
      if granted then
        let r := commitAudit s w
        endWait (if r.2.any (·.status ≠ stOk) then rateBack r.1 w.commit else r.1) w r.2
      else endWait s w (some (Ans.err stNoResource 0))
    else s
  | none => s

/-! ### The swatch store (R210, R212, R484) -/

def swatchOk (b : Bytes) : Bool := b.length = 32 && swatchSeal b == b
def swatchSeq (b : Bytes) : Nat := fld b 12 4

/-- A channel's record of highest SEQ with a correct CHECK (R212). -/
def State.storedSwatch (s : State) (ch : Nat) : Option Bytes :=
  let a := Tbl.get [] s.cal.store0 ch
  let b := Tbl.get [] s.cal.store1 ch
  if swatchOk a && swatchOk b then some (if swatchSeq a < swatchSeq b then b else a)
  else if swatchOk a then some a else if swatchOk b then some b else none

/-- Write a record into the copy that does not hold the swatch in force. -/
def storeSwatch (s : State) (ch : Nat) (b : Bytes) : State :=
  if Tbl.get [] s.cal.store0 ch = s.pat.str sSwatch ch then s.updCal fun c => { c with store1 := Tbl.set [] c.store1 ch b }
  else s.updCal fun c => { c with store0 := Tbl.set [] c.store0 ch b }

/-- Program SEQ to 0 in the copy that holds a record. -/
def unstoreSwatch (s : State) (ch : Nat) (b : Bytes) : State :=
  let bad := b.take 12 ++ zeros 4 ++ b.drop 16
  let fix := fun (t : Tbl Bytes) => if Tbl.get [] t ch = b then Tbl.set [] t ch bad else t
  s.updCal fun c => { c with store0 := fix c.store0, store1 := fix c.store1 }

def swatchKeys (ks : List Nat) : List Nat := (ks.filter fun k => k / 65536 = sSwatch).map (· % 65536)

/-- SWATCH_STORE_WRITTEN (R210 step 3): the changed records are written and read back, or the commit is refused. -/
def swatchWritten (s : State) (ok : Bool) : State :=
  match s.mbx.wait with
  | some w =>
    if w.onRing || s.serialHolder ≠ 1 then s
    else if ok then
      let s := (swatchKeys w.commit.keys).foldl (fun s ch => storeSwatch s ch (w.commit.pat.str sSwatch ch)) s
      let a := commitAnswer s w.commit
      endWait (endSerial (acceptCommit s w.commit)) w (some a)
    else endWait (endSerial (rateBack { s with mbx := { s.mbx with wait := none } } w.commit)) w (some (Ans.err stNoResource 0))
  | none => s

def execSwatchStoreWritten (ok : Bool) (s : State) : Host.Outcome State Fault Refusal :=
  .next (if s.pm.emergency then s else swatchWritten s ok)

/-! ### Cancelling (R484, R493) -/

/-- SWATCH_REVERTED: its audit record, and its report with the digests (R231, R212, R484). -/
def swatchReverted (s : State) (n old new : Nat) : State :=
  emit (auditNote s 0x1031 n old new) 0x1031 n (old % 2 ^ 32 + 2 ^ 32 * (new % 2 ^ 32))

/-- The pending commit is withdrawn: new swatch records are invalidated and SWATCH_REVERTED is handed over. -/
def cancelCommit (s : State) : State :=
  match s.mbx.pending with
  | none => s
  | some c =>
    let chs := swatchKeys c.keys
    let s := chs.foldl (fun s ch => unstoreSwatch s ch (c.pat.str sSwatch ch)) s
    let s := if chs.isEmpty then s
      else swatchReverted s chs.length (head8 (structDigest c.pat sSwatch 256)) (head8 (structDigest s.pat sSwatch 256))
    emit (rateBack { s with mbx := { s.mbx with pending := none } } c) 0x5054 c.owner s.flt.rows.epoch

def cmdCommitCancel : CmdHdr → Bytes → State → State :=
  mailbox 0x0104 formEmpty fun s _ _ =>
    match s.mbx.pending with
    | none => answer s (Ans.err stNotStaged 0)
    | some c =>
      if s.instant + Nat.max (2 * s.tRow) msF ≤ s.startOf c.row ∧ s.flt.rows.row < c.row then answer (cancelCommit s) Ans.done
      else answer s (Ans.err stLate 0)

def execCommitCancel (h : CmdHdr) (p : Bytes) (s : State) : Host.Outcome State Fault Refusal := .next (cmdCommitCancel h p s)

end Sys2Proof.Machine
end

