-- ==== Sys2Proof/Machine/Teds.lean ====
section
/-!
DEFINITION. TEDS scans, their cache and the proposals formed from it (R77–R82).
-/
namespace Sys2Proof.Machine

/-- The node associated with a channel position: TEDS_MAP names its ROM, 0 meaning none (R78). -/
def State.tedsNode (s : State) (p : Pat) (cl pos : Nat) : Option TedsNode :=
  let rom := p.f sTedsMap cl (8 * pos) 8
  if rom = 0 then none else (Tbl.get [] s.pm.teds cl).find? fun n => n.rom.toNat == rom

/-- Something may be taken from a node: its checksum is good. A node with a template that is not supported gives its other
contents (R77, R79). -/
def nodeGood (n : TedsNode) : Bool := n.checkOk

/-- The excitation limit of a node in millivolts: the maximum, or the nominal value where that is lower. -/
def nodeLimit (n : TedsNode) : Nat :=
  if n.maxMv = 0 then n.nomMv else if n.nomMv = 0 then n.maxMv else Nat.min n.maxMv n.nomMv

/-- AMPLITUDE proposal under a driver mode: the largest code whose V_EX the limit allows; 0 where no code does or the
template gives no limit. A parked driver is taken as SINE (notes/assumptions/15.md). -/
def nodeAmp (n : TedsNode) (mode : Nat) : Nat :=
  let m := nodeLimit n
  let fits := fun c => if mode = 0 then 250 * c ≤ m else (125 * c) ^ 2 ≤ 2 * m ^ 2
  let codes := if mode = 0 then (List.range 11).drop 1 else (List.range 21).drop 2
  if m = 0 then 0 else ((codes.filter fits).getLast?).getD 0

/-- Gain proposal: the largest G with 500/G mV/V at least 1.1 times the rated output; code 0 where none is given. -/
def nodeGain (n : TedsNode) : Nat :=
  if n.ratedNv = 0 then 0
  else (((List.range 8).filter fun c => 11 * n.ratedNv * 2 ^ c ≤ 5000000000).getLast?).getD 0

/-- The smallest AMPLITUDE that any associated node of the cluster proposes (R80): what TEDS_APPLY copies, formed from the
TEDS_MAP and the MODE of the pattern that it stages into, where TEDS_READ shows a node's own proposal under the pattern in
force (notes/assumptions/15.md). -/
def State.clusterAmplitude (s : State) (p : Pat) (cl : Nat) : Nat :=
  let mode := p.f sExc cl 0 1
  let cs := ((List.range 8).filterMap fun pos => s.tedsNode p cl pos).filter nodeGood
  let as := (cs.map fun n => nodeAmp n mode).filter (· ≠ 0)
  as.foldl (fun a b => if a = 0 then b else Nat.min a b) 0

/-- TEDS_SCAN (R79): the bus of one cluster. -/
def cmdTedsScan : CmdHdr → Bytes → State → State :=
  mailbox 0x0200 (form 1 fun p => [(0, fld p 0 1 < 32)]) fun s h p =>
    let cl := fld p 0 1
    let by_ := Tbl.get 0 s.pm.tedsScan cl
    if by_ ≠ 0 then answer s (Ans.err stBusy by_)
    else answer { s with pm := { s.pm with tedsScan := Tbl.set 0 s.pm.tedsScan cl (viaTag h.via) } } Ans.done

def execTedsScan (h : CmdHdr) (p : Bytes) (s : State) : Host.Outcome State Fault Refusal := .next (cmdTedsScan h p s)

/-- The scans of cast-on begin on a die whose drivers have left their ramp (R79, R562, R573); the control core runs them. -/
def tedsBegin (s : State) (d : Nat) : State :=
  let due := (dieClusters d).filter s.pm.tedsDue.testBit
  let busy := (dieClusters d).any fun cl => (s.cluster cl).drv.st = .check || (s.cluster cl).drv.st = .ramp
  if due.isEmpty || busy || (s.die d).unpark || !(s.die d).powered then s
  else { s with pm := { s.pm with
    tedsDue := due.foldl (fun m cl => bitSet m cl false) s.pm.tedsDue
    tedsScan := due.foldl (fun t cl => if Tbl.get 0 t cl = 0 then Tbl.set 0 t cl 1 else t) s.pm.tedsScan } }

/-- Reports of one node that a scan has read. -/
def tedsReport (cl : Nat) (s : State) (n : TedsNode) : State :=
  if !n.checkOk then emit s 0x2052 (scopeCl cl) n.rom.toNat
  else if !n.supported then emit s 0x2053 (scopeCl cl) n.rom.toNat
  else s

/-- Nodes on a bus that TEDS_MAP does not name (R78). -/
def State.tedsStray (s : State) (cl : Nat) (nodes : List TedsNode) : List TedsNode :=
  nodes.filter fun n => !((List.range 8).any fun pos => s.pat.f sTedsMap cl (8 * pos) 8 == n.rom.toNat)

/-- TEDS_SCAN_DONE (R78, R79, R82): the cache takes the nodes; the report tells how many there are and how many of them are
associated with no channel (notes/assumptions/15.md). A faulty bus ends the scan of its cluster, and the cache
stays. DESIGN CHOICE (notes/assumptions/15.md): such a scan reports TEDS_BUS_FAULT alone, without TEDS_SCAN_DONE. -/
def execTedsScanDone (cl : Nat) (nodes : Option (List TedsNode)) (s : State) : Host.Outcome State Fault Refusal :=
  .next (if Tbl.get 0 s.pm.tedsScan cl ≠ 0 ∧ (s.die (clDie cl)).powered = true then
      let s := { s with pm := { s.pm with tedsScan := Tbl.set 0 s.pm.tedsScan cl 0 } }
      match nodes with
      | none => emit s 0x2051 (scopeCl cl) 0
      | some l =>
        let s := { s with pm := { s.pm with teds := Tbl.set [] s.pm.teds cl l } }
        emit (l.foldl (tedsReport cl) s) 0x2050 (scopeCl cl) (args [l.length, (s.tedsStray cl l).length])
    else s)

/-- TEDS_READ: the node's ROM, validity, proposals and bytes; all 0 after the ROM where no node was read. -/
def cmdTedsRead : CmdHdr → Bytes → State → State :=
  mailbox 0x0201 (form 2 fun p => [(0, fld p 0 1 < 32), (1, fld p 1 1 < 8)]) fun s _ p =>
    let cl := fld p 0 1
    let pos := fld p 1 1
    let rom := slice (s.pat.str sTedsMap cl) (8 * pos) 8
    match s.tedsNode s.pat cl pos with
    | none => answer s (Ans.ok (rom ++ zeros 32))
    | some n =>
      let good := nodeGood n
      let cs := (List.range 6).map fun k => (n.coeffs.getD k 0).toNat
      answer s (Ans.ok (rom ++ le 1 (1 + 2 * b2n n.checkOk + 4 * b2n n.supported) ++
        le 1 (if good then nodeAmp n (s.excMode cl) else 0) ++ le 1 (if good then nodeGain n else 0) ++ zeros 1 ++
        (cs.map fun c => le 4 (if good then c else 0)).flatten ++ le 2 n.bytes.length ++ zeros 2 ++ n.bytes))

def execTedsRead (h : CmdHdr) (p : Bytes) (s : State) : Host.Outcome State Fault Refusal := .next (cmdTedsRead h p s)

/-- Copy the proposals of one position into a pattern. -/
def applyNode (n : TedsNode) (cl pos what : Nat) (p : Pat) : Pat :=
  let p := if what.testBit 1 then p.setStr sSlc cl (putFld (p.str sSlc cl) pos 1 (nodeGain n)) else p
  if what.testBit 2 && !n.coeffs.isEmpty then
    let ch := 8 * cl + pos
    let cs := ((List.range 6).map fun i => le 4 (n.coeffs.getD i 0).toNat ++ zeros 12).flatten
    p.setStr sLin ch ((p.str sLin ch).take 8 ++ cs)
  else p

/-- Every coefficient that would be staged is a finite binary32 (R178, R179, R474). -/
def seedsOk (n : TedsNode) : Bool := n.coeffs.all fun c => finite32 c.toNat

/-- TEDS_APPLY (R81). A named position without a good node, an excitation that no code meets, or seeds that LIN_CFG does not
allow (R179), are refused. -/
def cmdTedsApply : CmdHdr → Bytes → State → State :=
  mailbox 0x0202 (form 4 fun p => [(0, fld p 0 1 < 32), (2, fld p 2 1 < 8), rsv p 3 1]) fun s h p =>
    if s.isSealed then answer s (Ans.err stSealed 0) else
      let cl := fld p 0 1
      let mask := fld p 1 1
      let what := fld p 2 1
      stage s h fun base =>
        let amp := s.clusterAmplitude base cl
        let nodes := (bitsOf 8 mask).map fun pos => (pos, s.tedsNode base cl pos)
        if nodes.any fun e => match e.2 with
            | some n => !nodeGood n || (what.testBit 2 && !seedsOk n)
            | none => true then .inr (Ans.err stBadParam 1)
        else if what.testBit 0 && amp = 0 then .inr (Ans.err stBadParam 2)
        else
          let q := nodes.foldl (fun q e => match e.2 with
            | some n => applyNode n cl e.1 what q
            | none => q) base
          .inl (if what.testBit 0 then q.setStr sExc cl (putFld (q.str sExc cl) 2 1 amp) else q)

def execTedsApply (h : CmdHdr) (p : Bytes) (s : State) : Host.Outcome State Fault Refusal := .next (cmdTedsApply h p s)

end Sys2Proof.Machine
end

