-- ==== Sys2Proof/Machine/Sync.lean ====
section
/-!
DEFINITION. SYNC by command, by the SYNC_IN ball and by a time event (R165–R167), and FIR_READ (R151).
-/
namespace Sys2Proof.Machine

/-- The device takes no notice of a SYNC: WATCH, DOZE, or no field die powered (R166). -/
def State.syncDeaf (s : State) : Bool := s.pm.st ≠ .active || !((s.die 0).powered || (s.die 1).powered)

/-- Every chain restarts at the boundary that starts row `rows.row`, whose samples are still to be taken. -/
def syncActs (s : State) (src : Nat) : State :=
  let n := s.flt.rows.row
  let s := { s with flt := { s.flt with sync := { s.flt.sync with lastRow := n } } }
  let s := restartChains (unsSlices (unsRows s allChans n 0) (List.range 288) n) (List.range 288)
  emit ((List.range 32).foldl (fun s cl => rotDisturb s cl n) s) 0x3040 src n

/-- The instant of a SYNC: an edge at SYNC_IN has its filter's date (R509). -/
def State.syncAt (s : State) (src : Nat) : Fns := if src = 1 then s.dated 16 else s.instant

/-- A SYNC_IN edge whose date is the last boundary, or lies before it, acts at that boundary unless a SYNC has acted there
(R166, R509); one dated before the stream's start was only counted there (R165). -/
def syncLate (s : State) (src : Nat) : State × Nat :=
  let n := s.flt.rows.row
  if s.syncAt src < s.flt.rows.start then (s, 0)
  else if s.flt.sync.lastRow = n && 0 < n then (s, n) else (syncActs s src, n)

/-- A SYNC from a source: counted, and acting as the row stream's state says. The answer is the row at which it acts, 0 where
it is only counted. While the epoch waits for its base a SYNC is only counted; in waitSync it starts the epoch, also before the
10 ms of R482 have passed (DESIGN CHOICE, notes/assumptions/23.md). -/
def doSync (s : State) (src : Nat) : State × Nat :=
  let s := { s with flt := { s.flt with sync := { s.flt.sync with count := sat 65535 (s.flt.sync.count + 1), lastSrc := src } } }
  if s.syncDeaf then (s, 0)
  else match s.flt.rows.phase with
    | .waitSync =>
      ({ s with flt := { s.flt with
        rows := { s.flt.rows with phase := .waitStart, startAt := some (ceilDiv (s.syncAt src) (160 * nsF) * (160 * nsF)) }
        sync := { s.flt.sync with pending := src } } }, 0)
    | .running =>
      if src = 1 && s.dated 16 ≤ s.flt.rows.last then syncLate s src
      else ({ s with flt := { s.flt with sync := { s.flt.sync with pending := if s.flt.sync.pending = 0 then src else s.flt.sync.pending } } },
        s.flt.rows.row + 1)
    | _ => (s, 0)

def cmdSync : CmdHdr → Bytes → State → State :=
  mailbox 0x0211 formEmpty fun s _ _ => let r := doSync s 2; answer r.1 (Ans.ok (le 6 r.2))

def execSync (h : CmdHdr) (p : Bytes) (s : State) : Host.Outcome State Fault Refusal := .next (cmdSync h p s)

/-- The offset of the date of a SYNC_IN edge (R509) from the nearest row boundary, midway from the one before (R167). -/
def State.syncOffset (s : State) : Int :=
  let after : Int := (s.dated 16 : Int) - s.flt.rows.last
  let before : Int := (s.rowEnd : Int) - s.dated 16
  if after ≤ before then after else -before

/-- An active edge at SYNC_IN (R166): PHASE_ERR in units of 10 ns. -/
def execSyncIn (s : State) : Host.Outcome State Fault Refusal :=
  let s1 := if s.rowOpen then
      let off := 100 * nsF < s.syncOffset.natAbs
      let err := clampI (-(2 ^ 31)) (2 ^ 31 - 1) (quot s.syncOffset (10 * nsF))
      let s := { s with flt := { s.flt with sync := { s.flt.sync with phaseErr := err, offGrid := s.flt.sync.offGrid || off } } }
      if off then emit s 0x3041 1 (unsigned 32 err) else s
    else s
  .next (doSync s1 1).1

def cmdFirRead : CmdHdr → Bytes → State → State :=
  mailbox 0x0212 (form 2 fun p => [(0, fld p 0 1 < 6), (1, inR 3 5 (fld p 1 1))]) fun s _ p =>
    answer s (Ans.ok ((romTaps (fld p 0 1) (fld p 1 1)).map fun t => le 4 t.toNat).flatten)

def execFirRead (h : CmdHdr) (p : Bytes) (s : State) : Host.Outcome State Fault Refusal := .next (cmdFirRead h p s)

end Sys2Proof.Machine
end

