-- ==== Sys2Proof/Machine/Wake.lean ====
section
/-!
DEFINITION. Waking from WATCH, DOZE and COCOON (R566–R570, R572, R589): the sources, the new row epoch of a wake from WATCH,
and the sentinel samples (R569). notes/assumptions/24.md.
-/
namespace Sys2Proof.Machine

/-! ### What a wake does -/

/-- FIELD_EN of a die (R587). -/
def State.fieldEn (s : State) (d : Nat) : Bool := (s.pat.f sPwr 0 4 1).testBit d

/-- The power manager may power a die (R562, R84, R582). -/
def State.dieCan (s : State) (d : Nat) : Bool :=
  s.fieldEn d && (s.die d).railsOk && !(s.die d).reversed && !(s.die d).alarmed

/-- A die's power-up sequence starts (R562 step 1). -/
def startDie (s : State) (d : Nat) : State :=
  if s.dieCan d && !(s.die d).powered then s.updDie d fun x => { x with starting := true } else s

/-- A factory trim outside the limits is not loaded, and is reported (R107). -/
def trimCheck (s : State) (sl g : Nat) : State :=
  let t := Config.factoryTrim sl g
  if corrOk t.1 t.2.1 t.2.2 then s else calLimit s sl g t.1 t.2.1

/-- The factory trims replace the correction sets of a die's slices (R107, R562 step 3). -/
def readTrims (s : State) (d : Nat) : State :=
  let s := { s with flt := { s.flt with corr := s.flt.corr.filter fun e => e.1 / 8 / 144 ≠ d } }
  (dieSlices d).foldl (fun s sl => (List.range 8).foldl (fun s g => trimCheck s sl g) s) s

/-- A die is powered with its lanes locked (R562 steps 2 and 3); its clusters leave PARKED later. -/
def dieUp (s : State) (d : Nat) : State :=
  let s := if (s.die d).trimmed then s else readTrims s d
  let s := restartChains s (dieSlices d)
  s.updDie d fun x => { x with powered := true, starting := false, stopRow := none, trimmed := true, lanesLost := [], lanesBack := [] }

/-- CLk is a sentinel cluster. -/
def State.sentinelCl (s : State) (cl : Nat) : Bool := (s.pat.f sPwr 0 0 4).testBit cl

/-- The pattern's excitation of a sentinel cluster is the sentinel excitation: DC at WATCH_AMP (R569, R570). -/
def State.sameAsSentinel (s : State) (cl : Nat) : Bool :=
  s.sentinelCl cl && s.excMode cl = 0 && s.pat.f sExc cl 2 1 = s.pat.f sPwr 0 5 1

/-- A cluster leaves its WATCH excitation with S = 0 (R570 step 4). -/
def leaveWatch (cl : Nat) (s : State) : State :=
  if !(s.die (clDie cl)).powered || s.excMode cl = 3 then s
  else
    let n := if s.sameAsSentinel cl then 0 else rowsOf s 21000000
    unsRows (s.updDrv cl fun d => { d with st := .check, retrying := false }) (clChans cl) 0 n

/-- A base that loses its source keeps its last increment (R240). -/
def Base.hold (b : Base) : Base := if b.st = .acquiring || b.st = .locked then { b with st := .holdover } else b

def holdBases (s : State) : State := { s with time := { s.time with b0 := s.time.b0.hold, b1 := s.time.b1.hold } }

/-- The wake instant plus 1.5 ms, on an f_MOD edge (R570 step 3). -/
def wakeStart (now : Fns) : Fns := let p := 160 * nsF; ceilDiv (now + 1500000 * nsF) p * p

/-- WATCH → ACTIVE (R570). -/
def wakeWatch (s : State) : State :=
  let s := holdBases { restartFilters s with pm := { s.pm with st := .active } }
  let s := openStream s s.selBase.val (some (wakeStart s.selBase.val))
  let s := [0, 1].foldl (fun s d => if s.dieCan d then dieUp s d else s) s
  refreshOutputs (applyRoles ((List.range 32).foldl (fun s cl => leaveWatch cl s) s))

/-- DOZE → ACTIVE: the field dies power up under R562. -/
def wakeDoze (s : State) : State := refreshOutputs (startDie (startDie { restartFilters s with pm := { s.pm with st := .active } } 0) 1)

/-- COCOON → ACTIVE: a full cast-on follows, with RESET_CAUSE 5 (R572), once the logic rails are in range (R561). -/
def wakeCocoon (s : State) : State :=
  let s := { restartFilters s with pm := { s.pm with
    st := .active, resetCause := 5, castOn := false, castOnDone := false, inReset := !s.pm.railsOk } }
  if s.pm.railsOk then s.readStraps else s

/-- The state that a wake of this cycle has left; a second source of that cycle counts with it (R591). -/
def State.wokeFrom (s : State) : Option PwrState := s.pm.woke.bind fun w => if w.1 = s.time.b2.val then some w.2 else none

/-- A wake by the source that LAST_WAKE calls `code`; of two in one cycle LAST_WAKE names the lower (R591). In ACTIVE, and while a
bind-off or an emergency runs, nothing wakes. -/
def wake (s : State) (code subj : Nat) : State :=
  if s.pm.binding.isSome || s.pm.emergency then s
  else
    let st := s.pm.st
    let mark := fun (s : State) => emit { s with pm := { s.pm with lastWake := code, wakeSubj := subj, woke := some (s.time.b2.val, st) } } 0x6002 subj code
    match st with
    | .active =>
      if s.wokeFrom.isSome && code < s.pm.lastWake then { s with pm := { s.pm with lastWake := code, wakeSubj := subj } } else s
    | .watch => mark (wakeWatch s)
    | .doze => mark (wakeDoze s)
    | .cocoon => mark (wakeCocoon s)

/-! ### The sources (R567) -/

/-- WAKE_SRC of PWR_CFG. -/
def State.wakeSrc (s : State) (b : Nat) : Bool := (s.pat.f sPwr 0 7 1).testBit b

/-- What LAST_WAKE and WAKE_SUBJECT name for a source, where it takes part in the present state. -/
def State.wakeCode (s : State) (src : WakeSrc) : Option (Nat × Nat) :=
  let st := s.wokeFrom.getD s.pm.st
  let wd := st = .watch || st = .doze
  match src with
  | .wakeIn => if (if st = .cocoon then s.pm.aonWake else s.wakeSrc 0) then some (1, 18) else none
  | .di n => if wd && s.wakeSrc 1 && (s.pat.f sDi n 1 1).testBit 3 then some (2, n) else none
  | .timeEvent n => if st = .watch && s.wakeSrc 2 && (fld (s.tev n).cfg 1 1).testBit 5 then some (3, n) else none
  | .sentinel ch => if st = .watch && s.wakeSrc 3 then some (4, ch) else none
  | .mgWake => if wd && s.wakeSrc 4 then some (5, 0) else none
  | .sealSw => if st = .watch then some (6, 0) else none

def wakeBy (s : State) (src : WakeSrc) : State :=
  match s.wakeCode src with
  | some (c, n) => wake s c n
  | none => s

def execWake (src : WakeSrc) (s : State) : Host.Outcome State Fault Refusal := .next (wakeBy s src)

/-- RTC_ALARM (R567): only in COCOON, where PWR_STATE has set an alarm. -/
def execRtcAlarm (s : State) : Host.Outcome State Fault Refusal :=
  .next (if s.wokeFrom.getD s.pm.st = .cocoon ∧ s.pm.rtcAlarm ≠ 0 then wake { s with pm := { s.pm with rtcAlarm := 0 } } 7 0 else s)

/-- MG_WAKE (R586): a write of 1 through the 2-wire port. -/
def execMgWake (s : State) : Host.Outcome State Fault Refusal := .next (wakeBy s .mgWake)

/-! ### Sentinels (R569) -/

/-- Comparator 0 of a sentinel channel against its sample. -/
def sentinelOne (s : State) (ch : Nat) (raw : Int) : State × Bool :=
  let (lv, hy, md) := s.pat.thr (2 * ch)
  if md % 4 = 0 || !s.sentinelCl (chCluster ch) then (s, false)
  else
    let sl := s.chSlice ch
    let v := (satCode (s.xc ch (s.corrected sl (s.pat.gain ch) raw))).1
    let (hi, lo) := cmpInt lv hy md v
    let c := cmpRow ⟨s.pm.sentInit.testBit ch, s.pm.sentState.testBit ch, false, false⟩ false hi lo
    ({ s with pm := { s.pm with sentInit := bitSet s.pm.sentInit ch c.init, sentState := bitSet s.pm.sentState ch c.st } }, c.rise)

/-- SENTINEL_SAMPLE: every sentinel channel is tested; the lowest channel that ASSERTs wakes the device. -/
def sentinels (s : State) (samples : List (Nat × Int)) : State :=
  let r := samples.foldl (fun (a : State × List Nat) e =>
    let x := sentinelOne a.1 e.1 e.2
    (x.1, if x.2 then e.1 :: a.2 else a.2)) (s, [])
  match r.2 with
  | [] => r.1
  | ch :: l => wakeBy r.1 (.sentinel (l.foldl Nat.min ch))

def execSentinelSample (samples : List (Nat × Int)) (s : State) : Host.Outcome State Fault Refusal :=
  .next (if s.pm.st = .watch && s.pm.binding.isNone then sentinels s samples else s)

end Sys2Proof.Machine
end

