-- ==== Sys2Proof/Machine/TimeEvent.lean ====
section
/-!
DEFINITION. Time events (R270–R273): TE_ARM, TE_DISARM, the firing with its actions, the events that a forward step or load of
a base crosses, the end of a PULSE, and the passing of time, in which every event fires in its tick.
notes/assumptions/7.md and 25.md.
-/
namespace Sys2Proof.Machine

/-! ### TE_CFG -/

def TimeEv.base (e : TimeEv) : Nat := fld e.cfg 0 1
def TimeEv.does (e : TimeEv) (b : Nat) : Bool := (fld e.cfg 1 1).testBit b
def TimeEv.outMode (e : TimeEv) : Nat := fld e.cfg 2 1
def TimeEv.armMask (e : TimeEv) : Nat := fld e.cfg 3 1
def TimeEv.time (e : TimeEv) : Fns := ofTime96 (fld e.cfg 8 12)
def TimeEv.period (e : TimeEv) : Fns := fld e.cfg 20 6 * nsF

/-- The first TIME + k · PERIOD after an instant. -/
def TimeEv.nextAfter (e : TimeEv) (t : Fns) : Fns :=
  if e.period = 0 then e.time
  else if t < e.time then e.time else e.time + ((t - e.time) / e.period + 1) * e.period

/-! ### Actions (R271) -/

/-- A commit that waits is given up, because a restart comes first. -/
def dropWait (s : State) : State :=
  match s.mbx.wait with
  | some w => endWait { s with mbx := { s.mbx with wait := none } } w (some (Ans.err stBusy 1))
  | none => s

/-- A pending commit before its rows of this epoch end: one whose row has come is completed, another is cancelled. -/
def finishPending (s : State) : State :=
  match s.mbx.pending with
  | none => s
  | some c =>
    if c.row ≤ s.flt.rows.row ∧ c.cls / 4 % 2 = 0 then
      let ks := c.keys.filter fun k => s.pat.str (k / 65536) (k % 65536) != c.pat.str (k / 65536) (k % 65536)
      let old := s.pat
      let s := { s with mbx := { s.mbx with force := c.pat, pending := none } }
      emit (switchAll old ks s) 0x5053 c.owner s.flt.rows.epoch
    else cancelCommit s

/-- START: the old stream ends and a new epoch with B_(−1) = TIME is prepared, under the staged pattern where its commit
succeeds and under the pattern in force otherwise. -/
def eventStart (s : State) (n : Nat) : State :=
  let t := (s.tev n).next
  let s := finishPending (dropWait s)
  let s := restartWith (closeStream s 5) s.pat [] s.selBase.val (some t) false
  match s.stagedCommit 1 0 with
  | none => teResult s n 1 0x3032
  | some c =>
    let r := commitSteps s ⟨none, some n, { c with cls := c.cls ||| 4 }, false⟩
    eventEnds r.1 n r.2

/-- OUTPUT: the output state under OUT_MODE; a PULSE lasts PULSE_WIDTH of TB2. -/
def TimeEv.drive (e : TimeEv) (tb2 : Fns) : TimeEv :=
  match e.outMode with
  | 0 => { e with out := true, pulse := false }
  | 1 => { e with out := false, pulse := false }
  | 2 => { e with out := !e.out, pulse := false }
  | _ => { e with out := true, pulse := true, pulseEnd := tb2 + fld e.cfg 4 4 * 10 * nsF }

/-- The actions of a firing, in their order; in WATCH only OUTPUT and WAKE are carried out (R272). -/
def teActions (s : State) (n : Nat) : State :=
  let e := s.tev n
  let asleep := s.pm.st = .watch
  let missed := asleep && (e.does 0 || e.does 1 || e.does 2 || e.does 4)
  let s := if e.does 0 && !asleep then eventStart s n else s
  let s := if e.does 1 && !asleep then eventCommit s n else s
  let s := if e.does 2 && !asleep then (doSync s 3).1 else s
  let s := if e.does 3 then s.updTev n fun x => x.drive s.time.b2.val else s
  let s := if e.does 4 && !asleep then requestArm s e.armMask true else s
  let s := if missed then teResult s n 2 0x3033 else s
  refreshOutputs (if e.does 5 then wakeBy s (.timeEvent n) else s)

/-! ### Firing (R271–R273) -/

/-- The row N with B_(N−1) < t ≤ B_N, for an instant of the selected base up to the end of the row in production; 0 where none
is. -/
def State.rowAt (s : State) (t : Fns) : Nat :=
  let r := s.flt.rows
  if !s.rowOpen then 0 else if r.last < t then r.row else r.row - 1 - (r.last - t) / s.tRow

/-- The instant of a firing, counted in the selected base: TIME, or now where its base has been carried across it. -/
def State.firedAt (s : State) (e : TimeEv) : Fns :=
  if e.crossed then s.selBase.val else s.selBase.val + e.next - (s.base e.base).val

/-- TEnn fired in a row: the one in production, or one whose step is still to come (R281). -/
def fireMark (s : State) (n row : Nat) : State :=
  if s.rowOpen && row < s.flt.rows.row then
    { s with flt := { s.flt with recent := s.flt.recent.map fun r =>
      if r.row = row then { r with ev := { r.ev with te := bitSet r.ev.te n true } } else r } }
  else { s with ic := { s.ic with teFired := bitSet s.ic.teFired n true } }

/-- Event `n` fires: in its tick, or late when a step or load has carried the base past it. A periodic event goes on at its
next time. -/
def fireEvent (s : State) (n : Nat) : State :=
  let e := s.tev n
  let now := (s.base e.base).val
  let once := e.period = 0
  let late := once && e.crossed
  let row := s.rowAt (s.firedAt e)
  let s := s.updTev n fun e => { e with
    st := if !once then 1 else if late then 3 else 2
    result := 0, fires := sat 65535 (e.fires + 1), row := row, crossed := false
    next := if once then e.next else e.nextAfter (Nat.max now e.next) }
  let s := fireSrc (fireMark s n row) (16 + n)
  teActions (if late then emit s 0x3031 n 0 else s) n

/-- In WATCH events fire on the ticks of CLK_AON (R272), which fall on the multiples of its period of TB2 (DESIGN CHOICE,
notes/assumptions/25.md): CLK_SYS ticks until an event fires. -/
def State.ticksToFire (s : State) (e : TimeEv) : Nat :=
  if s.pm.st = .watch && !e.crossed then
    let p := secF / 32768
    let t := ((s.time.b2.val : Int) + e.next - (s.base e.base).val).toNat
    Nat.max ((s.base e.base).ticksTo e.next) (s.time.b2.ticksTo (ceilDiv t p * p))
  else (s.base e.base).ticksTo e.next

/-- An armed event whose tick has come. -/
def State.timeCome (s : State) (e : TimeEv) : Bool := e.st = 1 && e.next ≤ (s.base e.base).val && s.ticksToFire e = 0

/-- A START fires in this tick with the end of the row in production: then the boundary comes before every event of the tick,
and they act in event-number order after it (R271, R272). -/
def State.startAtEnd (s : State) : Bool :=
  s.time.events.any fun e => e.2.does 0 && s.timeCome e.2 && s.rowEnd ≤ s.firedAt e.2

/-- The row in production ends before a firing, or with a START: its boundary comes first (R271, R273). -/
def State.boundaryFirst (s : State) (e : TimeEv) : Bool :=
  s.rowOpen && (s.rowEnd < s.firedAt e || (s.rowEnd ≤ s.firedAt e && s.startAtEnd))

/-- An armed event fires now. -/
def State.eventDue (s : State) (e : TimeEv) : Bool := s.timeCome e && !s.boundaryFirst e

/-- The events that are due, in event-number order (R272). -/
def fireDue (s : State) : State :=
  (List.range 16).foldl (fun s n => if s.eventDue (s.tev n) then fireEvent s n else s) s

/-- The row stream ends, or the wait for one (R577). -/
def endStream (s : State) : State :=
  let s := closeStream s 8
  fireDue { s with flt := { s.flt with rows := { s.flt.rows with phase := .closed } } }

/-- Steps 3 and 4 of an emergency bind-off (R578): origination stops, and three LEAVING BEATs are sent. -/
def emergencyEnds (s : State) : State := sendLeaving (endStream s) 3

/-! ### Time passes -/

/-- Ticks until the next armed event is due; none where none is. -/
def State.nextFiring (s : State) : Option Nat :=
  s.time.events.foldl (fun a e =>
    if e.2.st = 1 && 0 < s.ticksToFire e.2 then
      let k := s.ticksToFire e.2
      some (match a with | some j => Nat.min j k | none => k)
    else a) none

/-- `k` ticks pass; every event fires in its own. -/
def ticksPass : Nat → Nat → State → State
  | 0, k, s => fireDue (passTime s k)
  | fuel + 1, k, s =>
    match s.nextFiring with
    | some j => if j < k then ticksPass fuel (k - j) (fireDue (passTime s j)) else fireDue (passTime s k)
    | none => fireDue (passTime s k)

def passTicks (s : State) (k : Nat) : State := if s.timeRuns then ticksPass k k s else s

/-- One CLK_SYS tick. -/
def tick (s : State) : State := passTicks s 1

/-- Time passes until base `n` reads `t` or later. -/
def reach (s : State) (n : Nat) (t : Fns) : State :=
  if (s.base n).val < t then passTicks s ((s.base n).ticksTo t) else s

/-- A row boundary comes before `k` ticks have passed, or with `tie` in the same tick: its row is produced first. -/
def State.rowFirst (s : State) (k : Nat) (tie : Bool) : Bool :=
  s.rowOpen && s.selBase.ticksTo s.rowEnd < (if tie then k + 1 else k)

/-- What happens when base `n` reads `t`; nothing yet where a row ends before. -/
def whenReached (s : State) (n : Nat) (t : Fns) (f : State → State) : State :=
  if s.rowFirst ((s.base n).ticksTo t) false then s else f (reach s n t)

/-- TE_FIRE: the base has reached the event's time. -/
def execTeFire (n : Nat) (s : State) : Host.Outcome State Fault Refusal :=
  let e := s.tev n
  .next (if e.st = 1 && s.timeRuns && !s.rowFirst ((s.base e.base).ticksTo e.next) (e.does 0) then
      (if 0 < s.ticksToFire e then passTicks s (s.ticksToFire e) else fireDue s)
    else s)

/-- A PULSE ends. -/
def execTePulseEnd (n : Nat) (s : State) : Host.Outcome State Fault Refusal :=
  .next (if (s.tev n).pulse then
      whenReached s 2 (s.tev n).pulseEnd fun s =>
        refreshOutputs (s.updTev n fun e => if e.pulse && e.pulseEnd ≤ s.time.b2.val then { e with out := false, pulse := false } else e)
    else s)

/-! ### TE_ARM and TE_DISARM (R270, R272) -/

/-- The fields of TE_ARM, its TE_CFG at offset 8, against the selected base. -/
def teArmChecks (s : State) (p : Bytes) : List (Nat × Bool) :=
  let f := fld p
  let act := f 9 1
  let ns := f 18 4
  let per := f 28 6
  let start := act.testBit 0
  [(0, f 0 1 < 16), rsv p 1 7, (8, f 8 1 < 4 && (!start || f 8 1 = s.time.selected)), (9, act < 64), (10, f 10 1 < 4),
    (11, f 11 1 < 16), (12, inR 1 100000000 (f 12 4)),
    (16, f 16 2 = 0 && ns < 1000000000 && ns % 10 = 0 && (!start || (f 22 6 * 1000000000 + ns) % 160 = 0)),
    (28, per = 0 || (10000 ≤ per && per % 10 = 0 && per ≤ 2 ^ 48 - 10 && !start && !act.testBit 1)), rsv p 34 6]

def teArmBody (s : State) (p : Bytes) : State × Option Ans :=
  match firstBad (teArmChecks s p) with
  | some d => answer s (Ans.err stBadParam d)
  | none =>
    let n := fld p 0 1
    let cfg := slice p 8 32
    let t := ofTime96 (fld p 16 12)
    if t ≤ (s.base (fld p 8 1)).val then answer s (Ans.err stLate 0)
    else if (fld p 9 1).testBit 0 && t < s.instant + 2 * s.tRow + 10 * msF then answer s (Ans.err stLate 0)
    else
      answer (s.updTev n fun e =>
        { e with cfg := cfg, st := 1, result := 0, fires := 0, row := 0, next := t, crossed := false }) Ans.done

def cmdTeArm : CmdHdr → Bytes → State → State := mailbox 0x0405 (form 40 fun _ => []) fun s _ p => teArmBody s p

def execTeArm (h : CmdHdr) (p : Bytes) (s : State) : Host.Outcome State Fault Refusal := .next (cmdTeArm h p s)

/-- TE_DISARM clears the event; its output keeps its level. -/
def cmdTeDisarm : CmdHdr → Bytes → State → State :=
  mailbox 0x0406 (form 1 fun p => [(0, fld p 0 1 < 16)]) fun s _ p =>
    answer (s.updTev (fld p 0 1) fun e => { TimeEv.init with out := e.out, pulse := e.pulse, pulseEnd := e.pulseEnd }) Ans.done

def execTeDisarm (h : CmdHdr) (p : Bytes) (s : State) : Host.Outcome State Fault Refusal := .next (cmdTeDisarm h p s)

end Sys2Proof.Machine
end

