-- ==== Sys2Proof/Machine/Boundary.lean ====
section
/-!
DEFINITION. ROW_BOUNDARY and the start of a row stream (R142, R261): production of the row, and at the boundary that starts
the next one the commits and switching rows (R480–R482), SYNC (R165), time switch and grid slew (R266, R267), rotation,
scans, sequencers, reducers and outputs. notes/assumptions/23.md.
-/
namespace Sys2Proof.Machine

/-! ### Commits at a boundary; the row that starts here is `rows.row` (R480–R482) -/

/-- The steps of earlier rows are taken before a commit that changes what a step reads (R34, R289). -/
def stepsFirst (ks : List Nat) (s : State) : State :=
  if touches sTsProg ks || touches sSkc ks || touches sWp ks then stepRest 5 s else s

/-- The grid passes to the other base, and its offset is slewed away (R266, R267). -/
def switchBase (s : State) (n : Nat) : State :=
  let d := s.baseDelta
  let s := { s with
    time := { s.time with selected := n, gridRem := d, gridFrac := 0, switch := none }
    flt := { s.flt with rows := { s.flt.rows with last := ((s.flt.rows.last : Int) + d).toNat } } }
  emit s 0x3010 n (unsigned 64 (d / 2 ^ 16))

/-- Row S of a commit without restart: row-atomic and device-wide changes, and the epoch. -/
def commitRow (c : Commit) (s : State) : State :=
  let n := s.flt.rows.row
  let old := s.pat
  let s := stepsFirst c.keys s
  let ks := c.keys.filter fun k => (keyCluster k).isNone
  let s := { s with
    mbx := { s.mbx with force := patTake s.pat c.pat ks fun _ => true }
    flt := { s.flt with rows := { s.flt.rows with epoch := (s.flt.rows.epoch + 1) % 65536 } } }
  let s := ks.foldl (rowSwitch old n) s
  let s := rebuildBuffers old n s
  let s := if touches sChain c.keys then
      let new := s.pat.chain
      let s := { s with flt := { s.flt with chain := { s.flt.chain with
        old := some s.flt.chain.cur, cur := new, switched := 0, transEnd := n + 31 + new.l } } }
      unsUntil s allChans fun ch => n + ch / 8 + new.l
    else s
  let s := metroAfter ks (rateTaken s old.gS)
  if touches sTime c.keys && old.f sTime 0 0 1 ≠ s.pat.f sTime 0 0 1 && s.pat.f sTime 0 0 1 ≠ s.time.selected then
    switchBase s (s.pat.f sTime 0 0 1)
  else s

/-- Switching row S_c of cluster c. -/
def commitCluster (c : Commit) (cl : Nat) (s : State) : State :=
  let old := s.pat
  let ks := c.keys.filter fun k => keyCluster k = some cl
  let chain := touches sChain c.keys
  let s := { s with
    mbx := { s.mbx with force := patTake s.pat c.pat ks fun _ => true }
    flt := { s.flt with chain :=
      if chain then { s.flt.chain with switched := cl + 1, old := if cl = 31 then none else s.flt.chain.old } else s.flt.chain } }
  metroAfter ks (clusterSwitch old c.keys cl s.flt.rows.row s)

/-- The restart-class commit: the old stream closes, and the new epoch is ready 10 ms later (R482); a base that is loaded when the
stream closes carries the instant with it. -/
def commitRestart (c : Commit) (s : State) : State :=
  let t := closeStream s 5
  let at_ := ((s.flt.rows.last : Int) + t.selBase.val - s.selBase.val).toNat
  let s := rateTaken (restartWith (sendLeaving { t with mbx := { t.mbx with pending := none } } 6) c.pat c.keys (at_ + 10 * msF) none true)
    s.pat.gS
  emit s 0x5053 c.owner s.flt.rows.epoch

/-- The pending commit at the boundary that starts row `rows.row`. -/
def applyCommit (s : State) : State :=
  match s.mbx.pending with
  | none => s
  | some c =>
    let n := s.flt.rows.row
    if n < c.row then s
    else if c.cls / 4 % 2 = 1 then commitRestart c s
    else
      let s := if n = c.row then commitRow c s else s
      let s := if c.cls / 2 % 2 = 1 && n ≤ c.row + 31 then commitCluster c (n - c.row) s else s
      let s := swatchCheck s
      if c.lastRow ≤ n then emit { s with mbx := { s.mbx with pending := none } } 0x5053 c.owner s.flt.rows.epoch else s

/-! ### SYNC at a boundary (R165, R166) -/

/-- A pending SYNC acts at the boundary that starts row `rows.row`. -/
def applySync (s : State) : State :=
  if s.flt.sync.pending = 0 then s
  else syncActs { s with flt := { s.flt with sync := { s.flt.sync with pending := 0 } } } s.flt.sync.pending

/-! ### Field dies that come up at a boundary (R562 step 4) -/

/-- Every cluster of a die leaves PARKED. -/
def unparkDie (s : State) (d : Nat) : State :=
  if (s.die d).unpark && (s.die d).powered then
    let n := s.flt.rows.row
    let s := s.updDie d fun x => { x with unpark := false }
    (dieClusters d).foldl (fun s cl =>
      if s.excMode cl = 3 then unsRows s (clChans cl) n 0
      else unsRows (s.updDrv cl fun x => { x with st := .check, retrying := false }) (clChans cl) n (rowsOf s 21000000)) s
  else s

/-- Lanes retrained in the row just produced: their chains restart with the row now in production (R564). -/
def lanesReturn (s : State) (d : Nat) : State :=
  match (s.die d).lanesBack with
  | [] => s
  | ls =>
    let chs := (dieChans d).filter fun ch => ls.contains (s.chSlice ch % 144 / 18)
    let s := unsRows (s.updDie d fun x => { x with lanesBack := [] }) chs s.flt.rows.row 0
    let sls := (dieSlices d).filter fun sl => ls.contains (sl % 144 / 18)
    restartChains (unsSlices s sls s.flt.rows.row) sls

/-! ### SYNC_OUT (R168) -/

/-- The boundary B_n is one that SYNC_OUT_DIV selects: its index is that of the row that it ends (R142, R149). -/
def syncOut (s : State) (n : Int) : State :=
  let d := s.pat.f sRow 0 2 1
  if d ≠ 255 ∧ n % 2 ^ d = 0 then { s with flt := { s.flt with sync := { s.flt.sync with outHigh := true } } } else s

/-- SYNC_OUT falls after 1 µs. -/
def execSyncOutPulseEnd (s : State) : Host.Outcome State Fault Refusal :=
  .next { s with flt := { s.flt with sync := { s.flt.sync with outHigh := false } } }

/-! ### The boundary -/

/-- The row is counted: the next one is in production from B_N on, and the grid slew has advanced (R266). -/
def countRow (s : State) : State :=
  let step := s.slewStep
  let rem := s.time.gridRem - step
  let done := s.time.gridRem ≠ 0 && rem = 0
  let s := { s with
    flt := { s.flt with rows := { s.flt.rows with row := s.flt.rows.row + 1, last := s.rowEnd } }
    time := { s.time with gridRem := rem, gridFrac := if rem = 0 then 0 else s.slewParts % 1000000000 } }
  lowerRates (if done then emit s 0x3011 s.time.selected 0 else s)

/-- A decided switch starts at the first boundary at or after its instant (R265, R266); a restart that has already selected its
base has left nothing of it. -/
def applySwitch (s : State) : State :=
  match s.time.switch with
  | some w =>
    if w.dest = s.time.selected then { s with time := { s.time with switch := none } }
    else if (w.at_ : Int) ≤ (s.flt.rows.last : Int) + s.baseDelta then switchBase s w.dest else s
  | none => s

/-- A cluster in its shadow window takes account of the skeins opened by the step of the row that has just ended: under
AUTO_FREEZE their trigger row precedes H (R127; notes/assumptions/41.md). -/
def freezeFirst (s : State) (r : Nat) : State :=
  let waits := (List.range 32).any fun cl =>
    (s.pat.rot cl 7 1).testBit 2 && ((s.cluster cl).rot.phase = .shadow || (s.cluster cl).rot.phase = .defer)
  if waits && s.stepRow.any (·.row == r) then stepAll s else s

/-- What every boundary that starts a row brings besides commits: rotation and scans. -/
def rowStarts (s : State) : State :=
  let s := (List.range 32).foldl (fun s cl => rotBoundary s cl) s
  (List.range 2).foldl tedsBegin ((List.range 2).foldl auxBoundary (detectorsStop s))

/-- Row `rows.row` ends at the present instant and is produced. -/
def endRow (i : RowInput) (s : State) : State :=
  let r := s.flt.rows.row
  let s := (List.range 32).foldl (calMeasure i) (produce (takeTemps (demodRow s i)))
  let s := fieldAfter (calRow s i r) i
  let s := syncOut (freezeFirst (seqRow (countRow s) r) r) r
  let s := applySwitch s
  let s := applyCommit s
  if s.rowOpen then
    let s := applySync (unparkDie (unparkDie (lanesReturn (lanesReturn s 0) 1) 0) 1)
    let s := writeRaw (reduceAll (rowStarts s))
    refreshOutputs (if s.pm.emergency && s.flt.rows.row % 2 ^ s.pat.cycleM = 0 then emergencyEnds s else s)
  else refreshOutputs s

/-- ROW_BOUNDARY: time passes to B_N, the row ends, and the events whose time has come at the boundary fire. A time event on
the way may have closed the stream. -/
def boundary (i : RowInput) (s : State) : State :=
  let t := reach s s.time.selected s.rowEnd
  if t.rowOpen && t.flt.rows.row = s.flt.rows.row then fireDue (endRow i t) else t

def execRowBoundary (i : RowInput) (s : State) : Host.Outcome State Fault Refusal :=
  .next (if s.rowOpen then boundary i s else s)

/-! ### ROW_STREAM_START (R261) -/

/-- B_(−1) by the default rule: the first whole multiple of 2^20 f_MOD periods at least 10 ms after the stream is ready. -/
def defaultStart (ready : Fns) : Fns := let p := 2 ^ 20 * 160 * nsF; ceilDiv (ready + 10 * msF) p * p

/-- A START event's commit that still waits when its epoch begins has failed (R271, notes/assumptions/25.md). -/
def startWaitEnds (s : State) : State :=
  match s.mbx.wait with
  | some w =>
    match w.te with
    | some n =>
      if (fld (s.tev n).cfg 1 1).testBit 0 then teResult { s with mbx := { s.mbx with wait := none } } n 1 0x3032 else s
    | none => s
  | none => s

/-- The stream starts: row 0 is in production, and what happened up to B_(−1) belongs to no row of it (R281). A SYNC that started it is reported now (R165); the temperature taker takes what has arrived since the last boundary (R136). -/
def startStream (s : State) : State :=
  let t := s.flt.rows.startAt.getD (defaultStart s.flt.rows.readyAt)
  let s := startWaitEnds (reach s s.time.selected t)
  let src := s.flt.sync.pending
  let s := { s with flt := { s.flt with
    rows := { s.flt.rows with phase := .running, row := 0, start := t, last := t, startAt := none }
    sync := { s.flt.sync with pending := 0, lastRow := if src = 0 then s.flt.sync.lastRow else 0 } }, ic := { s.ic with diRise := 0, diFall := 0, teFired := 0 } }
  let s := if src = 0 then s else emit s 0x3040 src 0
  let s := if s.pm.castOnMs = 0 then { s with pm := { s.pm with castOnMs := sat 65535 (s.time.b2.val / msF) } } else s
  let s := (List.range 32).foldl (fun s cl => s.updDrv cl fun d => d.beginRow d.inLimit 0) s
  let s := takeAux (takeAux (armDue (unparkDie (unparkDie s 0) 1)) 0) 1
  refreshOutputs (rowStarts (syncOut s (-1)))

def execRowStreamStart (s : State) : Host.Outcome State Fault Refusal :=
  .next (if s.flt.rows.phase = .waitStart then startStream s else s)

end Sys2Proof.Machine
end

