-- ==== Sys2Proof/Machine/Delivery.lean ====
section
/-!
DEFINITION. The delivery ring of a DMA channel: entries, PAD entries, fill and room (R419–R421), and writes to host memory.
notes/assumptions/33.md.
-/
namespace Sys2Proof.Machine

/-- Write bytes into host memory, at addresses modulo 2^64. -/
def hostWrite (s : State) (addr : Nat) (b : Bytes) : State :=
  { s with hostMem := Tbl.setRun 0 s.hostMem (addr % 2 ^ 64) b }

def State.hostRead (s : State) (addr n : Nat) : Bytes := Tbl.run 0 s.hostMem addr n

/-- A delivery entry: header and payload, padded with zero bytes to a multiple of 64. -/
def entryBytes (f : ZFrame) : Bytes := let b := zBytes f; b ++ zeros (64 * ceilDiv b.length 64 - b.length)

/-- A PAD entry that fills `n` bytes. -/
def padBytes (n : Nat) : Bytes :=
  let f := zSeal ⟨0, 0, 0, 0, 0, 0, 0, 0, 0, 0, zeros (n - 32), 0⟩
  zBytes f

/-- A channel is held. -/
def DmaCh.held (c : DmaCh) : Bool := c.st != .idle && c.st != .stopped

/-- Channel vector (R404). -/
def dmaVector (s : State) (n : Nat) : State := vector s (2 + n)

def DmaCh.ringSize (c : DmaCh) : Nat := 2 ^ c.rsize

/-- Bytes between RD and WR, modulo twice the ring size (R420). -/
def DmaCh.fill (c : DmaCh) : Nat := (c.wr + 2 * c.ringSize - c.rd % (2 * c.ringSize)) % (2 * c.ringSize)

/-- Bytes of the PAD entry that an entry of `n` bytes needs before it: the rest of the ring where it does not fit there. -/
def DmaCh.padFor (c : DmaCh) (n : Nat) : Nat :=
  let rest := c.ringSize - c.wr % c.ringSize
  if rest < n then rest else 0

/-- The channel can take an entry of `n` bytes (R421). -/
def DmaCh.room (c : DmaCh) (n : Nat) : Bool := c.st = .running && c.fill + c.padFor n + n ≤ c.ringSize

/-- The delivery channel with a KIND in its mask: the one at work, where a START has been refused for another (R419). -/
def State.deliveryCh (s : State) (kind : Nat) : Option Nat :=
  let l := (List.range 16).filter fun n => (s.dmaCh n).delivery && inR 1 7 kind && (s.dmaCh n).kindMask.testBit kind
  match l.find? fun n => (s.dmaCh n).held with
  | some n => some n
  | none => l.head?

/-- This station's own frames are delivered on the root, and elsewhere with LOCAL (R367, R411). -/
def State.wantsOwn (s : State) (n : Nat) : Bool := s.isRoot || (s.dmaCh n).localCopy

/-- A received frame can be accepted: no channel delivers its KIND, or its entry has room (R421). -/
def State.canDeliver (s : State) (f : ZFrame) : Bool :=
  match s.deliveryCh f.kind with
  | some n => (s.dmaCh n).room (entryBytes f).length
  | none => true

/-- The threshold vector (R422). -/
def thrVector (s : State) (n : Nat) : State := dmaVector (s.updDma n fun c => { c with thrCount := 0 }) n

/-- Write one entry at WR; WR, BYTES and the threshold count follow, and the vector fires with the THR-th. -/
def putEntry (s : State) (n : Nat) (b : Bytes) : State :=
  let c := s.dmaCh n
  let s := (hostWrite s (c.rbase + c.wr % c.ringSize) b).updDma n fun c =>
    { c with wr := (c.wr + b.length) % (2 * c.ringSize), bytes := c.bytes + b.length, thrCount := c.thrCount + 1 }
  if c.thr ≤ c.thrCount + 1 then thrVector s n else s

/-- A frame is delivered, or not accepted (R421). -/
def deliver (s : State) (n : Nat) (f : ZFrame) : State :=
  let c := s.dmaCh n
  let e := entryBytes f
  if c.room e.length then
    let pad := c.padFor e.length
    let s := if pad = 0 then s else putEntry s n (padBytes pad)
    (putEntry s n e).updDma n fun c => { c with fullEp := false }
  else
    let s := s.updDma n fun c => { c with fullDrops := (c.fullDrops + 1) % 2 ^ 32, fullEp := true }
    if c.fullEp then s else emit s 0x5045 n 0

end Sys2Proof.Machine
end

