-- ==== Sys2Proof/Machine/TimeBase.lean ====
section
/-!
DEFINITION. The registers of the bases and what writes them (R234–R239, R243): increments, slews, the step of TB3, loads, the
snapshot, TIME_TOD and the transmit time-stamp queue (R274). notes/assumptions/26.md.
-/
namespace Sys2Proof.Machine

def State.timeCfg (s : State) (o : Nat) : Nat := s.pat.f sTime 0 o 1

/-- The base of a domainNumber; domain 1 is not used while GM1 is 0xFF (R257). -/
def State.domainBase (s : State) (d : Nat) : Option Nat :=
  if d = s.timeCfg 2 then some 0 else if d = s.timeCfg 3 ∧ s.timeCfg 5 ≠ 0xFF then some 1 else none

/-! ### Increments and slews (R235, R236) -/

def incrOk (w : Nat) : Bool := inR 0x0009FEB851EC 0x000A0147AE14 w

/-- SERVO_EXT of the pattern in force (R243). -/
def State.servoExt (s : State) : Bool := (s.pat.f sTime 0 1 1).testBit 1

/-- The host, or the control core, may write INCR and SLEW of a base. -/
def State.ownsBase (s : State) (n : Nat) (byHost : Bool) : Bool :=
  match n with
  | 0 | 1 => byHost == s.servoExt
  | 3 => byHost
  | _ => false

def rejectWrite (s : State) (n : Nat) : State := s.updBase n fun b => { b with reject := sat 255 (b.reject + 1) }

/-- A write of an increment by an owner; the answer is false where it is ignored and counted. -/
def writeIncr (s : State) (n w : Nat) : State × Bool :=
  if incrOk w then (s.updBase n fun b => { b with incr := w }, true) else (rejectWrite s n, false)

/-- An open row stream follows the base. -/
def State.followed (s : State) (n : Nat) : Bool := s.rowOpen && s.time.selected = n

/-- A write of RATE starts a slew; OFFSET is in 2^-16 ns. -/
def writeSlew (s : State) (n : Nat) (ofs : Int) (rate : Nat) : State × Bool :=
  if ofs.natAbs ≤ 1000000000 * 65536 && inR 1 65535 rate && (rate ≤ 100 || !s.followed n) then
    (s.updBase n fun b => { b with slewOfs := ofs, slewRate := rate, slewRem := ofs * 65536, slewFrac := 0 }, true)
  else (rejectWrite s n, false)

def execTbIncrWrite (n : Nat) (byHost : Bool) (w : BitVec 48) (s : State) : Host.Outcome State Fault Refusal :=
  .next (if s.ownsBase n byHost then (writeIncr s n w.toNat).1 else s)

/-- The servo slews no base that waits for its reload, and none faster than 50,000 ppb (R242). -/
def State.servoMay (s : State) (n rate : Nat) : Bool := !(s.base n).reload && rate ≤ 50000

def execTbSlewWrite (n : Nat) (byHost : Bool) (offset : BitVec 48) (rate : BitVec 16) (s : State) :
    Host.Outcome State Fault Refusal :=
  .next (if s.ownsBase n byHost && (byHost || s.servoMay n rate.toNat) then (writeSlew s n offset.toInt rate.toNat).1 else s)

/-- TB_SLEW_DONE: the ticks pass that the remaining offset needs, unless a row ends first. -/
def execTbSlewDone (n : Nat) (s : State) : Host.Outcome State Fault Refusal :=
  let k := (s.base n).ticksToEnd
  .next (if s.rowFirst k false then s else passTicks s k)

/-- BASE of TIME_INCR and TIME_SLEW: 0, 1 or 3. -/
def hostBase (b : Nat) : Bool := b = 0 || b = 1 || b = 3

def incrBody (s : State) (p : Bytes) : State × Option Ans :=
  let n := fld p 0 1
  if !s.ownsBase n true then answer s (Ans.err stBusy 1)
  else match writeIncr s n (fld p 2 6) with
    | (s, true) => answer s Ans.done
    | (s, false) => answer s (Ans.err stBadParam 2)

def cmdTimeIncr : CmdHdr → Bytes → State → State :=
  mailbox 0x0400 (form 8 fun p => [(0, hostBase (fld p 0 1)), rsv p 1 1]) fun s _ p => incrBody s p

def execTimeIncr (h : CmdHdr) (p : Bytes) (s : State) : Host.Outcome State Fault Refusal := .next (cmdTimeIncr h p s)

/-- The field that a refused slew names: RATE at 2, else OFFSET at 4. -/
def slewBad (s : State) (n rate : Nat) : Nat := if rate = 0 || (100 < rate && s.followed n) then 2 else 4

def slewBody (s : State) (p : Bytes) : State × Option Ans :=
  let n := fld p 0 1
  let rate := fld p 2 2
  if !s.ownsBase n true then answer s (Ans.err stBusy 1)
  else match writeSlew s n (signed 48 (fld p 4 6)) rate with
    | (t, true) => answer t Ans.done
    | (t, false) => answer t (Ans.err stBadParam (slewBad s n rate))

def cmdTimeSlew : CmdHdr → Bytes → State → State :=
  mailbox 0x0401 (form 12 fun p => [(0, hostBase (fld p 0 1)), rsv p 1 1, rsv p 10 2]) fun s _ p => slewBody s p

def execTimeSlew (h : CmdHdr) (p : Bytes) (s : State) : Host.Outcome State Fault Refusal := .next (cmdTimeSlew h p s)

/-! ### Steps and loads (R237, R272) -/

/-- A base is given a value; the armed events that it passes fire late. -/
def putBase (s : State) (n : Nat) (v : Fns) : State :=
  fireDue (markCrossed (s.updBase n fun b => { b with val := v, slewRem := 0, slewFrac := 0 }) n (s.base n).val)

/-- A base with RELOAD_PENDING is loaded where no open row stream follows it. -/
def reloadNow (s : State) (n : Nat) : State := if s.followed n then s else fireDue (reloadBase s n)

def stepBody (s : State) (p : Bytes) : State × Option Ans :=
  let v := ofTime96 (fld p 0 12)
  if s.rowOpen then answer s (Ans.err stBusy 0)
  else
    gated s 0x3060 0 (s.time.b3.val / secF) (v / secF) fun s => answer (putBase (emit s 0x3060 3 (v / secF)) 3 v) Ans.done

def cmdTimeStepTb3 : CmdHdr → Bytes → State → State :=
  mailbox 0x0402 (form 12 fun p => [(0, fld p 2 4 < 1000000000)]) fun s _ p => stepBody s p

def execTimeStepTb3 (h : CmdHdr) (p : Bytes) (s : State) : Host.Outcome State Fault Refusal := .next (cmdTimeStepTb3 h p s)

/-! ### Snapshot and TIME_TOD (R238, R252) -/

/-- TB_SNAPCTL CAPTURE. -/
def snapshot (s : State) : State :=
  let t := s.time
  { s with time := { t with
    snap0 := t.b0.val, snap1 := t.b1.val, snap2 := t.b2.val, snap3 := t.b3.val
    snapRow := s.flt.rows.row } }

def execTbSnapshotCapture (s : State) : Host.Outcome State Fault Refusal := .next (snapshot s)

def cmdTimeTod : CmdHdr → Bytes → State → State :=
  mailbox 0x0403 (form 8 fun p => [rsv p 6 2]) fun s _ p =>
    answer { s with time := { s.time with tod := some (fld p 0 6) } } Ans.done

def execTimeTod (h : CmdHdr) (p : Bytes) (s : State) : Host.Outcome State Fault Refusal := .next (cmdTimeTod h p s)

/-! ### The transmit time-stamp queue Q6 (R247, R274) -/

/-- The entry that TB_TXQ shows: ID, MSGTYPE, PORT, DOMAIN and VALID, then the stamp. -/
def txqEntry (id msgType port dom : Nat) (stamp : Fns) : List (BitVec 32) :=
  wordsOf 4 (le 4 (id % 65536 + 2 ^ 16 * msgType + 2 ^ 20 * (port + 1) + 2 ^ 22 * dom + 2 ^ 31) ++ timeBytes stamp)

/-- The base that stamps a domain's event messages (R247). -/
def State.stampBase (s : State) (d : Nat) : Nat := (s.domainBase d).getD 2

/-- How long the frame on the wire of a port still delays an event message (R248). -/
def State.wireWait (s : State) (port : Nat) : Fns := (s.port port).freeAt - s.time.b2.val

/-- A base brought from the SerDes to the ball by a port's latencies of 1/64 ns (R247): at egress when the wire is free. -/
def State.egressStamp (s : State) (port n : Nat) : Fns :=
  (s.base n).val + s.wireWait port + (Config.txLat port).toNat * 2 ^ 26
def State.ingressStamp (s : State) (port n : Nat) : Int := ((s.base n).val : Int) - (Config.rxLat port).toNat * 2 ^ 26

/-- A stamp is dropped and counted; TXQ_OVERFLOW reports it. -/
def dropStamp (s : State) : State :=
  let t := s.time
  { s with time := { t with txqOvf := true, txqCount := sat 65535 (t.txqCount + 1), txqDue := t.txqDue + 1 } }

/-- The egress stamp of an event message enters the queue; one that finds it full is dropped and counted. -/
def pushStamp (s : State) (id msgType port dom : Nat) : State × Bool :=
  if 64 ≤ (s.queue 6).level then (dropStamp s, false)
  else ((qPut s 6 (txqEntry id msgType port dom (s.egressStamp port (s.stampBase dom)))).1, true)

/-- TXQ_OVERFLOW reports a stamp that has been dropped. -/
def execTxqOverflow (s : State) : Host.Outcome State Fault Refusal :=
  .next (if s.time.txqDue = 0 then s else emit { s with time := { s.time with txqDue := s.time.txqDue - 1 } } 0x3030 0 0)

/-- The oldest entry, removed; zeros where the queue is empty. -/
def takeStamp (s : State) : Bytes × State :=
  match qTake s 6 with
  | some (i, s) => (bytesOf i.words, s)
  | none => (zeros 16, s)

/-- TB_TXQ_READ by the host or by the control core; only the servo owner reads the queue. -/
def execTbTxqRead (byHost : Bool) (s : State) : Host.Outcome State Fault Refusal :=
  .next (if byHost == s.servoExt then
      (match takeStamp s with
        | (b, t) => if byHost then { t with host := { t.host with readData := b } } else t)
    else s)

end Sys2Proof.Machine
end

