-- ==== Sys2Proof/Machine/Ptp.lean ====
section
/-!
DEFINITION. What decides the states of TB0 and TB1 (R240–R245, R252, R264, R265): Sync, Announce, their losses, PPS_IN, the
asymmetry procedure (R277); what the station sends (R246–R249, R253); and frequency along the ring (R255, R256).
notes/assumptions/27.md.
-/
namespace Sys2Proof.Machine

/-! ### Domains and grandmasters (R257) -/

def State.gmStation (s : State) (n : Nat) : Nat := s.timeCfg (4 + n)

/-- This station is the grandmaster of the base's domain. -/
def State.isGm (s : State) (n : Nat) : Bool := n < 2 && s.ring.numbered && s.gmStation n = s.ring.station

/-- SRC of a domain: 0 FREE, 1 PPS_TOD, 2 EXTERNAL. -/
def State.gmSrc (s : State) (n : Nat) : Nat := s.timeCfg 6 / 16 ^ n % 16

/-- Syncs and Announces of a base are taken at this port: at ring ports, at a grandmaster only from its EXTERNAL port. -/
def State.takesFrom (s : State) (n port : Nat) : Bool :=
  if s.isGm n then s.gmSrc n = 2 && s.portRole port = 1 else s.portRole port = 0

/-- The clockClass that this station announces as grandmaster (R253). -/
def State.ownClass (s : State) (n : Nat) : Nat :=
  if s.gmSrc n = 0 then 248
  else match (s.base n).st with
    | .locked => 6
    | .holdover => 7
    | .freerun => 248
    | _ => Config.acquiringClass.toNat

/-- The asymmetry procedure holds a base (R277). -/
def State.asymHolds (s : State) (n : Nat) : Bool := s.time.asym.any (·.base = n)

/-! ### Failure of a domain, and AUTO_SWITCH (R264, R265) -/

/-- Why a switch is refused: 1 the other base is not LOCKED, 2 its clockClass is not lower, 3 Δ is too large; 0 none. -/
def State.switchReason (s : State) : Nat :=
  let o := s.base s.otherNo
  if o.st ≠ .locked then 1
  else if s.selBase.cls ≤ o.cls then 2
  else if s.pat.f sTime 0 12 2 * nsF < s.baseDelta.natAbs then 3
  else 0

/-- The conditions are tested after the failure of the selected base's domain, and again at each Announce. -/
def testSwitch (s : State) : State :=
  if !((s.timeCfg 1).testBit 0 && s.selBase.failed && s.selBase.st = .holdover) || s.time.switch.isSome || s.time.gridRem ≠ 0 then s
  else match s.switchReason with
    | 0 =>
      let n := s.otherNo
      { s with time := { s.time with switch := some ⟨n, ceilDiv ((s.base n).val + secF) secF * secF⟩ } }
    | r => emit s 0x3012 s.otherNo r

/-- A domain fails: its base goes to HOLDOVER. -/
def failNow (s : State) (n : Nat) : State :=
  let b := s.base n
  if b.failed || !(b.st = .acquiring || b.st = .locked || b.st = .holdover) then s
  else
    let s := s.updBase n fun b => { b with failed := true, st := .holdover, inLock := 0, over4 := 0, overJump := 0 }
    if b.st = .holdover then s else emit s 0x3002 n 0

/-- A domain fails otherwise than by an Announce: the failure of the selected base's domain may start a switch. -/
def failDomain (s : State) (n : Nat) : State :=
  let t := failNow s n
  if n = s.time.selected && !(s.base n).failed then testSwitch t else t

/-! ### A measured offset (R240–R242, R264) -/

/-- The base follows no source (R245). -/
def Base.unfollow (b : Base) : Base :=
  { b with path := 0, hops := 0, offset := 0, gmId := 0, clsLock := 255, failed := false, copyA := none, copyB := none }

/-- LOCK_THR and JUMP_THR against an offset in 1/256 ns. -/
def State.within (s : State) (mult : Nat) (o : Int) : Bool := o.natAbs * 10 ≤ mult * s.timeCfg 15 * 256
def State.jumps (s : State) (o : Int) : Bool := s.pat.f sTime 0 16 2 * 256 < o.natAbs

/-- A base becomes LOCKED; the selected one ends cast-on (R573). At a grandmaster the class announced is the station's own. -/
def lockBase (s : State) (n : Nat) : State :=
  let s := s.updBase n fun b => { b with st := .locked, over4 := 0, overJump := 0 }
  let s := emit (s.updBase n fun b => { b with clsLock := if s.isGm n then s.ownClass n else b.cls }) 0x3001 n 0
  if n = s.time.selected && s.pm.castOn && !s.pm.castOnDone then
    emit { s with pm := { s.pm with castOnDone := true } } 0x6004 0 s.pm.castOnMs
  else s

/-- Counts of consecutive Syncs, and what they decide, for a base that is ACQUIRING or LOCKED. -/
def judge (s : State) (n : Nat) : State :=
  let o := (s.base n).offset
  let s := s.updBase n fun b => { b with
    inLock := if s.within 1 o then b.inLock + 1 else 0
    over4 := if s.within 4 o then 0 else b.over4 + 1
    overJump := if s.jumps o then b.overJump + 1 else 0 }
  let b := s.base n
  if 4 ≤ b.overJump then failDomain (emit s 0x3004 n (unsigned 64 o)) n
  else if b.st = .locked ∧ 4 ≤ b.over4 then s.updBase n fun b => { b with st := .acquiring, inLock := 0 }
  else if b.st = .acquiring ∧ 16 ≤ b.inLock then lockBase s n
  else s

/-- An offset of more than 1 s: a slew in progress ends, and the base waits to be loaded (R242). -/
def markReload (s : State) (n : Nat) : State :=
  let b := s.base n
  let s := if 256 * 1000000000 < b.offset.natAbs && !b.reload then
      emit (s.updBase n fun b => { b with reload := true, slewRem := 0, slewFrac := 0 }) 0x3005 n 0 else s
  reloadNow s n

/-- A domain that has failed recovers with a Sync that meets none of the causes of failure. At the grandmaster itself the class
that it announces in HOLDOVER is no such cause. -/
def State.recovers (s : State) (n : Nat) : Bool :=
  let b := s.base n
  !b.failed || (!s.jumps b.offset && (s.isGm n || b.cls ≤ b.clsLock))

/-- What a Sync, or a PPS_IN edge at a PPS_TOD grandmaster, decides of the base's state: its filtered offset, and for the first
load the offset as measured, in 2^-32 ns. -/
def measure (s : State) (n : Nat) (offset measured : Int) : State :=
  let s := s.updBase n fun b => { b with offset := offset }
  match (s.base n).st with
  | .unset =>
    let v := (((s.base n).val : Int) - measured).toNat
    baseReady (putBase (s.updBase n fun b => { b with st := .acquiring, offset := 0, inLock := 0 }) n v)
  | .freerun => judge (markReload (s.updBase n fun b => { b with st := .acquiring, inLock := 0 }) n) n
  | .holdover =>
    let s := markReload s n
    if s.asymHolds n || !s.recovers n then s
    else judge (s.updBase n fun b => { b with st := .acquiring, failed := false, inLock := 0 }) n
  | _ => judge (markReload s n) n

/-! ### Sync (R249) -/

/-- The port whose copy the base follows: fewer hops, ZA on a tie; none where neither copy arrives. -/
def Base.steerPort (b : Base) : Option Nat :=
  match b.copyA, b.copyB with
  | some x, some y => some (if y < x then 1 else 0)
  | some _, none => some 0
  | none, some _ => some 1
  | none, none => none

def Base.setCopy (b : Base) (port : Nat) (v : Option Nat) : Base := if port = 0 then { b with copyA := v } else { b with copyB := v }
def Base.copy (b : Base) (port : Nat) : Option Nat := if port = 0 then b.copyA else b.copyB

/-- A changed grandmaster fails the domain (R264), by `fail`. -/
def gmChange (fail : State → Nat → State) (s : State) (n : Nat) (id : BitVec 64) : State :=
  let b := s.base n
  let known := b.gmId ≠ 0
  let s := s.updBase n fun b => { b with gmId := id }
  if known && b.gmId ≠ id then fail (emit s 0x3006 n (id.toNat % 2 ^ 64)) n else s

def State.tbPort (s : State) (p : Nat) : TbPort := if p = 0 then s.time.za else s.time.zb
def State.updTbPort (s : State) (p : Nat) (f : TbPort → TbPort) : State :=
  { s with time := if p = 0 then { s.time with za := f s.time.za } else { s.time with zb := f s.time.zb } }

/-- MEAN_DELAY (R254). -/
def TbPort.mean (t : TbPort) : Nat := if t.delays.isEmpty then 0 else (quot (t.delays.sum : Nat) t.delays.length).toNat

/-- The delay mechanism of a port is end-to-end (R246). -/
def State.endToEnd (s : State) (port : Nat) : Bool := s.portRole port = 1 && !(s.timeCfg 1).testBit 2

/-- ASYM of a port, in 2^-16 ns (R250, R259). -/
def State.asymOf (s : State) (port : Nat) : Int := signed 32 (s.pat.f sPortTime port 0 4)

/-- How long a Sync has been under way by the base: ingress stamp less origin and correction, in 2^-32 ns. -/
def State.syncAge (s : State) (n : Nat) (m : PtpSync) : Int := s.ingressStamp m.port n - m.origin - m.corr * 2 ^ 16

/-- The offset that a Sync shows: its age less mean delay and ASYM of the port (R248, R250). -/
def State.syncOffsetOf (s : State) (n : Nat) (m : PtpSync) : Int :=
  s.syncAge n m - (s.tbPort m.port).mean * 2 ^ 24 - s.asymOf m.port * 2 ^ 16

/-- A port takes the Syncs of any master in RING role, and in EXTERNAL role those of the selected one whose interval it accepts
(R246). -/
def State.syncFrom (s : State) (n : Nat) (m : PtpSync) : Bool :=
  s.portRole m.port = 0 || ((s.base n).master.any (·.gmId == m.gmId) && inI (-7) 1 m.interval)

/-- The running phase of the asymmetry procedure takes the offset of a Sync at its port (R277). -/
def asymTakes (s : State) (n port : Nat) (measured : Int) : State :=
  match s.time.asym with
  | some a =>
    if a.ends.isSome && a.port = port && a.base = n then
      { s with time := { s.time with asym := some { a with sum := a.sum + measured / 2 ^ 24, count := a.count + 1 } } }
    else s
  | none => s

/-- PTP_SYNC_RX. Under SERVO_EXT its measurement record goes to the host. -/
def syncRx (s : State) (m : PtpSync) : State :=
  match s.domainBase m.domain with
  | none => s
  | some n =>
    if !s.takesFrom n m.port || !s.syncFrom n m then s
    else
      let measured := s.syncOffsetOf n m
      let s := if s.endToEnd m.port then s.updTbPort m.port fun t => { t with down := some (s.syncAge n m) } else s
      let heard := fun (b : Base) => { b.setCopy m.port (some m.hops) with syncAt := some s.time.b2.val }
      let s := asymTakes (s.updBase n heard) n m.port measured
      if (s.base n).steerPort ≠ some m.port then s
      else
        let changed := (s.base n).gmId ≠ 0 && (s.base n).gmId ≠ m.gmId
        let s := gmChange failDomain s n m.gmId
        let s := s.updBase n fun b => { b with path := m.port + 1, hops := m.hops }
        let s := if s.servoExt then
            { s with time := { s.time with
              extRecs := ⟨n, measured / 2 ^ 24, (s.tbPort m.port).mean, m.corr⟩ :: s.time.extRecs } } else s
        if changed then s else measure s n m.offset measured

def execPtpSyncRx (m : PtpSync) (s : State) : Host.Outcome State Fault Refusal := .next (syncRx s m)

/-- SYNC_COPY_LOST: the copy followed is missing, and the other one is followed from now on. -/
def execSyncCopyLost (n : Nat) (s : State) : Host.Outcome State Fault Refusal :=
  .next (match (s.base n).steerPort with
    | some p =>
      if ((s.base n).copy (1 - p)).isSome then
        s.updBase n fun b => { b.setCopy p none with path := 2 - p, hops := (b.copy (1 - p)).getD 0 }
      else s
    | none => s)

/-- SYNC_LOSS_TIMEOUT: no Sync of the domain at either port, also none in the cycle of the expiry (R264). -/
def execSyncLossTimeout (n : Nat) (s : State) : Host.Outcome State Fault Refusal :=
  .next (if (s.base n).syncAt = some s.time.b2.val then s else failDomain (s.updBase n fun b => { b with copyA := none, copyB := none }) n)

/-- ACQ_TIMEOUT: the selected base is loaded from the real-time clock, and rows may start (R244). -/
def execAcqTimeout (s : State) : Host.Outcome State Fault Refusal :=
  let n := s.time.selected
  .next (if (s.base n).st = .unset then
      baseReady (emit (putBase (s.updBase n fun b => { b.unfollow with st := .freerun }) n (s.pm.rtc * secF)) 0x3003 n 0)
    else s)

/-! ### What the station sends (R246–R249, R253) -/

def notePtp (s : State) (o : PtpOut) : State := { s with time := { s.time with sent := o :: s.time.sent } }

/-- EtherType and destination address of a message (R246). -/
def ptpEtherType : Nat := 0x88F7
def PtpOut.address (o : PtpOut) : Nat := if o.msgType = 2 || o.msgType = 3 || o.msgType = 10 then 0x0180C200000E else 0x011B19000000

/-- A ring port over which PTP runs: in RING role and UP. -/
def State.ptpRing (s : State) (p : Nat) : Bool := s.portRole p = 0 && (s.port p).st = .up

def State.nextPtpSeq (s : State) : State := { s with time := { s.time with ptpSeq := (s.time.ptpSeq + 1) % 65536 } }

/-- What the source of a domain gives as currentUtcOffset and leap flags: a foreign grandmaster's Announce, or the local source. -/
def State.sourceUtc (s : State) (n : Nat) : Option Utc :=
  if s.gmSrc n = 2 then (s.base n).utc
  else some ⟨Config.sourceUtc n, Config.sourceLeap61 n, Config.sourceLeap59 n⟩

/-- A Sync out of one port with its Follow_Up, which a stamp that has been dropped leaves out (R246, R274). -/
def sendSync (n id : Nat) (s : State) (p : Nat) : State :=
  let dom := s.timeCfg (2 + n)
  if !s.ptpRing p then s
  else
    let stamp := s.egressStamp p n
    let r := pushStamp (notePtp s ⟨0, p, dom, id, 0, 0, 0, none⟩) id 0 p dom
    if r.2 then notePtp r.1 ⟨8, p, dom, id, 0, stamp, 0, none⟩ else r.1

/-- PTP_SYNC_TX, at the grandmaster station of the domain. -/
def execPtpSyncTx (n : Nat) (s : State) : Host.Outcome State Fault Refusal :=
  .next (if s.isGm n then [0, 1].foldl (sendSync n s.time.ptpSeq) s.nextPtpSeq else s)

/-- A PTP message goes on round the ring by the other port. -/
def passPtp (s : State) (port : Nat) (o : PtpOut) : State :=
  if s.portRole port = 0 && s.ptpRing (1 - port) then notePtp s { o with port := 1 - port } else s

/-! ### Announce (R253, R264, R265) -/

/-- A clockClass above the one at the last lock fails the domain; the conditions of a switch are tested at every Announce, once,
with what it has brought. -/
def classHeard (s : State) (n cls : Nat) : State :=
  let s := s.updBase n fun b => { b with cls := cls }
  testSwitch (if (s.base n).clsLock < cls then failNow s n else s)

/-- The order of the default best master clock algorithm: the lower data set is the better master (R246). -/
def announceBetter (a b : PtpAnnounce) : Bool :=
  decide ([a.prio1, a.cls, a.acc, a.var, a.prio2, a.gmId.toNat, a.steps] < [b.prio1, b.cls, b.acc, b.var, b.prio2, b.gmId.toNat, b.steps])

/-- An Announce is followed: in RING role every one, in EXTERNAL role that of the selected master and of a better one. -/
def State.follows (s : State) (n : Nat) (m : PtpAnnounce) : Bool :=
  s.portRole m.port = 0 || (match (s.base n).master with
    | some x => x.gmId == m.gmId || announceBetter m x
    | none => true)

def announceRx (s : State) (m : PtpAnnounce) : State :=
  let fwd := passPtp s m.port ⟨11, m.port, m.domain, 0, 0, 0, m.cls, some ⟨m.utc, m.leap61, m.leap59⟩⟩
  match s.domainBase m.domain with
  | none => fwd
  | some n =>
    if !s.takesFrom n m.port || !s.follows n m then s
    else
      let s := fwd.updBase n fun b =>
        { b with utc := some ⟨m.utc, m.leap61, m.leap59⟩, master := if s.portRole m.port = 0 then none else some m }
      let b := s.base n
      if b.st = .unset || b.st = .freerun then testSwitch (s.updBase n fun b => { b with cls := m.cls })
      else classHeard (gmChange failNow s n m.gmId) n m.cls

def execPtpAnnounceRx (m : PtpAnnounce) (s : State) : Host.Outcome State Fault Refusal := .next (announceRx s m)

/-- ANNOUNCE_RECEIPT_TIMEOUT (R246): the source is taken as lost. -/
def execAnnounceReceiptTimeout (n : Nat) (s : State) : Host.Outcome State Fault Refusal :=
  .next (failDomain (s.updBase n fun b => { b with master := none }) n)

/-- PTP_ANNOUNCE_TX: the class announced is also what TB_STAT shows and what the station itself judges its domain by, and the
source's UTC what TB_UTC shows. -/
def execPtpAnnounceTx (n : Nat) (s : State) : Host.Outcome State Fault Refusal :=
  .next (if s.isGm n then
      let c := s.ownClass n
      let u := s.sourceUtc n
      let t := [0, 1].foldl (fun t p =>
        if t.ptpRing p then notePtp t ⟨11, p, s.timeCfg (2 + n), s.time.ptpSeq, 0, 0, c, u⟩ else t) s.nextPtpSeq
      classHeard (t.updBase n fun b => { b with utc := u }) n c
    else s)

/-! ### Link delay (R246, R247, R254) -/

/-- The domain in which a port's delay messages are sent: at an EXTERNAL port that of its source, else DOMAIN0. -/
def State.delayDomain (s : State) (port : Nat) : Nat :=
  if s.portRole port = 1 && !(s.isGm 0 && s.gmSrc 0 = 2) && s.isGm 1 then s.timeCfg 3 else s.timeCfg 2

/-- PTP_PDELAY_TX: an exchange starts, by Pdelay_Req or at an end-to-end port by Delay_Req; one that has had no answer shows NO
RESPONDER, and one whose stamp is dropped can give no delay. -/
def execPtpPdelayTx (port : Nat) (s : State) : Host.Outcome State Fault Refusal :=
  .next (if s.portRole port = 2 then s
    else
      let id := s.time.ptpSeq
      let dom := s.delayDomain port
      let kind := if s.endToEnd port then 1 else 2
      let stamp := s.egressStamp port (s.stampBase dom)
      let r := pushStamp (notePtp s.nextPtpSeq ⟨kind, port, dom, id, 0, 0, 0, none⟩) id kind port dom
      r.1.updTbPort port fun t => { t with
        asked := if r.2 then some (id, stamp) else none
        pdState := if t.pdState = 0 then 1 else if t.pdState = 1 then 3 else t.pdState })

/-- A valid exchange: its delay in 1/256 ns from twice the delay in 2^-32 ns; the mean runs over the last 16. -/
def TbPort.delayed (t : TbPort) (twice : Int) : TbPort :=
  { t with
    delays := bounded 16 ((twice / 2 ^ 25).toNat :: t.delays), pdState := 2, pdCount := sat 65535 (t.pdCount + 1), asked := none }

/-- A neighbour's Pdelay_Req is answered by Pdelay_Resp with its receipt time and, where the answer's stamp is held, by
Pdelay_Resp_Follow_Up with that. -/
def answerPdelay (s : State) (port id dom : Nat) : State :=
  let n := s.stampBase dom
  let r := pushStamp (notePtp s ⟨3, port, dom, id, 0, (s.ingressStamp port n).toNat, 0, none⟩) id 3 port dom
  if r.2 then notePtp r.1 ⟨10, port, dom, id, 0, s.egressStamp port n, 0, none⟩ else r.1

/-- PTP_PDELAY_RX: a request is answered; an answer to the port's own request gives a delay. -/
def pdelayRx (s : State) (port : Nat) : PdelayMsg → State
  | .req id dom => if s.portRole port = 2 || s.endToEnd port then s else answerPdelay s port id dom
  | .resp id turnaround =>
    s.updTbPort port fun t =>
      match t.asked with
      | some (i, sent) =>
        if i = id && !s.endToEnd port then
          t.delayed (s.ingressStamp port (s.stampBase (s.delayDomain port)) - sent - turnaround * 2 ^ 16)
        else t
      | none => t
  | .delayResp id received corr =>
    s.updTbPort port fun t =>
      match t.asked, t.down with
      | some (i, sent), some d => if i = id && s.endToEnd port then t.delayed (d + received - sent - corr * 2 ^ 16) else t
      | _, _ => t

def execPtpPdelayRx (port : Nat) (m : PdelayMsg) (s : State) : Host.Outcome State Fault Refusal := .next (pdelayRx s port m)

/-! ### Forwarding (R248) -/

/-- Residence from ingress to egress stamp, both in TB2, in 2^-16 ns; `ingress` is TB2 at the SerDes. -/
def State.residence (s : State) (port ingress : Nat) : Int :=
  ((s.egressStamp (1 - port) 2 : Int) - ((ingress : Int) - (Config.rxLat port).toNat * 2 ^ 26)) / 2 ^ 16

/-- PTP_SYNC_FORWARD: residence, mean link delay and ASYM of the ingress port enter correctionField, in 2^-16 ns; a Sync that
returns to its grandmaster is dropped. -/
def execPtpSyncForward (port domain seq ingress : Nat) (correction : Int) (s : State) : Host.Outcome State Fault Refusal :=
  .next (if (s.domainBase domain).any s.isGm then s
    else
      passPtp s port
        ⟨0, port, domain, seq, correction + s.residence port ingress + 256 * (s.tbPort port).mean + s.asymOf port, 0, 0, none⟩)

/-- PTP_MGMT_DROP. -/
def execPtpMgmtDrop (_port : Nat) (s : State) : Host.Outcome State Fault Refusal :=
  .next { s with time := { s.time with mgmtDrops := s.time.mgmtDrops + 1 } }

/-! ### PPS (R252, R275) -/

/-- An edge at a PPS_TOD grandmaster: the base reads the announced second, PPS_DELAY after it. Without a TIME_TOD a loaded base
is in ACQUIRING. -/
def ppsSteer (stamp : Fns) (s : State) (n : Nat) : State :=
  if !(s.isGm n && s.gmSrc n = 1) then s
  else match s.time.tod with
    | none =>
      if (s.base n).st = .unset || s.asymHolds n then s
      else s.updBase n fun b => { b with st := .acquiring, failed := false, inLock := 0 }
    | some sec =>
      let at_ : Int := (stamp : Int) + (s.base n).val - s.selBase.val - s.pat.f sTime 0 18 2 * 2 ^ 28
      measure (s.updBase n fun b => { b with path := 3 }) n ((at_ - sec * secF) / 2 ^ 24) (at_ - sec * secF)

/-- PPS_IN_EDGE; the stamp is in the selected base. -/
def execPpsInEdge (stamp : Nat) (s : State) : Host.Outcome State Fault Refusal :=
  let lost := s.time.ppsLost
  let s := { s with time := { s.time with ppsStamp := stamp, ppsCount := (s.time.ppsCount + 1) % 65536, ppsLost := false, ppsAt := some s.time.b2.val } }
  let s := fireSrc s 41
  let s := if lost then emit s 0x3051 0 0 else s
  let s := ppsSteer stamp (ppsSteer stamp s 0) 1
  .next { s with time := { s.time with tod := none } }

/-- PPS_IN_LOST: 2 s without a qualified edge at a PPS_TOD grandmaster; an edge in this cycle is in time. -/
def execPpsInLost (s : State) : Host.Outcome State Fault Refusal :=
  let uses := fun n => s.isGm n && s.gmSrc n = 1
  .next (if (uses 0 || uses 1) && !s.time.ppsLost && s.time.ppsAt ≠ some s.time.b2.val then
      let s := emit { s with time := { s.time with ppsLost := true } } 0x3050 0 0
      [0, 1].foldl (fun s n => if uses n && ((s.base n).st = .locked || (s.base n).st = .acquiring) then
        emit (s.updBase n Base.hold) 0x3002 n 0 else s) s
    else s)

/-- The whole second of a base that is next, or that its last tick has reached. -/
def Base.wholeSecond (b : Base) (held : Bool) : Fns :=
  if b.val % secF < b.incr && !held then b.val / secF * secF else (b.val / secF + 1) * secF

/-- PPS_OUT_RISE: at a whole second of PPS_OUT_BASE, for PPS_WIDTH × 10 ms of TB2. -/
def execPpsOutRise (s : State) : Host.Outcome State Fault Refusal :=
  let n := s.timeCfg 20
  .next (if n = 0xFF then s
    else whenReached s n ((s.base n).wholeSecond s.time.ppsOut) fun s =>
      { s with time := { s.time with ppsOut := true, ppsEnd := s.time.b2.val + s.timeCfg 21 * 10 * msF } })

def execPpsOutEnd (s : State) : Host.Outcome State Fault Refusal :=
  .next (if s.time.ppsOut then
      whenReached s 2 s.time.ppsEnd fun s => { s with time := { s.time with ppsOut := false } }
    else s)

/-! ### Calibrating a hop's asymmetry (R277) -/

/-- A phase begins with its window: phase 0 holds the selected base until phase 2 ends. -/
def asymBody (s : State) (p : Bytes) : State × Option Ans :=
  let port := fld p 0 1
  let phase := fld p 1 1
  let n := match s.time.asym with | some a => if phase = 0 then s.time.selected else a.base | none => s.time.selected
  if s.time.asym.any (·.ends.isSome) then answer s (Ans.err stBusy 1)
  else if s.selBase.path ≠ port + 1 then answer s (Ans.err stBadParam 0)
  else
    let s := { s with time := { s.time with asym := some ⟨port, phase, n, some (s.time.b2.val + fld p 2 2 * secF), 0, 0⟩ } }
    answer (if phase = 0 then s.updBase n Base.hold else s) Ans.done

def cmdAsymMeasure : CmdHdr → Bytes → State → State :=
  mailbox 0x0404 (form 4 fun p => [(0, fld p 0 1 < 2), (1, fld p 1 1 < 3), (2, inR 10 300 (fld p 2 2))]) fun s _ p => asymBody s p

def execAsymMeasure (h : CmdHdr) (p : Bytes) (s : State) : Host.Outcome State Fault Refusal := .next (cmdAsymMeasure h p s)

/-- ((OFS0 + OFS2)/2 − OFS1)/2 + ASYM, exact in 2^-16 ns from offsets in 1/256 ns. -/
def asymProposal (t : TbPort) (asym : Int) : Int := 64 * (t.ofs0 + t.ofs2 - 2 * t.ofs1) + asym

/-- OFSp of a phase; without a Sync in the window it is a free value. -/
def asymMean (s : State) (a : Asym) : State × Int :=
  if a.count = 0 then (s.draw.2, signed 32 (s.draw.1.toNat % 2 ^ 32)) else (s, quot a.sum a.count)

def TbPort.setOfs (t : TbPort) (phase : Nat) (v : Int) : TbPort :=
  match phase with
  | 0 => { t with ofs0 := v }
  | 1 => { t with ofs1 := v }
  | _ => { t with ofs2 := v }

/-- A phase's window has ended: its mean offset is stored, and phase 2 ends the procedure. -/
def asymEnds (a : Asym) (s : State) : State :=
  let (s, v) := asymMean s a
  let s := s.updTbPort a.port fun t => t.setOfs a.phase v
  if a.phase = 2 then
    emit ({ s with time := { s.time with asym := none } }.updTbPort a.port fun t =>
      { t with proposal := asymProposal t (s.asymOf a.port), propValid := true }) 0x3013 a.port 0
  else { s with time := { s.time with asym := some { a with ends := none } } }

/-- ASYM_PHASE_DONE: the window of the running phase has passed in TB2. -/
def execAsymPhaseDone (s : State) : Host.Outcome State Fault Refusal :=
  .next (match s.time.asym with
    | some a =>
      match a.ends with
      | some e => whenReached s 2 e (asymEnds a)
      | none => s
    | none => s)

/-! ### Frequency (R255, R256) -/

/-- FREQ_SOURCE_LOST: loss of signal at the frequency port. -/
def execFreqSourceLost (s : State) : Host.Outcome State Fault Refusal :=
  .next (match s.time.freq with
    | .port p =>
      let s := emit s 0x3020 p 0
      if (s.port (1 - p)).st = .up then { s with time := { s.time with freq := .port (1 - p) } }
      else emit { s with time := { s.time with freq := .holdover (1 - p) } } 0x3022 (1 - p) 0
    | _ => s)

/-- FREQ_HOLDOVER_END: no recovered clock within 10 s; CLK_SYS follows the station's own CLK_REF. -/
def execFreqHoldoverEnd (s : State) : Host.Outcome State Fault Refusal :=
  .next (match s.time.freq with
    | .holdover _ => emit { s with time := { s.time with freq := .ownRef } } 0x3021 s.srcNo 0
    | _ => s)

/-- A station's ring links are up: not both of its hops are down. -/
def State.onRing (s : State) (st : Nat) : Bool :=
  match indexIn s.ring.order st with
  | some i => s.ring.linkUp.testBit i || s.ring.linkUp.testBit ((i + s.ring.order.length - 1) % s.ring.order.length)
  | none => false

/-- The frequency source of the ring: the grandmaster station of domain 0 while its ring links are up, else that of domain 1
(R255). -/
def State.freqSource (s : State) : Option Nat :=
  if s.onRing (s.gmStation 0) then some (s.gmStation 0)
  else if s.gmStation 1 < 64 && s.onRing (s.gmStation 1) then some (s.gmStation 1) else none

/-- FREQ_SOURCE_CHANGED: the station takes the ring's present frequency source, at its own CLK_REF where it is that source. -/
def execFreqSourceChanged (s : State) : Host.Outcome State Fault Refusal :=
  .next (match s.freqSource with
    | none => s
    | some st =>
      if s.time.freqSrc = st && s.time.freq ≠ .ownRef then freqReturn s
      else
        let own := s.ring.numbered && s.ring.station = st
        emit { s with time := { s.time with
          freqSrc := st, freq := if own then .ownRef else .port (s.freqPort st) } } 0x3021 st 0)

end Sys2Proof.Machine
end

