-- ==== Sys2Proof/Machine/RingLinks.lean ====
section
/-!
DEFINITION. Links, enumeration and admission of the ring (R350–R362, R375–R382, R387, R388). notes/assumptions/21.md and 28.md.
-/
namespace Sys2Proof.Machine

/-! ### Attempts and block lock (R351–R353) -/

/-- LINK_MODE_TIMEOUT: an SFP28 port without block lock goes on to the other mode. -/
def execLinkModeTimeout (port : Nat) (s : State) : Host.Outcome State Fault Refusal :=
  let p := s.port port
  .next (if (p.st = .down || p.st = .negotiating) && !s.pm.backplane port then
      s.updPort port fun p => { p with st := .negotiating, tryMode := if s.mode2Only || p.tryMode = 1 then 2 else 1 }
    else s)

def sendHello (s : State) (port : Nat) : State := sendLocal s port 1 (helloBytes s port)

/-- A port has block lock and begins its HELLO exchange; a root that has met one with a lower UID keeps it held out (R358). -/
def locked (s : State) (port mode : Nat) : State :=
  if s.ring.conflict then s.updPort port fun p => { p with st := .heldOut, mode := mode, holdCause := 6 }
  else sendHello (s.updPort port fun p => { p with st := .blockLock, mode := mode, helloSeen := false, holdCause := 0 }) port

/-- BLOCK_LOCK in a mode of R350; a link that was UP has been down in between. -/
def execBlockLock (port mode : Nat) (s : State) : Host.Outcome State Fault Refusal :=
  .next (if (s.port port).st = .off || !(mode = 2 || (mode = 1 && !s.mode2Only)) then s
    else locked (if (s.port port).st = .up then breakHop s port .down else s) port mode)

/-- HELLO_TX: every 1 ms until a HELLO has been received. -/
def execHelloTx (port : Nat) (s : State) : Host.Outcome State Fault Refusal :=
  let p := s.port port
  .next (if (p.st = .blockLock || p.st = .hello) && !p.helloSeen then
      sendHello (s.updPort port fun p => { p with st := .hello }) port
    else s)

/-- HELLO_TIMEOUT: 100 ms after block lock. -/
def execHelloTimeout (port : Nat) (s : State) : Host.Outcome State Fault Refusal :=
  .next (if (s.port port).st = .blockLock || (s.port port).st = .hello then holdOut s port 0 else s)

/-- HELD_OUT_RETRY: every 10 s while locked. -/
def execHeldOutRetry (port : Nat) (s : State) : Host.Outcome State Fault Refusal :=
  .next (if (s.port port).st = .heldOut then locked s port (s.port port).mode else s)

/-! ### HELLO (R353, R354, R358, R362, R388) -/

/-- The link version: the highest within both ends' ranges; firmware 3.x supports 2 and 3. -/
def linkVersion (lo hi : Nat) : Option Nat :=
  let v := Nat.min 3 hi
  if Nat.max 2 lo ≤ v then some v else none

/-- The station number of a known UID, as ENUM_DONE gave it. -/
def indexOfUid (s : State) (uid : BitVec 64) : Option Nat := s.ring.uids.findIdx? (· == uid)

/-- Two roots meet at a port: the one with the lower UID stays root, the other holds its ports out until its ROLE changes. -/
def rootConflict (s : State) (port : Nat) (uid : BitVec 64) : State :=
  let s := emit s 0x5013 port (s.nbNo port)
  if uid.toNat < Config.uid.toNat then
    [0, 1].foldl (fun s p => holdOut s p 6) { s with ring := { s.ring with conflict := true } }
  else s

/-- A station, known by its UID, whose SESSION has changed begins a new SEQ series; its old gaps close as losses. -/
def newSession (s : State) (m : HelloMsg) : State :=
  let was := Tbl.get 0 s.ring.sessions m.uid.toNat
  let s := { s with ring := { s.ring with sessions := Tbl.set 0 s.ring.sessions m.uid.toNat (m.session + 1) } }
  match indexOfUid s m.uid with
  | none => s
  | some st =>
    if was = 0 || was = m.session + 1 then s
    else
      let x := s.rxSrc st
      let s := x.gaps.foldl (fun s g => emit s 0x5031 st (g.first + 2 ^ 32 * g.count)) s
      s.updRx st fun x =>
        { x with started := true, high := (m.nextSeq + 2 ^ 32 - 1) % 2 ^ 32, map := 0, gaps := [], spans := []
                 expired := (x.expired + (x.gaps.map (·.count)).sum) % 2 ^ 32 }

/-- A station that waits for a recovered clock takes it from the port that comes up (R256). -/
def freqPortUp (s : State) (port : Nat) : State :=
  match s.time.freq with
  | .holdover _ => { s with time := { s.time with freq := .port port } }
  | _ => s

/-- The delay exchanges of a port start again with a new link (R254). -/
def pdelayRestart (s : State) (port : Nat) : State :=
  s.updTbPort port fun t => { t with delays := [], pdState := 0, pdCount := 0, asked := none, down := none }

/-- LINK_UP. On an enumerated ring the wrap stands until a TOPOLOGY shows the hop UP; an ENUM that waits for ZB leaves. -/
def linkUp (s : State) (port version : Nat) (m : HelloMsg) : State :=
  let s := if (s.port port).helloSeen then s else sendHello s port
  let s := s.updPort port fun p => { p with
    st := .up, version := version, helloSeen := true, beatsMissed := 0, leaving := 0, holdCause := 0, nbUid := m.uid
    neighbour := if m.station < 64 then m.station else 0, nbValid := m.station < 64, wrap := p.wrap && s.ring.enumerated }
  let s := emit (pdelayRestart s port) 0x5001 port m.station
  sendEnum (sendWaiting (rootOwnHop (freqPortUp (newSession s m) port) port true))

/-- The cause that holds a link out, in the order of R354; 0 where it may come UP. -/
def State.helloCause (s : State) (port : Nat) (m : HelloMsg) : Nat :=
  if (linkVersion m.verMin m.verMax).isNone then 1
  else if m.digest.toNat ≠ s.pat.ringDigest then 2
  else if s.ring.enumerated && !s.ring.uids.contains m.uid then 4
  else if (s.port port).mode = 2 && 9600000 < s.admittedSum then 3
  else 0

def helloRx (s : State) (port : Nat) (m : HelloMsg) : State :=
  match (s.port port).st with
  | .up => if m.digest.toNat ≠ s.pat.ringDigest then holdOut s port 2 else s
  | .blockLock | .hello =>
    if m.root && s.isRoot then rootConflict s port m.uid
    else match s.helloCause port m with
      | 0 => linkUp s port ((linkVersion m.verMin m.verMax).getD 3) m
      | 4 => emit (holdOut s port 4) 0x5023 port (m.uid.toNat)
      | c => holdOut s port c
  | _ => s

def execHello (port : Nat) (m : HelloMsg) (s : State) : Host.Outcome State Fault Refusal := .next (helloRx s port m)

/-! ### Enumeration (R359–R361, R378) -/

/-- UID of a station by what the root has met: its neighbours' HELLOs, else the open constant. -/
def State.uidOf (s : State) (st count : Nat) : BitVec 64 :=
  if st = 0 then Config.uid
  else if st = 1 then s.ring.zb.nbUid
  else if st = count - 1 then s.ring.za.nbUid
  else Config.stationUid st

/-- Rates at enumeration: G_RES for every station; the root's own G_s where it fits. -/
def rootLedger (s : State) : State :=
  let t := (List.range s.ring.count).foldl (fun t st => Tbl.set 0 t st gRes) []
  let s := { s with ring := { s.ring with ledger := t } }
  if s.ledgerRoom 0 s.pat.gS then ledgerOwn s s.pat.gS
  else
    let s := emit (closeStream s 5) 0x5032 0 s.pat.gS
    fireDue { s with flt := { s.flt with rows := { s.flt.rows with phase := .closed, refused := true } } }

/-- A station of an enumerated ring wraps at a ring port that is not UP (R361, R381). -/
def wrapDown (s : State) : State :=
  [0, 1].foldl (fun s p => if s.portRole p = 0 && (s.port p).st ≠ .up then wrapAt s p else s) s

/-- What the station has learned of the modes of the other stations' links (R378): its own it sees. -/
def learnModes (s : State) (slow : Nat) : State :=
  let others := [0, 1].foldl (fun m p => match s.hopBit p with | some b => bitSet m b false | none => m) slow
  { s with ring := { s.ring with slow := others } }

/-- Ring order where the stations from `k` on were numbered through the root's ZA: downstream they follow in falling order
(R361, R374). -/
def ringOrder (k n : Nat) : List Nat := List.range (Nat.min k n) ++ ((List.range n).drop k).reverse

/-- The root ends the enumeration: version, table, ENUM_DONE and TOPOLOGY. The requests for G_DATA are decided from ST01 on. -/
def rootDone (s : State) (version linkUp slow : Nat) (order : List Nat) (uids : List (BitVec 64)) : State :=
  let topo := (s.ring.topoEpoch + 1) % 65536
  let count := order.length
  let s := learnModes { s with ring := { s.ring with
    count := count, version := version, uids := uids, enumerated := true, numbered := true, station := 0, crossed := false
    linkUp := linkUp, order := order, topoEpoch := topo, nextTopo := none, enumSent := false, state := ringStateOf linkUp count
    left := [], admitNext := 1, admitWait := [], lowering := [] } } slow
  let s := sendMgmt (sendMgmt s 0xFF 3 (enumDoneBytes s topo)) 0xFF 4 (topologyBytes s topo linkUp order)
  let s := if s.pat.f sRing 0 6 1 ≠ 0 ∧ s.pat.f sRing 0 6 1 ≠ count then emit s 0x5025 count (s.pat.f sRing 0 6 1) else s
  rootLedger (wrapDown (releaseWraps s))

/-- ENUM reaches a member that has taken no number in this enumeration. -/
def takeNumber (s : State) (port next ringVer : Nat) : State :=
  if next = 64 then holdOut (holdOut s 0 5) 1 5
  else
    let cross := port = 1
    let s := if cross then emit s 0x5004 port next else s
    let s := { s with ring := { s.ring with
      station := next, numbered := true, crossed := cross, enumerated := false, enumSent := true, state := 4, enumVer := ringVer } }
    let d := s.portD
    if (s.port d).st = .up then
      sendLocal s d 2 (le 1 (next + 1) ++ le 1 (Nat.min ringVer (s.port d).version) ++ zeros 2 ++ le 8 Config.uid.toNat)
    else s

/-- ENUM with the UID of its root, passed on unchanged. -/
def passEnum (s : State) (port next ringVer : Nat) (rootUid : BitVec 64) : State :=
  let t := takeNumber s port next ringVer
  match t.ring.egress with
  | e :: r =>
    let f := e.frame
    if f.kind = 6 && f.subtype = 2 && s.ring.egress.length < t.ring.egress.length then
      { t with ring := { t.ring with
        egress := { e with frame := zSeal { f with payload := f.payload.take 4 ++ le 8 rootUid.toNat } } :: r } }
    else t
  | [] => t

def enumRx (s : State) (port next ringVer : Nat) (rootUid : BitVec 64) (slow : Nat) : State :=
  if s.isRoot then
    if rootUid ≠ Config.uid then rootConflict s port rootUid
    else if s.ring.state = 4 && port = 0 && !s.ring.enumSent then
      rootDone s (Nat.min ringVer s.ring.enumVer) (2 ^ next - 1) slow (List.range next) ((List.range next).map fun st => s.uidOf st next)
    else s
  else if s.ring.enumSent && !s.ring.enumerated then s
  else passEnum s port next ringVer rootUid

/-- ENUM; a port that carries no Zimir frames takes none (R251). `slow` is what the root learns of the modes of the hops. -/
def execEnum (port next ringVer : Nat) (rootUid slow : BitVec 64) (s : State) : Host.Outcome State Fault Refusal :=
  .next (if s.portRole port ≠ 0 then s else enumRx s port next ringVer rootUid slow.toNat)

/-- ENUM_TIMEOUT: the root numbers the stations beyond the gap through ZA, from the next free number, which the command brings:
R361 does not say how the root learns it (notes/assumptions/28.md). -/
def execEnumTimeout (next : Nat) (s : State) : Host.Outcome State Fault Refusal :=
  .next (if s.isRoot && s.ring.state = 4 && !s.ring.enumSent then
      let s := { s with ring := { s.ring with enumSent := true, count := next } }
      sendLocal s 0 2 (le 1 next ++ le 1 s.ring.enumVer ++ zeros 2 ++ le 8 Config.uid.toNat)
    else s)

/-- ENUM_DONE at a member: version, table, its own number, and the request for its rate. -/
def memberDone (s : State) (count ringVer slow : Nat) (uids : List (BitVec 64)) : State :=
  let own := uids.findIdx? (· == Config.uid)
  let s := { s with ring := { s.ring with
    count := count, version := ringVer, uids := uids, enumerated := own.isSome || s.ring.numbered
    station := own.getD s.ring.station, numbered := own.isSome || s.ring.numbered
    state := if s.ring.state = 2 ∨ s.ring.state = 3 then s.ring.state else 1
    order := if s.ring.order.length = count then s.ring.order else List.range count
    linkUp := if s.ring.order.length = count then s.ring.linkUp else 2 ^ count - 1 } }
  let s := wrapDown (learnModes s slow)
  sendMgmt s 0 5 (le 4 s.pat.gS ++ le 6 s.flt.rows.row ++ zeros 2)

/-- At the root the row ends an enumeration that a gap has cut: what both sides have numbered. TOPO_EPOCH is that of the TOPOLOGY
that follows, which the station applies in its turn (R376, R390). -/
def execEnumDone (count ringVer _topo : Nat) (uids : List (BitVec 64)) (slow : BitVec 64) (s : State) :
    Host.Outcome State Fault Refusal :=
  .next (if s.isRoot then
      (if s.ring.state = 4 && s.ring.enumSent then
        let s := if 64 < count then emit s 0x5024 0 count else s
        let n := Nat.min count 64
        let k := s.ring.count
        rootDone s ringVer (2 ^ n - 1 - 2 ^ (Nat.min k n - 1)) slow.toNat (ringOrder k n) (uids.take n)
      else s)
    else memberDone s count ringVer slow.toNat uids)

/-! ### Admission (R378, R379) -/

def State.ledgerFree (s : State) : Nat := s.ledgerLimit - ledgerSum s.ring.ledger

/-- The root decides a request: a rate that fits the ledger is granted, and a lower one takes effect at its row. -/
def admitOne (s : State) (r : Nat × Nat × Nat) : State :=
  let ok := s.ledgerRoom r.1 r.2.1
  let s := if !ok then s
    else if r.2.1 < Tbl.get 0 s.ring.ledger r.1 && s.rowOpen && s.flt.rows.row < r.2.2 then
      { s with ring := { s.ring with lowering := s.ring.lowering.filter (·.1 ≠ r.1) ++ [r] } }
    else
      { s with ring := { s.ring with
        ledger := Tbl.set 0 s.ring.ledger r.1 r.2.1, lowering := s.ring.lowering.filter (·.1 ≠ r.1) } }
  sendMgmt s r.1 6 (le 1 (b2n (!ok)) ++ zeros 3 ++ le 4 s.ledgerFree)

/-- The requests that follow an enumeration are decided in the order of the station numbers: the next one is decided once it has
come, and a station that cannot be reached is passed over (R378). -/
def admitDue : Nat → State → State
  | 0, s => s
  | n + 1, s =>
    let k := s.ring.admitNext
    if s.ring.count ≤ k then s
    else match s.ring.admitWait.find? (·.1 = k) with
      | some r =>
        admitDue n (admitOne { s with ring := { s.ring with admitNext := k + 1, admitWait := s.ring.admitWait.erase r } } r)
      | none =>
        let linkUp := match s.ring.nextTopo with | some (_, l, _) => l | none => s.ring.linkUp
        if reachable linkUp s.ring.order.length ((indexIn s.ring.order k).getD 0) then s
        else admitDue n { s with ring := { s.ring with admitNext := k + 1 } }

/-! ### TOPOLOGY (R376, R382) -/

/-- At the root: the state of the hops as it learns it, with the modes of the links and the stations that have announced that they
leave. Elsewhere: held until the next frame-cycle boundary. -/
def execTopology (topo count : Nat) (linkUp : BitVec 64) (order : List Nat) (slow : BitVec 64) (left : List (Nat × Nat)) (s : State) :
    Host.Outcome State Fault Refusal :=
  .next (if !s.ring.enumerated then s
    else if s.isRoot then
      let s := learnModes { s with ring := { s.ring with left := left } } slow.toNat
      admitDue 64 (rootLearns s (linkUp.toNat % 2 ^ s.ring.order.length))
    else
      let s := learnModes s slow.toNat
      let s := { s with ring := { s.ring with nextTopo := some (topo, linkUp.toNat, order.take count) } }
      if s.rowOpen then s else applyTopology s)

/-! ### ADMIT_REQ and ADMIT_RSP (R378, R379) -/

/-- ADMIT_REQ at the root: the first request of a station after an enumeration waits for its turn. -/
def execAdmitReq (station rate row : Nat) (s : State) : Host.Outcome State Fault Refusal :=
  .next (if s.isRoot && s.ring.enumerated then
      if station < s.ring.admitNext || s.ring.count ≤ station then admitOne s (station, rate, row)
      else admitDue 64 { s with ring := { s.ring with
        admitWait := s.ring.admitWait.filter (·.1 ≠ station) ++ [(station, rate, row)] } }
    else s)

/-- The answer to the rate that the station asked for when the ring was enumerated. -/
def enumAdmission (s : State) (granted : Bool) : State :=
  if granted then
    if s.flt.rows.refused then
      openStream { s with flt := { s.flt with rows := { s.flt.rows with refused := false } } } s.selBase.val none
    else s
  else if s.flt.rows.refused then s
  else
    let s := emit (closeStream s 5) 0x5032 s.ring.station s.pat.gS
    fireDue { s with flt := { s.flt with rows := { s.flt.rows with phase := .closed, refused := true } } }

/-- ADMIT_RSP: what is left of C_G tells the station the admitted sum (R354). -/
def execAdmitRsp (granted : Bool) (free : Nat) (s : State) : Host.Outcome State Fault Refusal :=
  let s := { s with ring := { s.ring with admitted := s.capacity * 1000 - free } }
  .next (if s.mbx.wait.any (·.onRing) then admitAnswer s granted else enumAdmission s granted)

def execAdmitRspTimeout (s : State) : Host.Outcome State Fault Refusal := .next (admitAnswer s false)

/-! ### BEATs and breaks (R375, R380, R381, R388) -/

def execBeatTx (port : Nat) (s : State) : Host.Outcome State Fault Refusal :=
  .next (if (s.port port).st = .up then sendBeat s port 0 else s)

def execBeatRx (port : Nat) (m : BeatMsg) (s : State) : Host.Outcome State Fault Refusal :=
  .next (if (s.port port).st = .up then
      s.updPort port fun p => { p with
        beatsMissed := 0, leaving := if m.leaving then m.reason else 0, nbUid := m.uid
        neighbour := if m.station < 64 then m.station else p.neighbour, nbValid := p.nbValid || m.station < 64 }
    else s)

/-- BEAT_MISSED: the fourth in a row breaks the hop. -/
def execBeatMissed (port : Nat) (s : State) : Host.Outcome State Fault Refusal :=
  let p := s.port port
  .next (if p.st ≠ .up then s
    else if 3 ≤ p.beatsMissed then breakHop s port .down
    else s.updPort port fun p => { p with beatsMissed := p.beatsMissed + 1 })

/-- LINK_DOWN: loss of signal or of block lock. The port's PTP exchanges start again with the next link, also at
an EXTERNAL port (R254). -/
def execLinkDown (port : Nat) (s : State) : Host.Outcome State Fault Refusal :=
  .next (if (s.port port).st = .off then pdelayRestart s port
    else
      pdelayRestart (breakHop s port .down) port)

/-- BE_DROPPED: reported at most once per second of TB2 and port. -/
def execBeDropped (port : Nat) (s : State) : Host.Outcome State Fault Refusal :=
  let sec := s.time.b2.val / secF
  let again := (s.port port).beSecond = some sec
  let s := (dropNewestBe s port).updPort port fun p => { p with beDropped := sat 65535 (p.beDropped + 1), beSecond := some sec }
  .next (if again then s else emit s 0x5014 port s.srcNo)

end Sys2Proof.Machine
end

