-- ==== Sys2Proof/Machine/RingFrames.lean ====
section
/-!
DEFINITION. Frames on the ring: acceptance and forwarding (R365), the SEQ series of every originator with its gaps (R384,
R385), replay (R383, R385, R386), and CMD, RSP and SKEIN frames (R371, R372, R461, R462). notes/assumptions/29.md.
-/
namespace Sys2Proof.Machine

/-! ### ZIMIR_FRAME_RX (R363–R365) -/

/-- Counted drops by cause: 0 own SRC, 1 HOPS, 3 VERSION, 4 second wrap. -/
def countDrop (s : State) (cause : Nat) : State :=
  { s with ring := { s.ring with drops := Tbl.upd 0 s.ring.drops cause (· + 1) } }

/-- A frame goes on by the other port with HOPS incremented. -/
def forwardFrame (s : State) (port : Nat) (f : ZFrame) (fcsOk : Bool) : State :=
  egressAs s (1 - port) (zSeal { f with hops := f.hops + 1 }) fcsOk

/-- A frame goes on to the other port: it is for others, or for all, and its hops are not spent. -/
def State.passesOn (s : State) (port : Nat) (f : ZFrame) : Bool :=
  !(s.ring.enumerated && f.version ≠ s.ring.version) && !(s.ring.numbered && f.src = s.ring.station) &&
    !(f.dst = 0xFE || (s.ring.numbered && f.dst = s.ring.station)) && (s.port port).st = .up && f.hops < 63

/-- A frame with a bad HCHECK, of another version, or of this station itself is dropped and counted; what is for others goes
on. A guaranteed or MGMT frame has started on the egress before its FCS arrives: where that fails, the copy ends with an
invalid one (R366). A frame with an IEEE 802.1Q or 802.1ad tag counts in FCS_ERR, and one with another EtherType is no Zimir frame
(R363). `uncorr` are the uncorrectable FEC code words met while the frame arrived (R355). The rows of its kind take what is for
this station. -/
def frameRx (s : State) (port etherType uncorr : Nat) (fcsOk : Bool) (f : ZFrame) : State :=
  let own := s.ring.numbered && f.src = s.ring.station
  let mine := f.dst = 0xFE || (s.ring.numbered && f.dst = s.ring.station)
  let bad := fun (s : State) => s.updPort port fun p => { p with fcsErr := sat 65535 (p.fcsErr + 1) }
  let s := s.updPort port fun p => { p with fecUncorr := sat 65535 (p.fecUncorr + uncorr) }
  if (s.port port).st = .off then s
  else if etherType = 0x8100 || etherType = 0x88A8 then bad s
  else if etherType ≠ s.pat.f sRing 0 2 2 then s
  else if !fcsOk || !zCheckOk f then
    let s := bad s
    if zCheckOk f && s.passesOn port f && (kindGuaranteed f.kind || f.kind = 6) then forwardFrame s port f false else s
  else if s.ring.enumerated && f.version ≠ s.ring.version then countDrop s 3
  else if own then countDrop s 0
  else if mine || (s.port port).st ≠ .up then s
  else if 63 ≤ f.hops then countDrop s 1
  else forwardFrame s port f true

def execZimirFrameRx (port etherType uncorr : Nat) (fcsOk : Bool) (f : ZFrame) (s : State) : Host.Outcome State Fault Refusal :=
  .next (frameRx s port etherType uncorr fcsOk f)

/-- The station accepts a frame: its HCHECK holds, it is of the ring version, comes from another station and has this one, or all,
or the link as its DST (R365). -/
def State.accepts (s : State) (f : ZFrame) : Bool :=
  zCheckOk f && !(s.ring.enumerated && f.version ≠ s.ring.version) && !(s.ring.numbered && f.src = s.ring.station) &&
    (f.dst = 0xFF || f.dst = 0xFE || (s.ring.numbered && f.dst = s.ring.station))

/-! ### SEQ tracking (R384) -/

/-- The contiguous ranges of the SEQs `first` … `first + n − 1` that `p` selects, lowest first. -/
def seqRuns (p : Nat → Bool) (first : Nat) : Nat → List (Nat × Nat)
  | 0 => []
  | n + 1 =>
    let l := seqRuns p first n
    let q := (first + n) % 2 ^ 32
    if !p q then l
    else match l.getLast? with
      | some (a, c) => if (a + c) % 2 ^ 32 = q then l.dropLast ++ [(a, c + 1)] else l ++ [(q, 1)]
      | none => [(q, 1)]

/-- A SEQ lies in a gap. -/
def Gap.has (g : Gap) (q : Nat) : Bool := seqDist q g.first < g.count

/-- A gap without one of its SEQs: what is left before it and after it. -/
def Gap.without (g : Gap) (q : Nat) : List Gap :=
  if g.has q then
    let d := seqDist q g.first
    (if d = 0 then [] else [⟨g.first, d⟩]) ++ (if d + 1 = g.count then [] else [⟨(q + 1) % 2 ^ 32, g.count - d - 1⟩])
  else [g]

/-- A gap without a range. -/
def Gap.minus (g : Gap) (first count : Nat) : List Gap :=
  let a := seqDist first g.first
  if a < g.count then
    (if a = 0 then [] else [⟨g.first, a⟩]) ++
      (if a + count < g.count then [⟨(first + count) % 2 ^ 32, g.count - a - count⟩] else [])
  else
    let b := seqDist g.first first
    if b < count then (if b + g.count ≤ count then [] else [⟨(first + count) % 2 ^ 32, b + g.count - count⟩]) else [g]

/-- What a receiver makes of a SEQ. -/
inductive SeqRes where
  | duplicate | newest | filled
deriving DecidableEq, Repr

/-- A SEQ that lies below the highest one and has not been received is accepted; its place is marked. -/
def RxSrc.take (x : RxSrc) (q : Nat) : SeqRes × RxSrc :=
  if !x.started then (.newest, { x with started := true, high := q, map := 0 })
  else
    let d := seqDist q x.high
    let b := seqDist x.high q
    if 0 < d ∧ d < 2 ^ 31 then
      let map := if 65536 < d then 0 else (x.map * 2 ^ d + 2 ^ (d - 1)) % 2 ^ 65536
      (.newest, { x with
        high := q, map := map, gaps := if d = 1 then x.gaps else x.gaps ++ [⟨(x.high + 1) % 2 ^ 32, d - 1⟩]
        spans := if d = 1 then x.spans else x.spans ++ [⟨(x.high + 1) % 2 ^ 32, d - 1⟩] })
    else if b = 0 ∨ 65535 < b ∨ x.map.testBit (b - 1) then (.duplicate, { x with dups := (x.dups + 1) % 2 ^ 32 })
    else (.filled, { x with map := bitSet x.map (b - 1) true, gaps := (x.gaps.map (·.without q)).flatten })

/-- SEQs of a gap that lie more than 65,535 below the highest. -/
def RxSrc.oldPart (x : RxSrc) (g : Gap) : Nat :=
  let b := seqDist x.high g.first
  if b < 65536 then 0 else Nat.min g.count (b - 65535)

/-- Whether nothing of a range is missing any more. -/
def RxSrc.whole (x : RxSrc) (g : Gap) : Bool :=
  !x.gaps.any fun o => seqDist o.first g.first < g.count || seqDist g.first o.first < o.count

/-- The requests of an originator whose range is still missing in part (R385). -/
def trimAsked (s : State) (src : Nat) : State :=
  let x := s.rxSrc src
  { s with ring := { s.ring with asked := s.ring.asked.filter fun a => a.1 ≠ src || !x.whole ⟨a.2.1, a.2.2⟩ } }

/-- A request for a range is outstanding. -/
def noteAsked (s : State) (src first count : Nat) : State :=
  if s.ring.asked.contains (src, first, count) then s
  else { s with ring := { s.ring with asked := s.ring.asked ++ [(src, first, count)] } }

/-- Close a range of an originator's gaps as a loss, and report it (R385). -/
def loseRange (s : State) (src first count : Nat) : State :=
  let x := s.rxSrc src
  let left := (x.gaps.map (·.minus first count)).flatten
  let lost := (x.gaps.map (·.count)).sum - (left.map (·.count)).sum
  if lost = 0 then s
  else
    let s := s.updRx src fun x =>
      { x with gaps := left, spans := x.spans.filter fun g => !{ x with gaps := left }.whole g, expired := (x.expired + lost) % 2 ^ 32 }
    emit (trimAsked s src) 0x5031 src (first + 2 ^ 32 * count)

/-- Gaps that have fallen too far below the highest SEQ. -/
def loseOld (s : State) (src : Nat) : State :=
  (s.rxSrc src).gaps.foldl (fun s g =>
    let n := (s.rxSrc src).oldPart g
    if n = 0 then s else loseRange s src g.first n) s

/-! ### CMD frames (R372, R461) -/

/-- The opcodes of the catalogue (R489, R556, R588). -/
def opKnown (op : Nat) : Bool :=
  inR 0x0001 0x0002 op || inR 0x0010 0x0011 op || op = 0x0020 || inR 0x0100 0x0106 op || inR 0x0200 0x0202 op ||
    inR 0x0210 0x0212 op || inR 0x0300 0x0306 op || inR 0x0400 0x0406 op || inR 0x0500 0x0506 op || inR 0x0600 0x0602 op ||
    inR 0x0700 0x0702 op || inR 0x0800 0x0809 op

/-- The header of a command in a CMD frame. -/
def frameHdr (f : ZFrame) : CmdHdr :=
  ⟨.ring f.src, 0, BitVec.ofNat 16 (fld f.payload 2 2), BitVec.ofNat 32 (fld f.payload 8 4), BitVec.ofNat 32 (fld f.payload 12 4)⟩

/-- A command of a CMD frame is posted: a word in Q0, and the answers that need no execution (R461, R466, R470). -/
def postFrame (s : State) (f : ZFrame) : State :=
  let h := frameHdr f
  let op := fld f.payload 0 2
  let s := { s with mbx := { s.mbx with out := s.mbx.out ++ [⟨h.via, 0, 8, h.tag, false, false⟩] } }
  match (if tagRepeated s h then some (Ans.err stBadParam 0xFFFD)
    else if 8 < ringOutstanding s h.via then some (Ans.err stBusy 0x40)
    else if !opKnown op then some (Ans.err stBadParam 0xFFFF)
    else if fld f.payload 4 4 + 16 ≠ f.payload.length then some (Ans.err stBadParam 0xFFFC)
    else none : Option Ans) with
  | some a => respond s op h a
  | none => (qPut s 0 [BitVec.ofNat 32 (256 * 0x40 + f.src)]).1

/-- A gap of the originator lies below a frame. -/
def State.gapBelow (s : State) (f : ZFrame) : Bool := (s.rxSrc f.src).gaps.any fun g => seqAbove f.seq g.first

/-- Held commands whose gaps have closed are posted, in ascending SEQ order. -/
def releaseHeld (s : State) (src : Nat) : State :=
  let ready := s.ring.heldCmds.filter fun f => f.src = src && !s.gapBelow f
  let s := { s with ring := { s.ring with heldCmds := s.ring.heldCmds.filter fun f => f.src ≠ src || s.gapBelow f } }
  ready.foldl postFrame s

/-- Insert a held frame in SEQ order. -/
def holdFrame (l : List ZFrame) (f : ZFrame) : List ZFrame :=
  l.takeWhile (fun x => !seqAbove x.seq f.seq) ++ f :: l.dropWhile fun x => !seqAbove x.seq f.seq

/-- The command of an accepted CMD frame. -/
def cmdFrame (s : State) (f : ZFrame) : State :=
  if f.payload.length < 16 || !s.mbxOpen then s
  else if s.gapBelow f then { s with ring := { s.ring with heldCmds := holdFrame s.ring.heldCmds f } }
  else releaseHeld (postFrame s f) f.src

/-! ### GUARANTEED_FRAME_RX and the closing of gaps (R384, R385) -/

/-- A frame counts as received: RECOVERED counts it where it comes by replay; the ranges of which nothing is missing any more are
closed, and reported as served where a replayed frame closes them; held commands go on where their gap has closed (R385, R391). -/
def received (s : State) (f : ZFrame) (y : RxSrc) : State :=
  let replayed := f.flags.getLsbD 0
  let s := s.updRx f.src fun _ =>
    { y with spans := y.spans.filter fun g => !y.whole g, recovered := (y.recovered + b2n replayed) % 2 ^ 32 }
  let s := if replayed then
      (y.spans.filter y.whole).foldl (fun s g => emit s 0x5030 f.src (g.first + 2 ^ 32 * g.count)) s
    else s
  let s := trimAsked s f.src
  if f.kind = 3 then s else releaseHeld s f.src

/-- A CMD or RSP frame that has been accepted is passed on to its row (R384). -/
def passOn (s : State) (f : ZFrame) : State :=
  if f.kind = 3 || f.kind = 4 then { s with ring := { s.ring with accepted := s.ring.accepted ++ [f] } } else s

/-- A guaranteed frame is accepted by its SEQ and passed on, or discarded as a duplicate. -/
def guaranteedRx (s : State) (f : ZFrame) : State :=
  match (s.rxSrc f.src).take f.seq with
  | (.duplicate, y) => s.updRx f.src fun _ => y
  | (.newest, y) => passOn (loseOld (received s f y) f.src) f
  | (.filled, y) => passOn (received s f y) f

/-- This station's own frames are delivered on the root, and elsewhere with LOCAL (R367, R411). -/
def State.takesEntry (s : State) (n : Nat) (f : ZFrame) : Bool :=
  !(s.ring.numbered && f.src = s.ring.station) || s.wantsOwn n

/-- A guaranteed frame arrives: a duplicate is discarded before delivery (R429); another counts as received once its entry has
been written, or where no channel delivers its KIND (R421). -/
def acceptG (s : State) (f : ZFrame) : State :=
  match (s.rxSrc f.src).take f.seq, s.deliveryCh f.kind with
  | (.duplicate, _), _ => guaranteedRx s f
  | _, some n =>
    if !s.takesEntry n f then guaranteedRx s f
    else if s.canDeliver f then deliver (guaranteedRx s f) n f else deliver s n f
  | _, none => guaranteedRx s f

/-- A guaranteed frame for this station arrives. -/
def arriveG (s : State) (f : ZFrame) : State :=
  if kindGuaranteed f.kind && f.src < 64 && s.accepts f then acceptG s f else s

def execGuaranteedFrameRx (f : ZFrame) (s : State) : Host.Outcome State Fault Refusal := .next (arriveG s f)

/-- The row of a CMD or RSP frame takes it once: where GUARANTEED_FRAME_RX has accepted it, that frame, else it is the arrival
itself, which its SEQ accepts or discards (R384, notes/assumptions/29.md). -/
def takeAccepted (s : State) (f : ZFrame) (act : State → ZFrame → State) : State :=
  let s := if s.ring.accepted.contains f then s else arriveG s f
  if s.ring.accepted.contains f then act { s with ring := { s.ring with accepted := s.ring.accepted.erase f } } f else s

/-- CMD_FRAME_RX. -/
def execCmdFrameRx (f : ZFrame) (s : State) : Host.Outcome State Fault Refusal :=
  .next (if f.kind = 3 then takeAccepted s f cmdFrame else s)

/-- REPLAY_REQ to an originator, counted, and outstanding until its gap closes (R385, R391, R440). -/
def askReplay (s : State) (originator first count : Nat) : State :=
  if s.engineOn then
    let s := s.updRx originator fun x => { x with reqs := sat 65535 (x.reqs + 1) }
    sendMgmt (noteAsked s originator first count) originator 7 (le 4 first ++ le 2 count ++ zeros 2)
  else s

/-- GAP_WAIT_EXPIRY: the request for a gap that is still open, one per contiguous range. -/
def execGapWaitExpiry (originator seq : Nat) (s : State) : Host.Outcome State Fault Refusal :=
  .next (match (s.rxSrc originator).gaps.find? (·.has seq) with
    | some g => askReplay s originator g.first (Nat.min 4096 g.count)
    | none => s)

/-- REPLAY_EXPIRED: REPLAY_MS has passed since the gap opened. -/
def execReplayExpired (originator seq : Nat) (s : State) : Host.Outcome State Fault Refusal :=
  .next (match (s.rxSrc originator).gaps.find? (·.has seq) with
    | some g => releaseHeld (loseRange s originator g.first g.count) originator
    | none => s)

/-- REPLAY_NAK: the originator holds the range no longer. -/
def execReplayNak (originator first count _oldest : Nat) (s : State) : Host.Outcome State Fault Refusal :=
  .next (releaseHeld (loseRange s originator first count) originator)

/-! ### Replay by the originator (R383, R385) -/

/-- A frame is sent again with REPLAY set and its header otherwise unchanged. -/
def resend (s : State) (f : ZFrame) : State :=
  let s := emitG s (zSeal { f with flags := f.flags ||| 1 })
  { s with ring := { s.ring with served := (s.ring.served + 1) % 2 ^ 32 } }

/-- OLDEST_SEQ: the oldest frame held, or the next to come. -/
def State.oldestSeq (s : State) : Nat := (s.ring.replay.head?.map (·.seq)).getD s.ring.gSeq

/-- REPLAY_NAK for a range that the window does not hold. -/
def sendNak (s : State) (requester : Nat) (run : Nat × Nat) : State :=
  let s := { s with ring := { s.ring with naks := sat 65535 (s.ring.naks + 1) } }
  sendMgmt s requester 8 (le 4 run.1 ++ le 2 run.2 ++ zeros 2 ++ le 4 s.oldestSeq)

/-- REPLAY_REQ at the originator: the frames held are sent again, and every range that the window does not hold is refused. The
active engine serves it (R450, R453). -/
def replayServe (s : State) (requester first count : Nat) : State :=
  if !s.engineOn then s else
  let held := s.ring.replay.filter fun f => seqDist f.seq first < count
  (seqRuns (fun q => !held.any (·.seq = q)) first count).foldl (fun s r => sendNak s requester r) (held.foldl resend s)

def execReplayReq (requester first count : Nat) (s : State) : Host.Outcome State Fault Refusal :=
  .next (if inR 1 4096 count then replayServe s requester first count else s)

/-- REPLAY_WINDOW_EXPIRY: a frame, and every older one, leaves the region. -/
def execReplayWindowExpiry (seq : Nat) (s : State) : Host.Outcome State Fault Refusal :=
  .next (if s.ring.replay.any (·.seq = seq) then
      { s with ring := { s.ring with replay := s.ring.replay.filter fun f => seqAbove f.seq seq } }
    else s)

/-! ### SKEIN and RSP frames (R371, R372, R462) -/

/-- SKEIN_FRAME_RX at its requester. -/
def execSkeinFrameRx (f : ZFrame) (s : State) : Host.Outcome State Fault Refusal :=
  .next (if f.kind = 2 && s.accepts f then { s with ring := { s.ring with skeinRx := s.ring.skeinRx ++ [f] } } else s)

/-- A response longer than the span of the command that it answers is cut (R471). -/
def cutResponse (b : Bytes) (span : Nat) : Bytes :=
  let room := 256 * span
  if b.length ≤ room then b
  else
    let full := b.length - 16
    putFld (putFld (putFld (b.take room) 2 2 stLimit) 4 4 (room - 16)) 14 2 (16 + full)

/-- The response of a forwarded command goes into the slot that holds it. -/
def rspFrame (s : State) (f : ZFrame) : State :=
  match s.mbx.out.find? fun o => o.remote && o.tag.toNat = fld f.payload 8 4 with
  | none => s
  | some o =>
    if f.payload.length < 16 then s
    else
      let b := cutResponse f.payload o.span
      let s := { s with mbx := { s.mbx with
        out := s.mbx.out.erase o
        last := some ⟨o.via, o.slot, fld b 0 2, fld b 2 2, o.tag, fld b 12 2, fld b 14 2, b.drop 16⟩ } }
      putResponse s o.via o.slot b

/-- RSP_FRAME_RX. -/
def execRspFrameRx (f : ZFrame) (s : State) : Host.Outcome State Fault Refusal :=
  .next (if f.kind = 4 then takeAccepted s f rspFrame else s)

/-! ### RING_REPLAY (R489) -/

/-- The SEQs of a range that have not been received become gaps, one for each contiguous range. -/
def openGaps (x : RxSrc) (first count : Nat) : RxSrc :=
  let lost := fun q =>
    let b := seqDist x.high q
    x.started && 0 < b && b ≤ 65535 && !x.map.testBit (b - 1) && !x.gaps.any (·.has q)
  let new := (seqRuns lost first count).map fun r => ⟨r.1, r.2⟩
  { x with gaps := x.gaps ++ new, spans := x.spans ++ new }

/-- The root asks a station to replay a range; REPLAY_SERVED or REPLAY_EXPIRED follow as its gaps close, and at once where
nothing of the range is missing. -/
def ringReplayBody (s : State) (p : Bytes) : State × Option Ans :=
  let st := fld p 0 1
  let first := fld p 4 4
  let count := fld p 8 2
  if !s.isRoot then answer s (Ans.err stBadParam Config.headerDetail.toNat)
  else if !(s.ring.enumerated && st < s.ring.count) then answer s (Ans.err stNoResource 0)
  else
    let s := askReplay (s.updRx st fun x => openGaps x first count) st first count
    answer (if (s.rxSrc st).whole ⟨first, count⟩ then trimAsked (emit s 0x5030 st (first + 2 ^ 32 * count)) st else s) Ans.done

def cmdRingReplay : CmdHdr → Bytes → State → State :=
  mailbox 0x0600 (form 12 fun p => [(0, fld p 0 1 < 64), rsv p 1 3, (8, inR 1 4096 (fld p 8 2)), rsv p 10 2]) fun s _ p =>
    ringReplayBody s p

def execRingReplay (h : CmdHdr) (p : Bytes) (s : State) : Host.Outcome State Fault Refusal := .next (cmdRingReplay h p s)

end Sys2Proof.Machine
end

