-- ==== Sys2Proof/Machine/Dma.lean ====
section
/-!
DEFINITION. The DMA channels (R409–R429): descriptors and their checks, where their bytes go, start, pause, resume, abort,
drain, and delivery. notes/assumptions/33.md.
-/
namespace Sys2Proof.Machine

/-! ### Refused accesses and ends -/

def badAccess (s : State) : State := { s with host := { s.host with badacc := sat 65535 (s.host.badacc + 1) } }

/-- The status of a RESULT (R418); of KZ that of its job (R344). -/
def dmaStatus (c : DmaCh) (result : Nat) : Nat :=
  match result with
  | 0 | 1 => stOk
  | 2 => 8
  | 3 => 9
  | 4 | 11 => stTruncated
  | 5 => stBadParam
  | 9 => stBusy
  | 10 => kzStatus ((c.kz.map (·.result)).getD 7)
  | _ => stNoResource

/-- STOPPED with a RESULT of 4 to 11, and DMA_ERROR with the channel, RESULT and status, TAG, and LINE, IN_LINE and DESC of
DMA_POS_nn, of which a record takes as many low bytes as it has (R418). -/
def dmaFail (s : State) (n result : Nat) : State :=
  let c := s.dmaCh n
  let tag := if c.px64 || c.delivery then 0 else fld c.cur 4 4
  let s := kzWithdraw (dmaVector (s.updDma n fun c => { c with st := .stopped, result := result, aborting := false, kz := none }) n) (0x30 + n)
  emit s 0x5044 n (result + 16 * dmaStatus c result + 2 ^ 8 * tag + 2 ^ 40 * c.posLine + 2 ^ 72 * c.posIn + 2 ^ 104 * c.posDesc)

/-- The PCIe link is up: DMA needs it (R408). -/
def State.linkOk (s : State) : Bool := s.host.gen ≠ 0

/-! ### Native descriptors (R412–R415) -/

/-- Checks of R413 and R415 on a native descriptor with the KZ_JOB that follows it. -/
def nativeOk (d : Bytes) : Bool :=
  let f := fun o => fld d o 4
  let op := fld d 0 1
  let line := fun o => inR 1 (2 ^ 24) (f o)
  let dstep := (signed 32 (f 40)).natAbs
  64 ≤ d.length && op ≤ 2 && fld d 1 1 < 8 && fld d 2 1 = b2n (op = 2) && fld d 3 1 = 0 && line 24 && line 32 && line 36 &&
    line 44 && (op = 1 || f 24 * f 32 = f 36 * f 44) && (f 44 ≤ 1 || f 36 ≤ dstep) && (op ≠ 1 || (f 32 = 1 && f 44 = 1)) &&
    (op ≠ 2 || f 32 = 1) && (!(fld d 1 1).testBit 1 || fld d 48 8 = 0) && (if op = 2 then f 56 ≠ 0 else f 56 = 0) && f 60 = 0 &&
    (op ≠ 1 || (jobOk (slice d 64 32) && jobOutLimit (slice d 64 32) ≤ f 36))

/-- Checks of R416 and R417 on a PX64 descriptor. -/
def px64Ok (d : Bytes) : Bool :=
  40 ≤ d.length && bits (fld d 12 1) 4 3 = 0 && fld d 13 1 = 0 && fld d 14 2 ≠ 0 && fld d 16 2 ≠ 0 && fld d 18 2 ≠ 0 &&
    (!(fld d 12 1).testBit 1 || fld d 32 8 = 0)

def DmaCh.descOk (c : DmaCh) (d : Bytes) : Bool := if c.px64 then px64Ok d else nativeOk d

/-- OP of the descriptor in progress: every PX64 descriptor reads a skein (R417). -/
def DmaCh.op (c : DmaCh) : Nat := if c.px64 then 2 else fld c.cur 0 1

def DmaCh.flagBits (c : DmaCh) : Nat := if c.px64 then fld c.cur 12 1 else fld c.cur 1 1
def DmaCh.irq (c : DmaCh) : Bool := c.flagBits.testBit 0
def DmaCh.isLast (c : DmaCh) : Bool := c.flagBits.testBit 1
def DmaCh.pauseAfter (c : DmaCh) : Bool := !c.px64 && c.flagBits.testBit 2
def DmaCh.next (c : DmaCh) : Nat := if c.px64 then fld c.cur 32 8 else fld c.cur 48 8

/-- ELEM of a PX64 descriptor in bytes. -/
def elemBytes (d : Bytes) : Nat := 2 ^ bits (fld d 12 1) 2 2

/-- Bytes that the descriptor asks for. -/
def DmaCh.total (c : DmaCh) : Nat :=
  if c.px64 then fld c.cur 14 2 * fld c.cur 16 2 * fld c.cur 18 2 * elemBytes c.cur else fld c.cur 24 4 * fld c.cur 32 4

/-- The skein that the descriptor reads, and the offset in its image. -/
def DmaCh.skeinId (c : DmaCh) : Nat := if c.px64 then c.px64Skein else fld c.cur 56 4
def DmaCh.skeinOff (c : DmaCh) : Nat := if c.px64 then fld c.cur 8 4 else fld c.cur 8 8

/-! ### Where bytes go -/

/-- An address moved by a signed distance, modulo 2^64. -/
def moved (a : Nat) (d : Int) : Nat := (((a : Int) + d) % (2 ^ 64 : Nat)).toNat

/-- Write consecutive source bytes into pieces of `len` bytes, piece j at `at_ j`, but for the first `skip` of them. -/
def writePieces (at_ : Nat → Nat) (len : Nat) : Nat → Nat → Nat → Bytes → State → State
  | 0, _, _, _, s => s
  | f + 1, skip, j, b, s =>
    if b.isEmpty then s
    else
      let p := b.take len
      let k := Nat.min skip p.length
      writePieces at_ len f (skip - p.length) (j + 1) (b.drop len) (if k = p.length then s else hostWrite s (at_ j + k) (p.drop k))

/-- Address of the j-th destination piece (R413, R416). -/
def DmaCh.pieceAt (c : DmaCh) (j : Nat) : Nat :=
  let d := c.cur
  if c.px64 then
    let c0 := fld d 14 2
    let c1 := fld d 16 2
    let st := fun o => signed 32 (fld d o 4)
    moved (fld d 0 8) ((j % c0 : Nat) * st 20 + (j / c0 % c1 : Nat) * st 24 + (j / c0 / c1 : Nat) * st 28)
  else moved (fld d 16 8) ((j : Int) * signed 32 (fld d 40 4))

def DmaCh.pieceLen (c : DmaCh) : Nat := if c.px64 then elemBytes c.cur else fld c.cur 36 4

/-- POS: source line and bytes of it for a native descriptor; the element for a PX64 one (R411). -/
def DmaCh.posOf (c : DmaCh) (n : Nat) : Nat × Nat :=
  let l := if c.px64 then elemBytes c.cur else fld c.cur 24 4
  if l = 0 then (0, 0) else (n / l, n % l)

/-- Bytes of the descriptor in progress that POS accounts for. -/
def DmaCh.posBytes (c : DmaCh) : Nat :=
  let l := if c.px64 then elemBytes c.cur else fld c.cur 24 4
  c.posLine * l + c.posIn

/-- Put the first bytes of a descriptor's transfer in their places, from POS on (R425). -/
def placeBytes (s : State) (c : DmaCh) (b : Bytes) : State := writePieces c.pieceAt c.pieceLen b.length c.posBytes 0 b s

/-! ### Beginning a descriptor -/

/-- What a SKEIN descriptor meets at its skein: 8 evicted, 9 still open, 0 neither (R414). -/
def State.skeinResult (s : State) (id : Nat) : Nat :=
  match s.skein? id with
  | none => 8
  | some k => if k.closed then 0 else 9

/-- The channel takes a descriptor that it has fetched: it runs, or ends with a RESULT. -/
def beginDesc (s : State) (n addr : Nat) (d : Bytes) (line in_ : Nat) : State :=
  let s := s.updDma n fun c =>
    { c with st := .running, cur := d, posDesc := addr, posLine := line, posIn := in_, kz := none }
  let c := s.dmaCh n
  if !c.descOk d then dmaFail s n 5
  else if c.op = 2 ∧ s.skeinResult c.skeinId ≠ 0 then dmaFail s n (s.skeinResult c.skeinId)
  else s

/-- A KIND stands in the masks of two delivery channels (R419). -/
def State.kindTwice (s : State) (n : Nat) : Bool :=
  (List.range 16).any fun m => m ≠ n && (s.dmaCh m).delivery && (s.dmaCh m).kindMask &&& (s.dmaCh n).kindMask ≠ 0

/-! ### Commands (R424–R426) -/

/-- Owner tag of a channel (R409). -/
def State.dmaTag (s : State) (n : Nat) (via : Via) : Nat :=
  if (s.dmaCh n).delivery then 0x20 + s.fe.active else match via with | .ring _ => 0x01 | v => viaTag v

/-- START (R426): IDLE and STOPPED only; anything else is ignored. It resets the channel as a Kilzar holder (R48). A ring transport has no DMA of its own: it stands for the
control core. -/
def dmaStart (s : State) (n : Nat) (via : Via) (desc : Bytes) : State :=
  let c := s.dmaCh n
  if c.st ≠ .idle ∧ c.st ≠ .stopped then badAccess s
  else
    let s := (acquire (unbar s (0x30 + n)) (.dma n)).updDma n fun c =>
      { c with bytes := 0, doneDesc := 0, posDesc := c.desc, posLine := 0, posIn := 0, result := 0
               cur := [], owner := s.dmaTag n via, thrCount := 0, fullEp := false, aborting := false }
    let al := if c.px64 then 8 else 64
    if c.rsvSet || (c.delivery && s.kindTwice n) || (!c.delivery && c.desc % al ≠ 0) then dmaFail s n 5
    else if !s.linkOk then dmaFail s n 6
    else if c.delivery then s.updDma n fun c => { c with st := .running }
    else beginDesc s n c.desc desc 0 0

def execDmaStart (n : Nat) (via : Via) (desc : Bytes) (s : State) : Host.Outcome State Fault Refusal :=
  .next (dmaStart s n via desc)

/-- PAUSE (R424, R425). -/
def dmaPause (s : State) (n : Nat) : State :=
  if (s.dmaCh n).st = .running then s.updDma n fun c => { c with st := .pausing } else badAccess s

def execDmaPause (n : Nat) (s : State) : Host.Outcome State Fault Refusal := .next (dmaPause s n)

/-- RESUME (R425): the descriptor at POS is fetched again and used as found. -/
def dmaResume (s : State) (n : Nat) (desc : Bytes) : State :=
  let c := s.dmaCh n
  if c.st ≠ .paused ∧ c.st ≠ .pausedPower then badAccess s
  else if !s.linkOk then dmaFail s n 6
  else if c.delivery then s.updDma n fun c => { c with st := .running }
  else beginDesc s n c.posDesc desc c.posLine c.posIn

def execDmaResume (n : Nat) (desc : Bytes) (s : State) : Host.Outcome State Fault Refusal := .next (dmaResume s n desc)

/-- ABORT (R426): as PAUSE, then STOPPED with ABORTED. A paused channel has nothing left to write. -/
def dmaAbort (s : State) (n : Nat) : State :=
  match (s.dmaCh n).st with
  | .running | .pausing => s.updDma n fun c => { c with st := .pausing, aborting := true }
  | .paused | .pausedPower => dmaFail s n 4
  | _ => s

def execDmaAbort (n : Nat) (s : State) : Host.Outcome State Fault Refusal := .next (dmaAbort s n)

/-! ### The last write leaves (R423, R424, R427) -/

/-- Address of source line `j` in host memory (R413). -/
def DmaCh.sourceAt (c : DmaCh) (j : Nat) : Nat := moved (fld c.cur 8 8) ((j : Int) * signed 32 (fld c.cur 28 4))

/-- The host's memory at the source lines holds what the channel's reads have returned, line by line. -/
def sourceHolds (s : State) (c : DmaCh) (data : Bytes) : State :=
  if c.op = 2 || fld c.cur 24 4 = 0 then s else writePieces c.sourceAt (fld c.cur 24 4) data.length 0 0 (data.take c.total) s

/-- The first `n` bytes of the source lines, in order. -/
def State.gather (s : State) (c : DmaCh) (n : Nat) : Bytes :=
  let l := fld c.cur 24 4
  (((List.range (ceilDiv n (Nat.max 1 l))).map fun j => s.hostRead (c.sourceAt j) (Nat.min l (n - j * l))).flatten).take n

/-- The bytes of the descriptor in progress whose writes have left, as many as `data` has: of a skein, those of its image, else
those of the source lines. -/
def State.written (s : State) (c : DmaCh) (data : Bytes) : Bytes :=
  if c.op = 2 then
    match s.skein? c.skeinId with
    | some k => ((skeinImage k).drop c.skeinOff).take (Nat.min data.length c.total)
    | none => data.take c.total
  else s.gather c (Nat.min data.length c.total)

/-- A drain ends on a line boundary: whole lines of what has been read, a line of a PX64 descriptor being one pass of its
inner loop (R416, R427). -/
def DmaCh.wholeLines (c : DmaCh) (data : Bytes) : Bytes :=
  let l := if c.px64 then fld c.cur 14 2 * elemBytes c.cur else fld c.cur 24 4
  if c.total ≤ data.length then data else data.take (data.length / Nat.max 1 l * l)

/-- A descriptor's writes reach `data`: host memory, BYTES and POS follow. -/
def progress (s : State) (n : Nat) (data : Bytes) : State :=
  let c := s.dmaCh n
  if c.delivery || c.op = 1 then s
  else
    let s := sourceHolds s c data
    let b := s.written c data
    let p := c.posOf b.length
    (placeBytes s c b).updDma n fun c =>
      { c with bytes := c.bytes + (b.length - c.posBytes), posLine := p.1, posIn := p.2 }

/-- DMA_PAUSED. -/
def execDmaPaused (n : Nat) (data : Bytes) (s : State) : Host.Outcome State Fault Refusal :=
  .next (if (s.dmaCh n).st = .pausing then
      let s := progress s n data
      if (s.dmaCh n).aborting then dmaFail s n 4
      else dmaVector (s.updDma n fun c => { c with st := .paused, result := 1 }) n
    else s)

/-- DMA_DRAIN_REQUEST (R427): every channel that is RUNNING or PAUSING drains. -/
def drainAll (s : State) : State :=
  (List.range 16).foldl (fun s n =>
    if (s.dmaCh n).st = .running ∨ (s.dmaCh n).st = .pausing then s.updDma n fun c => { c with st := .draining, aborting := false }
    else s) s

def execDmaDrainRequest (s : State) : Host.Outcome State Fault Refusal := .next (drainAll s)

def execDmaPausedPower (n : Nat) (data : Bytes) (s : State) : Host.Outcome State Fault Refusal :=
  .next (if (s.dmaCh n).st = .draining then
      let s := (progress s n ((s.dmaCh n).wholeLines data)).updDma n fun c => { c with st := .pausedPower, result := 2 }
      emit (dmaVector s n) 0x6020 n 0
    else s)

/-- DMA_ABORT_POWER: outstanding reads are abandoned. -/
def execDmaAbortPower (n : Nat) (data : Bytes) (s : State) : Host.Outcome State Fault Refusal :=
  .next (if (s.dmaCh n).st = .draining then
      let s := (progress s n data).updDma n fun c => { c with st := .stopped, result := 3 }
      emit (dmaVector s n) 0x6021 n 0
    else s)

/-! ### A descriptor completes (R414–R418, R423) -/

/-- The KZ_JOB of a channel's descriptor stands posted, or runs. -/
def State.kzAtWork (s : State) (decompressor : Bool) (tag : Nat) : Bool :=
  if decompressor then (s.kzD.job.isSome && s.kzD.runner == tag) || s.kzD.waiting.any (·.tag == tag)
  else (s.kzC.job.isSome && s.kzC.runner == tag) || s.kzC.waiting.any (·.tag == tag)

/-- The channel's engine works through the KZ_JOB of its descriptor: the job is posted where it has not been, a job that
runs ends, and a barred channel's completes with TRUNCATED (R47, R48). -/
def kzForChannel (s : State) (n : Nat) (input : Bytes) : State :=
  let tag := 0x30 + n
  let job := slice (s.dmaCh n).cur 64 32
  let d := jobOp job = 1
  if (s.dmaCh n).kz.isSome then s
  else if s.isBarred (.kilzar d) tag then kzToDma s tag ⟨7, 0, false, 0, 0, 0, 0, []⟩
  else
    let s := if s.kzAtWork d tag then s else kzPost s d ⟨tag, job, input⟩
    let runs := if d then s.kzD.job.isSome && s.kzD.runner == tag else s.kzC.job.isSome && s.kzC.runner == tag
    if runs then kzJobDone s d else s

/-- The descriptor is done: write-back, DONE_DESC, the vector, and the next descriptor, a pause or the end of the list. -/
def finishDesc (s : State) (n : Nat) (next : Bytes) : State :=
  let c := s.dmaCh n
  let s := if c.px64 && c.writeback then hostWrite s (c.posDesc + 12) (le 1 (fld c.cur 12 1 ||| 128)) else s
  let s := s.updDma n fun c => { c with doneDesc := (c.doneDesc + 1) % 2 ^ 32 }
  let s := if c.irq then dmaVector s n else s
  if c.isLast then s.updDma n fun c => { c with st := .idle, result := 0 }
  else
    match c.st with
    | .running =>
      if c.pauseAfter then
        dmaVector (s.updDma n fun d => { d with st := .paused, result := 1, posDesc := c.next, posLine := 0, posIn := 0 }) n
      else
        beginDesc s n c.next next 0 0
    | _ => s.updDma n fun d => { d with posDesc := c.next, posLine := 0, posIn := 0, cur := next }

/-- A channel stops with a RESULT; bytes of an evicted skein whose writes have left before stand (R414). -/
def readStops (s : State) (n : Nat) (data : Bytes) (result : Nat) : State :=
  dmaFail (if result = 9 then s else progress s n data) n result

/-- A SKEIN or MOVE descriptor's bytes are in place; SHORT tells of the last SKEIN descriptor (R411). -/
def moveDone (s : State) (n : Nat) (data next : Bytes) : State :=
  let c := s.dmaCh n
  if c.op = 2 ∧ s.skeinResult c.skeinId ≠ 0 then readStops s n data (s.skeinResult c.skeinId)
  else
    let all := if c.op = 2 then zeros c.total else data
    let short := if c.op = 2 then decide ((s.written c all).length < c.total) else c.short
    let s := (progress s n all).updDma n fun d => { d with short := short }
    finishDesc s n next

/-- A KZ descriptor: once its job has ended, the output stands at the destination; while another job holds the engine the
job stays posted (R42). -/
def kzDone (s : State) (n : Nat) (input next : Bytes) : State :=
  let s := sourceHolds s (s.dmaCh n) input
  let s := kzForChannel s n (s.gather (s.dmaCh n) (Nat.min input.length (s.dmaCh n).total))
  match (s.dmaCh n).kz with
  | none => s
  | some e =>
    let s := hostWrite s (fld (s.dmaCh n).cur 16 8) e.out
    let s := s.updDma n fun c => { c with bytes := c.bytes + e.out.length, posIn := e.out.length }
    if e.result ≤ 1 then finishDesc (s.updDma n fun c => { c with kz := none }) n next else dmaFail s n 10

/-- DMA_DESCRIPTOR_DONE. -/
def execDmaDescriptorDone (n : Nat) (data next : Bytes) (s : State) : Host.Outcome State Fault Refusal :=
  let c := s.dmaCh n
  .next (if c.delivery ∨ c.cur = [] ∨ ¬ (c.st = .running ∨ c.st = .pausing ∨ c.st = .draining) then s
    else if c.op = 1 then kzDone s n data next
    else moveDone s n data next)

/-- DMA_READ_ERROR (R418): the skein of the descriptor is gone or open, or a host read has failed; `data` has been read before. -/
def execDmaReadError (n : Nat) (data : Bytes) (s : State) : Host.Outcome State Fault Refusal :=
  let c := s.dmaCh n
  .next (if c.delivery ∨ ¬ (c.st = .running ∨ c.st = .pausing ∨ c.st = .draining) then s
    else
      let r := if c.op = 2 && c.cur ≠ [] then s.skeinResult c.skeinId else 0
      if c.cur = [] then dmaFail s n 7 else readStops s n data (if r = 0 then 7 else r))

/-! ### Link loss and Function Level Reset (R429) -/

/-- Channels at work stop with a RESULT; paused ones keep their state. -/
def stopChannels (s : State) (result : Nat) : State :=
  (List.range 16).foldl (fun s n =>
    match (s.dmaCh n).st with
    | .running | .pausing | .draining => dmaFail s n result
    | _ => s) s

/-! ### Delivery (R419–R422) -/

/-- The host advances RD: by whole 64 bytes and not past WR (R420). -/
def rrdWrite (s : State) (n v : Nat) : State :=
  let c := s.dmaCh n
  let m := 2 * c.ringSize
  if v % 64 ≠ 0 ∨ m ≤ v ∨ c.fill < (v + m - c.rd % m) % m then badAccess s
  else s.updDma n fun c => { c with rd := v }

def execDmaRrdWrite (n : Nat) (v : BitVec 32) (s : State) : Host.Outcome State Fault Refusal := .next (rrdWrite s n v.toNat)

/-- DELIVERY_ENTRY. A guaranteed frame counts as received when its entry is written (R421), so that one which has been received
gets no second entry; the copies that LOCAL delivers belong to no series of received frames. -/
def execDeliveryEntry (f : ZFrame) (s : State) : Host.Outcome State Fault Refusal :=
  .next (match s.deliveryCh f.kind with
    | none => s
    | some n =>
      let own := s.ring.numbered && f.src = s.ring.station
      if !s.takesEntry n f then s
      else if kindGuaranteed f.kind && f.src < 64 && (!own || s.isRoot) then acceptG s f
      else deliver s n f)

/-- DMA_THRESHOLD_TIMEOUT. -/
def execDmaThresholdTimeout (n : Nat) (s : State) : Host.Outcome State Fault Refusal :=
  .next (if (s.dmaCh n).delivery ∧ 0 < (s.dmaCh n).thrCount then thrVector s n else s)

end Sys2Proof.Machine
end

