-- ==== Sys2Proof/Machine/Engines.lean ====
section
/-!
DEFINITION. The two frame engines: the frame cycle's end with its state record (R438), heartbeats and switch-over (R439–R447),
reset, full state copy and standby self-test (R448–R450). notes/assumptions/22.md and 30.md.
-/
namespace Sys2Proof.Machine

/-! ### Engines -/

def Fe.eng (f : Fe) (e : Nat) : EngState := if e = 0 then f.a else f.b
def Fe.setEng (f : Fe) (e : Nat) (st : EngState) : Fe := if e = 0 then { f with a := st } else { f with b := st }
def State.setEng (s : State) (e : Nat) (st : EngState) : State := { s with fe := s.fe.setEng e st }

/-- The engine that is not the active one. -/
def State.standby (s : State) : Nat := 1 - s.fe.active

/-- The one automatic reset of an engine declared faulty (R448). -/
def autoReset (s : State) (e : Nat) : State :=
  if (s.pat.f sFe 0 5 1).testBit 0 ∧ ¬ s.fe.autoUsed.testBit e ∧ s.fe.eng e = .faulty then
    { s with fe := { (s.fe.setEng e .selftest) with autoUsed := bitSet s.fe.autoUsed e true } }
  else s

/-- No engine can originate frames (R435, R449): FE_BOTH_FAILED and vector 31. -/
def bothFail (s : State) : State :=
  raiseFatal (emit { s with fe := { s.fe with bothFailed := true } } 0x6035 s.fe.active 0)

/-! ### Frames sent again -/

/-- The last guaranteed DATA frame with REPEAT set (R442). -/
def repeatLast (s : State) : State :=
  s.fe.lastData.foldl (fun s f => emitG s (zSeal { f with flags := f.flags ||| 4 })) s

/-- A new active engine sends every frame from the record's G_SEQ on: those that the old engine has already sent as well,
with its own FLAGS.FE (R443, R445). -/
def resumeFrom (s : State) (seq : Nat) : State :=
  (s.framesFrom seq).foldl (fun s f =>
    emitG s (zSeal { f with flags := (f.flags &&& 0xF7) ||| feBit s })) s

/-! ### FRAME_CYCLE_END (R438) -/

/-- The delivery channels at work pass to the active engine; one whose holder has been declared faulty passes when it is revoked
(R47). -/
def passDelivery (s : State) : State :=
  (List.range 16).foldl (fun s n =>
    if (s.dmaCh n).delivery && (s.dmaCh n).held && !(s.leases.faulty.any (·.1 == .dma n)) then
      s.updDma n fun c => { c with owner := 0x20 + s.fe.active } else s) s

/-- FE_SWITCH at E_c (R447): the active engine stops after its record, and the standby starts with the next cycle. -/
def switchAtEnd (s : State) : State :=
  let old := s.fe.active
  if s.fe.switchReq ∧ s.fe.eng (1 - old) = .ready ∧ s.fe.misses = 0 then
    let fe := (s.fe.setEng old .ready).setEng (1 - old) .active
    let s := { s with fe := { fe with
      active := 1 - old, switchReq := false, switches := sat 65535 (fe.switches + 1), cause := 2, lastRow := fe.nextRow
      lastRec := fe.sentRec, sentRec := none, passPct := 0, passes := 0 } }
    emit (passDelivery s) 0x6030 s.fe.active s.fe.lastRow
  else { s with fe := { s.fe with switchReq := false } }

/-- The active engine hands the cycle's frames to egress, then sends its record; its FRAME_CRC covers the guaranteed frames since
the last frame-cycle end. -/
def cycleFrames (s : State) : State :=
  let seq := s.fe.cycleSeq
  let s := flushEvents (assembleDue 5 s)
  { s with fe := { s.fe with
    sentRec := some (s.feRecord (if s.ring.gSeq = seq then [] else s.framesFrom seq)), cycleSeq := s.ring.gSeq, recheck := false } }

def cycleEnd (s : State) : State :=
  let s := dropOldRows (applyTopology s)
  if s.engineOn then switchAtEnd (cycleFrames s) else s

def execFrameCycleEnd (s : State) : Host.Outcome State Fault Refusal :=
  .next (if s.rowOpen && 0 < s.flt.rows.row && s.flt.rows.row % 2 ^ s.pat.cycleM = 0 then cycleEnd s else s)

/-! ### Heartbeats (R439–R446) -/

/-- The state copy renews the leases of the delivery channels, from the full copy on (R47, R440). -/
def renewDelivery (s : State) : State :=
  if s.fe.eng s.standby = .ready then
    (List.range 16).foldl (fun s n => if (s.dmaCh n).delivery && (s.dmaCh n).held then renew s (.dma n) else s) s
  else s

/-- A good heartbeat: the record is kept, and HOLD ends. -/
def goodBeat (s : State) (r : FeRec) : State :=
  let s := renewDelivery s
  refreshOutputs { s with fe := { s.fe with
    lastRec := some r, sentRec := none, misses := 0, hold := false, beatAt := some s.time.b2.val } }

/-- FE_HEARTBEAT: the record that was sent arrives. One with a wrong CHECK is discarded and counted; its deadline is missed. -/
def execFeHeartbeat (checkOk : Bool) (s : State) : Host.Outcome State Fault Refusal :=
  .next (match s.fe.sentRec with
    | some r => if checkOk then goodBeat s r
                else { s with fe := { s.fe with sentRec := none, copyErr := sat 65535 (s.fe.copyErr + 1) } }
    | none => s)

/-- The active engine is declared faulty: its delivery leases are to be revoked in the next cycle (R47). -/
def activeFaulty (s : State) : State :=
  let chs := (List.range 16).filter fun n => (s.dmaCh n).delivery && (s.dmaCh n).st ≠ .idle && (s.dmaCh n).st ≠ .stopped
  { s with
    fe := { (s.fe.setEng s.fe.active .faulty) with fence := some s.fe.active, switchReq := false, sentRec := none }
    leases := { s.leases with faulty := s.leases.faulty ++ chs.map fun n => (LeaseRes.dma n, 1) } }

/-- The standby becomes active (R443, R444). -/
def takeOver (s : State) : State :=
  let last : Option FeRec := s.fe.lastRec
  let fe := s.fe.setEng (1 - s.fe.active) .active
  let s := { s with fe := { fe with
    active := 1 - s.fe.active, hold := false, misses := 0, switches := sat 65535 (fe.switches + 1), cause := 1
    lastRow := (last.map FeRec.nextRow).getD 0, passPct := 0, passes := 0 } }
  let s := if s.originates then assembleDue 5 (resumeFrom s ((last.map FeRec.gSeq).getD 0)) else s
  emit (refreshOutputs (passDelivery s)) 0x6030 s.fe.active s.fe.lastRow

/-- The takeover check holds: the standby's takeover path works, and the last frame of the record reads the same from the row queue
and from the replay region (R443, R451). -/
def State.checkHolds (s : State) (path : Bool) : Bool := path && s.takeoverAgrees ((s.fe.lastRec.map FeRec.gSeq).getD 0)

/-- The active engine has failed: a READY standby takes over, or turns out faulty as well (R441, R443, R449). -/
def switchOver (s : State) (path : Bool) : State :=
  let sb := s.standby
  if s.fe.eng sb ≠ .ready then bothFail s
  else if s.checkHolds path then takeOver s
  else bothFail (autoReset (s.setEng sb .faulty) sb)

/-- The second miss. -/
def secondMiss (s : State) (path : Bool) : State :=
  switchOver (activeFaulty (repeatLast { s with fe := { s.fe with misses := 2 } })) path

/-- A delivery lease runs out by itself: the engine's state copies have stopped, so it has failed as a missed heartbeat would
show, and the new active engine holds the channels (R47, notes/assumptions/36.md). -/
def deliveryLost (s : State) : State := switchOver (activeFaulty s) true

/-- FE_HEARTBEAT_MISSED: `agrees` is whether the standby's takeover path is without fault (R443, R451). Deadlines are not monitored during a bind-off
(R453), and a good heartbeat of this cycle is in time (R40). -/
def execFeHeartbeatMissed (agrees : Bool) (s : State) : Host.Outcome State Fault Refusal :=
  .next (if s.engineOn && s.pm.binding.isNone && !s.pm.emergency && s.fe.beatAt != some s.time.b2.val then
      if s.fe.misses = 0 then
        emit (repeatLast { s with fe := { s.fe with misses := 1, hold := true, sentRec := none } }) 0x6031 s.fe.active 1
      else secondMiss s agrees
    else s)

/-- FE_FENCE: the old engine stops emitting, and its automatic reset follows (R445, R448). -/
def execFeFence (s : State) : Host.Outcome State Fault Refusal :=
  .next (match s.fe.fence with
    | some e => autoReset { s with fe := { s.fe with fence := none } } e
    | none => s)

/-! ### FE_SWITCH and FE_RESET (R447, R448) -/

def cmdFeSwitch : CmdHdr → Bytes → State → State :=
  mailbox 0x0601 formEmpty fun s _ _ =>
    if s.engineOn && s.fe.eng s.standby = .ready && s.fe.misses = 0 then
      answer { s with fe := { s.fe with switchReq := true } } Ans.done
    else answer s (Ans.err stBusy 0)

def execFeSwitch (h : CmdHdr) (p : Bytes) (s : State) : Host.Outcome State Fault Refusal := .next (cmdFeSwitch h p s)

def cmdFeReset : CmdHdr → Bytes → State → State :=
  mailbox 0x0602 (form 1 fun p => [(0, fld p 0 1 < 2)]) fun s _ p =>
    let e := fld p 0 1
    if s.fe.eng e = .active then answer s (Ans.err stBusy 0)
    else answer { s with fe := { (s.fe.setEng e .selftest) with
        fence := if s.fe.fence = some e then none else s.fe.fence, switchReq := false } } Ans.done

def execFeReset (h : CmdHdr) (p : Bytes) (s : State) : Host.Outcome State Fault Refusal := .next (cmdFeReset h p s)

/-! ### Self-test and full copy (R440, R448–R450) -/

/-- The engine originates from the last good record on, where that is within REPLAY_MS; else from the present cycle on
(R449). -/
def resumeAlone (s : State) (e : Nat) : State :=
  let row := s.flt.rows.row
  let last : Option FeRec := s.fe.lastRec
  let first := (last.map FeRec.nextRow).getD 0
  let inTime := (row - first) * rowT s.flt.chain.k ≤ s.pat.f sRing 0 8 2 * 1000000 * nsF
  let n := 2 ^ s.pat.cycleM
  let fe := s.fe.setEng e .active
  let s := { s with fe := { fe with
    active := e, bothFailed := false, hold := false, misses := 0, passPct := 0, passes := 0 } }
  let s := passDelivery (if inTime then dropOldRows s else loseCycles s (row / n * n))
  let s := if s.originates && inTime then assembleDue 5 (resumeFrom s ((last.map FeRec.gSeq).getD 0)) else s
  refreshOutputs s

/-- FE_RESET_DONE: the power-on self-test ends. A good engine takes a full state copy, or, where none works, resumes. -/
def execFeResetDone (e : Nat) (pass : Bool) (s : State) : Host.Outcome State Fault Refusal :=
  .next (if e < 2 ∧ s.fe.eng e = .selftest then
      let s := if !pass then s.setEng e .faulty
        else if s.engineOn then s.setEng e .resync
        else resumeAlone s e
      emit s 0x6036 e (b2n pass)
    else s)

/-- The full state copy as it stands (R440). -/
def State.fullCopy (s : State) : FeCopy :=
  { good := s.fe.lastRec, asked := s.ring.asked
    cfg := [s.pat.str sStream 0, s.pat.str sRing 0, s.pat.str sTime 0, s.pat.str sFe 0, s.pat.str sOutMap 0] }

/-- FE_RESYNC_DONE: the copy is complete, and the engine is READY as standby. -/
def execFeResyncDone (e : Nat) (s : State) : Host.Outcome State Fault Refusal :=
  .next (if e < 2 ∧ s.fe.eng e = .resync ∧ s.engineOn then
      emit { s with fe := { (s.fe.setEng e .ready) with
        copy := some s.fullCopy
        autoUsed := bitSet s.fe.autoUsed e false, passes := 0, passPct := 0, recheck := false } } 0x6034 e 0
    else s)

/-- One step of the standby's scan, and the end of a pass. -/
def scanStep (s : State) (pct : Nat) : State :=
  let pct := Nat.min 100 pct
  let ends := pct = 100 ∧ s.fe.passPct < 100
  { s with fe := { s.fe with recheck := false, passPct := pct, passes := if ends then sat 65535 (s.fe.passes + 1) else s.fe.passes } }

/-- FE_SELFTEST_STEP: a mismatch is reported and its cycle assembled again; a second one on that cycle marks the standby. -/
def execFeSelftestStep (mismatch : Bool) (pct : Nat) (s : State) : Host.Outcome State Fault Refusal :=
  .next (
    let e := s.standby
    if s.fe.eng e ≠ .ready then s
    else if !mismatch then scanStep s pct
    else
      let again := s.fe.recheck
      let s := emit { s with fe := { s.fe with mismatch := sat 65535 (s.fe.mismatch + 1), recheck := true } } 0x6032 e 0
      if again then autoReset (emit ((s.setEng e .faulty)) 0x6033 e 0) e else s)

end Sys2Proof.Machine
end

