-- ==== Sys2Proof/Machine/Regs.lean ====
section
/-!
DEFINITION. The registers of the blocks (R490): the value of each as its chapter lays it out, field by field from bit 0 up,
and what a write to its RW, W1C and WO fields does (R11–R14, R491). notes/assumptions/31.md.
-/
namespace Sys2Proof.Machine

/-! ### Fields -/

/-- Fields of a register in ascending order: width and value. -/
abbrev Fields := List (Nat × Nat)

/-- The number that the fields make. -/
def fieldsVal : Fields → Nat
  | [] => 0
  | (w, v) :: r => v % 2 ^ w + 2 ^ w * fieldsVal r

def fieldsBits (f : Fields) : Nat := (f.map (·.1)).sum

/-- The bytes of a register: its width rounded up to a whole 4 bytes (R491). -/
def fieldsBytes (f : Fields) : Bytes := le (4 * ceilDiv (fieldsBits f) 32) (fieldsVal f)

def fBool (b : Bool) : Nat × Nat := (1, b2n b)
def fInt (w : Nat) (v : Int) : Nat × Nat := (w, unsigned w v)
def keep0 (w : Nat) : Nat × Nat := (w, 0)

/-- A mask of those of n items for which a test holds. -/
def maskOf (n : Nat) (f : Nat → Bool) : Nat := (List.range n).foldl (fun m i => bitSet m i (f i)) 0

/-! ### Codes -/

def RotPhase.code : RotPhase → Nat
  | .disabled => 0 | .cal => 1 | .ladderWait => 2 | .settle => 3 | .shadow => 4 | .defer => 5 | .frozen => 6
  | .paused => 7 | .noSpare => 8

def BaseState.code : BaseState → Nat
  | .unset => 0 | .acquiring => 1 | .locked => 2 | .holdover => 3 | .freerun => 4 | .localBase => 5 | .host => 6

def SeqRun.code : SeqRun → Nat
  | .idle => 0 | .running => 1 | .halted => 2

def PortState.code : PortState → Nat
  | .down => 0 | .negotiating => 1 | .blockLock => 2 | .hello => 3 | .up => 4 | .heldOut => 5 | .off => 6

def EngState.code : EngState → Nat
  | .active => 0 | .ready => 1 | .resync => 2 | .selftest => 3 | .faulty => 4

def Chrysalis.code : Chrysalis → Nat
  | .none => 0 | .erasing => 1 | .writing => 2 | .verifying => 3 | .verified => 4 | .failed => 5

/-- STATE of PM_STAT; COCOON has no code, since nothing answers there (R586). -/
def PwrState.code : PwrState → Nat
  | .active => 0 | .watch => 1 | .doze => 2 | .cocoon => 3

/-! ### FLT_ (R22, R70, R94, R99, R110, R129, R156, R167, R173, R213, R219, R226, R228) -/

def State.clmapReg (s : State) (cl : Nat) : Fields :=
  let c := s.cluster cl
  ((List.range 8).map fun n => (4, c.slots.getD n 0)) ++ [(4, c.spare), fBool c.spareValid, keep0 11, (16, c.mapSeq)]

def State.exstatReg (s : State) (cl : Nat) : Fields :=
  let d := (s.cluster cl).drv
  [(4, d.code), (8, d.live), keep0 4, (8, d.latched), keep0 8, (16, d.ratio), (8, d.retries), keep0 8]

def State.wireReg (s : State) (cl : Nat) : Fields :=
  let m := fun (f : Chan → Bool) => (8, maskOf 8 fun n => f (s.chan (8 * cl + n)))
  let o := fun (f : Chan → Bool) => (8, maskOf 8 fun n => s.openDetector (8 * cl + n) && f (s.chan (8 * cl + n)))
  [o (·.openP), o (·.openN), m (·.clampLast), m (·.latched)]

def State.wflastReg (s : State) : Fields :=
  let w := s.flt.wfLast
  [(16, w.kind), (16, w.scope), (48, w.onset), (48, w.detect), fBool w.valid, (15, w.count)]

/-- CAL_AGE of a correction set. -/
def State.calAge (s : State) (c : CorrSet) : Nat :=
  match c.calAt with
  | none => 0xFFFF
  | some t => Nat.min 65534 ((s.time.b2.val - t) / secF)

def State.chslcReg (s : State) (ch : Nat) : Fields :=
  let sl := s.chSlice ch
  let c := s.corrSet sl (s.pat.gain ch)
  [fInt 32 c.offset, (32, c.gain), fInt 8 c.phase, keep0 8, (9, sl), keep0 7, (16, s.calAge c)]

def State.rotstatReg (s : State) (cl : Nat) : Fields :=
  let r := (s.cluster cl).rot
  [(4, r.phase.code), (3, r.target), keep0 1, (2, if (s.cluster cl).spareValid then (s.slice (s.spareSlice cl)).fails else 0), keep0 6, fInt 16 r.lastDiff,
    (2, r.lastResult), keep0 14, (16, r.tcalEff), (48, r.hndRow), (9, maskOf 9 fun i => (s.slice (9 * cl + i)).suspect),
    keep0 7]

def State.chainReg (s : State) : Fields :=
  let c := s.flt.chain.cur
  let k := s.flt.chain.k
  [(3, c.order), keep0 1, (3, c.hb), keep0 1, (3, c.firSet), keep0 1, (4, c.a k), (5, k), keep0 3, (8, c.l),
    (32, c.gdelay k), fBool (s.rowOpen && s.flt.rows.row < s.flt.chain.transEnd), keep0 63]

def State.syncReg (s : State) : Fields :=
  let y := s.flt.sync
  [(16, y.count), (2, y.lastSrc), fBool (s.flt.rows.phase = .waitSync), fBool y.offGrid, keep0 12, fInt 32 y.phaseErr,
    (48, y.lastRow), keep0 16]

def State.thrReg (s : State) (w : Nat) : Fields := [(32, s.flt.thrState >>> (32 * w)), (32, s.flt.thrEvent >>> (32 * w))]

def State.swatchReg (s : State) (ch : Nat) : Fields :=
  let b := s.pat.str sSwatch ch
  [(32, fld b 0 4), (32, fld b 4 4), (3, fld b 8 1), (1, fld b 11 1), fBool (s.cal.mismatch.testBit ch), keep0 27,
    (32, fld b 12 4), (48, Tbl.get 0 s.cal.swRow ch), keep0 16]

def State.calresReg (s : State) (ch : Nat) : Fields :=
  let r := s.calRes ch
  [fInt 32 r.mean0, fInt 32 r.mean1, fInt 32 r.pOffset, (32, r.pGain), (16, r.spread), fInt 16 r.residual, (4, r.reason),
    (2, r.points), fBool r.proposal, keep0 25]

def State.trimresReg (s : State) (ch : Nat) : Fields :=
  let r := s.trimRes ch
  [fInt 16 r.delta, fInt 16 r.pTrim, fInt 16 r.dtau, fInt 16 r.pSkew, fBool r.phValid, fBool r.skValid, keep0 30]

def State.fltReg (s : State) (reg i : Nat) : Fields :=
  match reg with
  | 0 => s.clmapReg i
  | 1 => s.exstatReg i
  | 2 => s.wireReg i
  | 3 => s.wflastReg
  | 4 => s.chslcReg i
  | 5 => s.rotstatReg i
  | 6 => s.chainReg
  | 7 => s.syncReg
  | 8 => s.thrReg i
  | 9 => s.swatchReg i
  | 10 => s.calresReg i
  | 11 => s.trimresReg i
  | _ => [(32, Tbl.get 0 s.cal.fdt i)]

/-! ### AUX_ and LIN_ (R136, R138, R187, R194, R202) -/

def auxFields (a : AuxData) : Fields := [(24, a.value), (6, a.entry), fBool a.ovr, fBool a.isNew, (48, a.scanRow)]

def State.auxReg (s : State) (reg i : Nat) : Fields :=
  match reg with
  | 0 => auxFields (s.aux i).data
  | 1 => auxFields (Tbl.get AuxData.init (s.aux (i / 64)).results (i % 64))
  | 2 =>
    let a := s.aux i
    [(6, a.lost), keep0 1, fBool a.ovrLatch, (16, a.ovrCount), keep0 8, (32, s.scanPeriod i)]
  | _ =>
    if i % 64 < s.pat.auxCount (i / 64) then [(32, s.pat.auxOfs (i / 64) (i % 64)), (32, s.pat.auxDur (i / 64) (i % 64))]
    else [keep0 64]

/-- STATE of LIN_TEMP: a substitute is told before a clamp. -/
def State.tempState (s : State) (ch : Nat) : Nat :=
  let live := s.pat.f sTemp ch 0 1 = 2 && (s.tempCh ch).st ≠ 0
  if live then (s.tempCh ch).st else if (clampTheta (s.theta ch).1).2 then 3 else 0

def State.linTempReg (s : State) (ch : Nat) : Fields :=
  let src := s.pat.f sTemp ch 0 1
  [(32, s.thetaShown ch), (2, src), (2, s.tempState ch), keep0 12, (16, if src = 2 then (s.tempCh ch).age else 0)]

def State.linReg (s : State) (reg i : Nat) : Fields :=
  match reg with
  | 0 => s.linTempReg i
  | 1 => [(64, s.lin.stable)]
  | _ =>
    let l := s.lin
    [fBool l.lOvf, fBool l.wOvf, fBool l.tempSub, keep0 13, (8, l.lastCh), (6, l.lastWp), keep0 2, (16, l.ovfCount),
      (9, l.subNow), keep0 7]

/-! ### TB_ (R238, R239, R245, R253, R254, R273–R275) -/

/-- PATH, HOPS, OFFSET, GM_ID and CLASS of a base: as held, at the grandmaster those of the local source, and their reset
values while the base follows no source, as after the station was the grandmaster. -/
def State.basePath (s : State) (n : Nat) : Nat × Nat × Int × Nat × Nat :=
  let b := s.base n
  if s.isGm n then (3, 0, if s.gmSrc n = 0 then 0 else b.offset, Config.uid.toNat, s.ownClass n)
  else if b.st = .unset || b.st = .freerun || b.path = 3 then (0, 0, 0, 0, 255)
  else (b.path, b.hops, b.offset, b.gmId.toNat, b.cls)

def State.tbstatReg (s : State) (n : Nat) : Fields :=
  let b := s.base n
  let (path, hops, ofs, gm, cls) := s.basePath n
  [(3, b.st.code), fBool (s.pm.castOn && s.time.selected = n), fBool (b.slewRem ≠ 0), fBool b.reload, (2, path), (8, b.reject), (6, hops),
    keep0 10, fInt 32 ofs, fInt 48 (b.slewRem / 2 ^ 16), keep0 16, (64, gm), (8, cls), keep0 56]

def State.snapOf (s : State) : Nat → Fns
  | 0 => s.time.snap0
  | 1 => s.time.snap1
  | 2 => s.time.snap2
  | _ => s.time.snap3

def State.tbportReg (s : State) (p : Nat) : Fields :=
  let t := s.tbPort p
  [(32, t.mean), (16, (Config.rxLat p).toNat), (16, (Config.txLat p).toNat), (2, t.pdState), keep0 14, (16, t.pdCount),
    fInt 32 t.ofs0, fInt 32 t.ofs1, fInt 32 t.ofs2, fInt 32 t.proposal, fBool t.propValid, keep0 31]

def State.tbReg (s : State) (reg i : Nat) : Fields :=
  match reg with
  | 0 => [keep0 32]
  | 1 => [(96, time96 (s.snapOf i))]
  | 2 => [(48, s.time.snapRow), fBool s.rowOpen]
  | 3 => [(48, (s.base i).incr), keep0 16]
  | 4 => [fInt 48 (s.base i).slewOfs, (16, (s.base i).slewRate)]
  | 5 => s.tbstatReg i
  | 6 =>
    match s.selBase.utc with
    | some u => [(16, u.offset.toNat), fBool u.leap61, fBool u.leap59, fBool true]
    | none => [(16, 0), fBool false, fBool false, fBool false]
  | 7 => s.tbportReg i
  | 8 =>
    let e := s.tev i
    [(2, e.st), (2, e.result), keep0 12, (16, e.fires), (48, e.row), keep0 16]
  | 9 => [(128, leVal (match (s.queue 6).items with | x :: _ => bytesOf x.words | [] => []))]
  | 10 => [(5, (s.queue 6).items.length), fBool s.time.txqOvf, keep0 10, (16, s.time.txqCount)]
  | _ => [(96, time96 s.time.ppsStamp), (16, s.time.ppsCount)]

/-! ### TS_, CAP_, KZ_ (R307, R312, R313, R345) -/

def State.tsstatReg (s : State) (n : Nat) : Fields :=
  let q := s.seq n
  [(4, q.st), (2, q.run.code), (3, (s.openOf n).length), fBool q.pendingOpen.isSome, fBool q.hold.isSome, (4, q.out), keep0 1,
    (16, q.missed), (48, q.lastTrig), (32, q.lastSkein), (16, q.heldOff)]

def State.tsReg (s : State) (reg n : Nat) : Fields :=
  let q := s.seq n
  match reg with
  | 0 => s.tsstatReg n
  | 1 => (List.range 4).map fun k => (32, q.cnt.getD k 0)
  | _ => (List.range 4).map fun k => (32, q.elapsed (s.pat.prog n) k (s.flt.rows.row - 1) s.time.b2.val)

def State.capReg (s : State) (reg i : Nat) : Fields :=
  match reg with
  | 0 =>
    let c := s.cap
    [(32, if s.pm.castOn then s.pat.logSize else 0), (32, s.logFill), (17, c.skeins.length), keep0 15, (32, (c.skeins.head?.map Skein.id).getD 0),
      (32, c.newestId), (5, (c.skeins.filter (·.isOpen)).length), fBool c.blocked, keep0 26, (32, c.gapRows),
      (16, c.overflows), (16, c.marksLost)]
  | _ =>
    let m := s.capMark i
    [(32, m.id), fBool m.valid, fBool m.protect, fBool m.lost, keep0 29]

def kzFields (k : KzStat) : Fields :=
  [(4, k.result), keep0 4, (8, k.holder), fBool k.busy, fBool k.isOpen, (3, k.inBit), keep0 11, (32, k.inUsed),
    (32, k.outWritten), (32, k.blockOut), (16, k.errors), keep0 16, (64, k.streamOut), keep0 32]

/-! ### ZR_, FE_, MBX_ (R355, R390–R392, R454, R486) -/

def State.portReg (s : State) (n : Nat) : Fields :=
  let p := s.port n
  [(3, p.st.code), (2, p.mode), fBool (s.pm.backplane n), fBool s.ring.crossed, fBool p.wrap, (4, p.version), keep0 4,
    (4, p.holdCause), keep0 12, (6, p.neighbour), fBool p.nbValid, keep0 9, (16, p.fcsErr), (16, p.fecUncorr),
    (16, p.beDropped), (16, p.linkDowns), keep0 16]

/-- G_SUM in Mbit/s rounded up: the root's ledger, or a member's own rate. -/
def State.gSum (s : State) : Nat := ceilDiv (if s.isRoot then ledgerSum s.ring.ledger else s.admitted) 1000

def State.ringReg (s : State) : Fields :=
  let r := s.ring
  let on := r.enumerated
  [(6, if r.numbered then r.station else 0), fBool s.isRoot, fBool on, (7, r.count), keep0 1, (4, r.version), (3, r.state),
    keep0 9, (16, r.topoEpoch), (16, if on then s.gSum else 0), (16, if on then s.capacity else 0), (16, r.session),
    (16, if s.pm.castOn then s.pat.regionMiB else 0), keep0 16]

def State.rxsrcReg (s : State) (i : Nat) : Fields :=
  let x := s.rxSrc i
  [(32, x.high), (16, x.gaps.length), (16, x.reqs), (32, x.recovered), (32, x.expired), (32, x.dups), keep0 32]

def State.replayReg (s : State) : Fields :=
  [(32, (s.ring.replay.head?.map ZFrame.seq).getD s.ring.gSeq), (32, s.ring.gSeq), (32, s.ring.served), (16, s.ring.naks),
    keep0 16]

def State.zrReg (s : State) (reg i : Nat) : Fields :=
  match reg with
  | 0 => s.portReg i
  | 1 => s.ringReg
  | 2 => s.rxsrcReg i
  | _ => s.replayReg

def State.feReg (s : State) : Fields :=
  let f := s.fe
  [(1, f.active), (3, f.a.code), (3, f.b.code), fBool f.hold, (2, f.misses), keep0 6, (4, s.pat.cycleM), keep0 12,
    (16, f.switches), (16, f.copyErr), (48, f.lastRow), (2, f.cause), keep0 6, (7, f.passPct), keep0 1, (16, f.passes),
    (16, f.mismatch)]

/-- STAGED_COUNT: structures that differ between the staged and the pending or in-force pattern. -/
def State.stagedCount (s : State) : Nat :=
  match s.mbx.staged with
  | some p => (patDiff (match s.mbx.pending with | some c => c.pat | none => s.mbx.force) p).length
  | none => 0

def State.patstatReg (s : State) : Fields :=
  let m := s.mbx
  let pd := m.pending
  [(16, s.flt.rows.epoch), fBool m.staged.isSome, fBool pd.isSome, (3, (pd.map Commit.cls).getD 0), keep0 3,
    (8, m.stageOwner), (48, (pd.map Commit.row).getD 0), (48, (pd.map Commit.lastRow).getD 0), (16, s.stagedCount),
    (16, m.commits), (16, m.lateCount), keep0 16]

/-! ### IC_, Q_, SEAL_, PM_, MG_ (R49, R507, R512, R521, R554, R555, R583, R584, R589) -/

def State.icReg (s : State) (reg i : Nat) : Fields :=
  let c := s.ic
  let w := fun (m : Nat) => (64, m >>> (64 * i))
  match reg with
  | 0 => [(8, c.activeC), (8, c.activeM), (8, c.presentC), (8, c.presentM), (16, c.withdrawn), (16, c.bad)]
  | 1 => [w (c.pending ||| c.actPend)]
  | 2 => [w c.cmask]
  | 3 => [w c.mmask]
  | 4 => [(8, Tbl.get 0 c.counts i), keep0 24]
  | _ => [(19, c.diLevel), keep0 13, (19, c.diRaw), keep0 13]

def State.qReg (s : State) (reg i : Nat) : Fields :=
  let q := s.queue i
  match reg with
  | 0 =>
    [(16, q.level), (16, q.items.length), (16, q.high), fBool q.stale, fBool (q.level = qDepth i), keep0 14, (16, q.ovf),
      (16, q.trunc), (16, q.drops), keep0 16]
  | _ => [(16, q.staleCfg), keep0 16]

/-- The short form of the metrology identity: its first 8 bytes (R534). -/
def State.metroShort (s : State) : Nat := s.sec.metro.toNat / 2 ^ 192

/-- RELEASE of the running image (R549). -/
def State.runningRelease (s : State) : Nat := (s.fwImage s.sec.fwSlot).release

def State.sealReg (s : State) : Fields :=
  let e := s.sec
  let key := fun n => Tbl.get KeySlot.init e.keys n
  [(2, lifeCode e.life), fBool e.swOpen, (2, e.debug), fBool e.fullSeen, fBool e.authLock, keep0 9, (16, e.breaks),
    (13, e.fuses), keep0 3, (4, maskOf 4 fun n => (key n).filled), (4, maskOf 4 fun n => (key n).revoked), (7, e.secMin),
    keep0 1, (1, e.fwSlot), (3, e.chrysalis.code), keep0 28, (16, s.runningRelease), (64, s.metroShort), keep0 16]

def State.trailReg (s : State) : Fields :=
  let e := s.sec
  [(14, e.next), (2, e.trailSt), (6, (s.queue 4).items.length), keep0 10, (32, e.recno), (14, e.readMark), keep0 2,
    (16, sat 65535 e.suppressed), (16, sat 65535 e.overflow), (16, sat 65535 e.lostFull), (16, sat 65535 e.torn), keep0 16]

def State.pmReg (s : State) : Fields :=
  let p := s.pm
  [(2, p.st.code), fBool (p.binding.isSome || p.emergency), fBool p.pfw, fBool (s.die 0).powered, fBool (s.die 1).powered, keep0 2,
    (4, p.lastWake), keep0 4, (8, p.wakeSubj), (4, p.resetCause), keep0 4, (16, p.castOnMs), (16, p.cocoons)]

def State.sensReg (s : State) (i : Nat) : Fields :=
  let x := Tbl.get Sensor.init s.pm.sensors i
  [fInt 16 x.value, (8, x.element), (2, x.st), keep0 6, fInt 16 x.peak, (16, x.alarms)]

def State.mgReg (s : State) (reg i : Nat) : Fields :=
  match reg with
  | 0 =>
    let l := s.leases
    [(8, l.tag), (8, l.resource), (2, l.cause), keep0 13, fBool l.valid, (48, l.row), (16, l.count)]
  | 1 => s.sensReg i
  | 2 => [(8, s.pm.scrubH), (32, s.pm.scrubPasses), keep0 24]
  | _ => [keep0 32]

/-! ### Addressing (R490) -/

/-- How many values INDEX takes at a register; 0 where none is assigned. -/
def regCount (blk reg : Nat) : Nat :=
  match blk, reg with
  | 0x01, 0 => 32 | 0x01, 1 => 32 | 0x01, 2 => 32 | 0x01, 3 => 1 | 0x01, 4 => 256 | 0x01, 5 => 32 | 0x01, 6 => 1
  | 0x01, 7 => 1 | 0x01, 8 => 20 | 0x01, 9 => 256 | 0x01, 10 => 256 | 0x01, 11 => 256 | 0x01, 12 => 32
  | 0x02, 0 => 2 | 0x02, 1 => 128 | 0x02, 2 => 2 | 0x02, 3 => 128
  | 0x03, 0 => 256 | 0x03, 1 => 1 | 0x03, 2 => 1
  | 0x04, 0 => 1 | 0x04, 1 => 4 | 0x04, 2 => 1 | 0x04, 3 => 4 | 0x04, 4 => 4 | 0x04, 5 => 4 | 0x04, 6 => 1 | 0x04, 7 => 2
  | 0x04, 8 => 16 | 0x04, 9 => 1 | 0x04, 10 => 1 | 0x04, 11 => 1
  | 0x05, 0 => 4 | 0x05, 1 => 4 | 0x05, 2 => 4
  | 0x06, 0 => 1 | 0x06, 1 => 8
  | 0x07, 0 => 1 | 0x07, 1 => 1
  | 0x09, 0 => 2 | 0x09, 1 => 1 | 0x09, 2 => 64 | 0x09, 3 => 1
  | 0x0A, 0 => 1 | 0x0B, 0 => 1
  | 0x0C, 0 => 1 | 0x0C, 1 => 3 | 0x0C, 2 => 3 | 0x0C, 3 => 3 | 0x0C, 4 => 192 | 0x0C, 5 => 1
  | 0x0D, 0 => 9 | 0x0D, 1 => 9
  | 0x0E, 0 => 1 | 0x0E, 1 => 1
  | 0x0F, 0 => 1
  | 0x10, 0 => 1 | 0x10, 1 => 24 | 0x10, 2 => 1 | 0x10, 4 => 1
  | _, _ => 0

/-- The fields of a register that regCount assigns. -/
def State.regFields (s : State) (blk reg i : Nat) : Fields :=
  match blk with
  | 0x01 => s.fltReg reg i
  | 0x02 => s.auxReg reg i
  | 0x03 => s.linReg reg i
  | 0x04 => s.tbReg reg i
  | 0x05 => s.tsReg reg i
  | 0x06 => s.capReg reg i
  | 0x07 => kzFields (if reg = 0 then s.kzC.stat else s.kzD.stat)
  | 0x09 => s.zrReg reg i
  | 0x0A => s.feReg
  | 0x0B => s.patstatReg
  | 0x0C => s.icReg reg i
  | 0x0D => s.qReg reg i
  | 0x0E => if reg = 0 then s.sealReg else s.trailReg
  | 0x0F => s.pmReg
  | _ => s.mgReg reg i

/-- The bytes of a register. -/
def State.regBytes (s : State) (blk reg i : Nat) : Bytes := fieldsBytes (s.regFields blk reg i)

/-! ### Writes (R11, R491) -/

/-- W1C of the flags of channels: bit n of the mask for channel 8·cl + n. -/
def clearWire (cl m : Nat) (s : State) : State :=
  (List.range 8).foldl (fun s n => if m.testBit n then s.updChan (8 * cl + n) fun c => { c with latched := false } else s) s

def clearSync (s : State) : State :=
  { s with flt := { s.flt with sync := { s.flt.sync with offGrid := false } } }

def clearWfLast (s : State) : State :=
  { s with flt := { s.flt with wfLast := { s.flt.wfLast with valid := false } } }

def clearLin (b : Bytes) (s : State) : State :=
  let c := fun i => (fld b 0 1).testBit i
  { s with lin := { s.lin with
    lOvf := s.lin.lOvf && !c 0, wOvf := s.lin.wOvf && !c 1, tempSub := s.lin.tempSub && !c 2 } }

/-- Write the fields of an image that are RW, W1C or WO; every other register holds none of them. An RW field
takes the value written (R11); a STALE above 65,000 alone is ignored (R521). -/
def regWrite (s : State) (blk reg i : Nat) (b : Bytes) : State :=
  match blk, reg with
  | 0x01, 1 => s.updDrv i fun d => { d with latched := clearBits d.latched (fld b 2 1) }
  | 0x01, 2 => clearWire i (fld b 3 1) s
  | 0x01, 3 => if (fld b 16 1).testBit 0 then clearWfLast s else s
  | 0x01, 7 => if (fld b 2 1).testBit 3 then clearSync s else s
  | 0x01, 8 => { s with flt := { s.flt with thrEvent := clearBits s.flt.thrEvent (fld b 4 4 * 2 ^ (32 * i)) } }
  | 0x02, 2 => if (fld b 0 1).testBit 7 then s.updAux i fun a => { a with ovrLatch := false } else s
  | 0x03, 2 => clearLin b s
  | 0x04, 0 => if (fld b 0 1).testBit 0 then snapshot s else s
  | 0x04, 10 => if (fld b 0 1).testBit 5 then { s with time := { s.time with txqOvf := false } } else s
  | 0x06, 1 =>
    if (fld b 4 1).testBit 2 then
      { s with cap := { s.cap with marks := Tbl.upd CapMark.init s.cap.marks i fun m => { m with lost := false } } }
    else s
  | 0x0D, 0 => if (fld b 6 1).testBit 0 then s.setQueue i { s.queue i with stale := false } else s
  | 0x0D, 1 => if fld b 0 2 ≤ 65000 then s.setQueue i { s.queue i with staleCfg := fld b 0 2 } else s
  | 0x10, 0 => if (fld b 3 1).testBit 7 then { s with leases := { s.leases with valid := false } } else s
  | 0x10, 2 => { s with pm := { s.pm with scrubH := fld b 0 1 } }
  | 0x10, 4 => if (fld b 0 1).testBit 0 then wakeBy s .mgWake else s
  | _, _ => s

end Sys2Proof.Machine
end

