-- ==== Sys2Proof/Machine/Mailbox.lean ====
section
/-!
DEFINITION. The doorbell (R459, R460, R467, R469), and the general and pattern commands of the catalogue (R472–R474, R489,
R491). notes/assumptions/34.md.
-/
namespace Sys2Proof.Machine

/-! ### MBX_POST and MBX_READY_CLEAR (R459, R460) -/

def portVia : HostPort → Via
  | .pcie => .pcie
  | .qspi => .qspi

/-- The header of the command that stands at a slot of a bank. -/
def State.slotHeader (s : State) (v : Via) (slot : Nat) : Bytes := Tbl.run 0 (s.bank v).cmd (256 * slot) 16

/-- A posted command whose opcode the catalogue does not hold is answered with BAD_PARAM, or forwarded (R462, R470). -/
def unknownOp (s : State) (v : Via) (slot : Nat) : State :=
  let b := s.slotHeader v slot
  let h : CmdHdr := ⟨v, slot, BitVec.ofNat 16 (fld b 2 2), BitVec.ofNat 32 (fld b 8 4), BitVec.ofNat 32 (fld b 12 4)⟩
  if opKnown (fld b 0 2) then s
  else mailbox (fld b 0 2) (fun _ => some 0xFFFF) (fun s _ _ => (s, none)) h
    (Tbl.run 0 (s.bank v).cmd (256 * slot + 16) (fld b 4 4)) s

/-- POST of one slot. -/
def postOne (v : Via) (s : State) (slot : Nat) : State :=
  let b := s.slotHeader v slot
  let len := fld b 4 4
  let r := postSlot s v slot (spanOf (BitVec.ofNat 16 (fld b 2 2)) len) len (BitVec.ofNat 32 (fld b 8 4))
  if r.2 then unknownOp r.1 v slot else r.1

/-- Slot by slot, in ascending order. -/
def post (s : State) (port : HostPort) (mask : Nat) : State := (bitsOf 8 mask).foldl (postOne (portVia port)) s

def execMbxPost (port : HostPort) (mask : BitVec 8) (s : State) : Host.Outcome State Fault Refusal :=
  .next (post s port mask.toNat)

/-- Writing READY frees the span of the command posted at the slot. -/
def readyOne (v : Via) (s : State) (slot : Nat) : State :=
  if (s.bank v).ready.testBit slot then
    s.updBank v fun b =>
      { b with ready := bitSet b.ready slot false, busy := clearBits b.busy (spanMask slot (Tbl.get 0 b.spans slot))
               spans := Tbl.set 0 b.spans slot 0 }
  else s

def readyClear (s : State) (port : HostPort) (mask : Nat) : State := (bitsOf 8 mask).foldl (readyOne (portVia port)) s

def execMbxReadyClear (port : HostPort) (mask : BitVec 8) (s : State) : Host.Outcome State Fault Refusal :=
  .next (readyClear s port mask.toNat)

/-! ### MBX_TIMEOUT (R467) -/

/-- The watchdog answers a posted command; what the command still gives later is discarded. -/
def mbxTimeout (s : State) (v : Via) (o : Outst) : State :=
  let op := fld (s.slotHeader v o.slot) 0 2
  let s := { s with mbx := { s.mbx with
    out := if o.remote then s.mbx.out.erase o else s.mbx.out.map fun x => if x == o then { x with dead := true } else x
    last := some ⟨v, o.slot, op, stBusy, o.tag, s.flt.rows.epoch, 0xFFFE, []⟩ } }
  let s := putResponse s v o.slot (respHeader s op stBusy 0 o.tag 0xFFFE)
  let s := s.updBank v fun b =>
    { b with terr := bitSet b.terr o.slot true, terrCode := 5, terrCount := sat 65535 (b.terrCount + 1) }
  emit (vector s 1) 0x5050 (viaTag v) o.tag.toNat

def execMbxTimeout (port : HostPort) (slot : Nat) (s : State) : Host.Outcome State Fault Refusal :=
  let v := portVia port
  .next (match s.mbx.out.find? fun o => o.via == v && o.slot == slot && !o.dead with
    | some o => mbxTimeout s v o
    | none => s)

/-! ### The PCIe transport ends (R469) -/

/-- Words of Q0 that a transport posted. -/
def dropPosted (s : State) (tag : Nat) : State :=
  let q := s.queue 0
  let keep := fun (w : BitVec 32) => w.toNat / 256 ≠ tag
  s.setQueue 0 { q with
    items := q.items.filter fun i => i.words.all keep
    stalled := q.stalled.filter keep
    arb := q.arb.forget (tag - 0x40) }

/-- Posted commands are dropped, responses discarded, the bank freed; its staging and update leases go to revocation. -/
def endPcie (s : State) : State :=
  let s := dropPosted s 0x41
  let s := { s with mbx := { s.mbx with out := s.mbx.out.filter fun o => o.via != Via.pcie } }
  let s := s.updBank .pcie fun b => { b with busy := 0, ready := 0, spans := [] }
  let l := (if s.mbx.stageOwner = 0x41 then [(LeaseRes.staging, 1)] else []) ++
    (if s.sec.updOwner = 0x41 then [(LeaseRes.fwUpdate, 1)] else [])
  { s with leases := { s.leases with faulty := s.leases.faulty ++ l } }

/-! ### NOP and IDENT -/

def cmdNop : CmdHdr → Bytes → State → State := mailbox 0x0001 formEmpty fun s _ _ => answer s Ans.done
def execNop (h : CmdHdr) (p : Bytes) (s : State) : Host.Outcome State Fault Refusal := .next (cmdNop h p s)

/-- The identity report. -/
def State.identity (s : State) : Bytes :=
  le 2 s.runningRelease ++ le 1 Config.stepping.toNat ++ le 1 (lifeCode s.sec.life) ++ le 8 Config.uid.toNat ++
    (digestBytes s.sec.metro).take 8 ++ le 1 s.srcNo ++ le 1 s.ring.version ++ zeros 2

def cmdIdent : CmdHdr → Bytes → State → State := mailbox 0x0002 formEmpty fun s _ _ => answer s (Ans.ok s.identity)
def execIdent (h : CmdHdr) (p : Bytes) (s : State) : Host.Outcome State Fault Refusal := .next (cmdIdent h p s)

/-! ### REG_READ and REG_WRITE (R491) -/

/-- BLOCK, REG and INDEX of an address (R490). -/
def addrParts (a : Nat) : Nat × Nat × Nat := (a / 2 ^ 24, a / 2 ^ 16 % 256, a % 65536)

def regReadBody (s : State) (p : Bytes) : State × Option Ans :=
  let (b, r, i) := addrParts (fld p 0 4)
  let n := fld p 4 1
  if regCount b r ≤ i then answer s (Ans.err stBadParam 0)
  else if regCount b r < i + n then answer s (Ans.err stBadParam 4)
  else if b = 4 ∧ r = 9 then
    if s.servoExt then
      let t := takeStamp s
      answer t.2 (Ans.ok t.1)
    else answer s (Ans.err stBusy 1)
  else answer s (Ans.ok ((List.range n).map fun k => s.regBytes b r (i + k)).flatten)

def cmdRegRead : CmdHdr → Bytes → State → State :=
  mailbox 0x0010 (form 8 fun p => [(4, inR 1 64 (fld p 4 1)), rsv p 5 3]) fun s _ p => regReadBody s p

def execRegRead (h : CmdHdr) (p : Bytes) (s : State) : Host.Outcome State Fault Refusal := .next (cmdRegRead h p s)

def regWriteBody (s : State) (p : Bytes) : State × Option Ans :=
  let (b, r, i) := addrParts (fld p 0 4)
  let image := p.drop 8
  if regCount b r ≤ i ∨ (b = 4 ∧ (r = 3 ∨ r = 4)) then answer s (Ans.err stBadParam 0)
  else if !allZero (slice p 4 4) then answer s (Ans.err stBadParam 4)
  else if image.length ≠ (s.regBytes b r i).length then answer s (Ans.err stBadParam 0xFFFC)
  else answer (regWrite s b r i image) Ans.done

def cmdRegWrite : CmdHdr → Bytes → State → State :=
  mailbox 0x0011 (fun p => if p.length < 8 then some 0xFFFC else none) fun s _ p => regWriteBody s p

def execRegWrite (h : CmdHdr) (p : Bytes) (s : State) : Host.Outcome State Fault Refusal := .next (cmdRegWrite h p s)

/-! ### PAT_SET, PAT_GET, PAT_DISCARD (R473–R476) -/

/-- STRUCT, INDEX and the bytes that a command keeps 0; the first fault of them. -/
def structBad (p : Bytes) : Option Nat :=
  match structDef? (fld p 0 2) with
  | none => some 0
  | some d => if d.count ≤ fld p 2 2 then some 2 else none

/-- A SWATCH keeps the SEQ, TIME and CHECK that stand in the staged pattern (R476). -/
def swatchKept (old b : Bytes) : Bytes := swatchSeal (b.take 12 ++ slice old 12 10 ++ b.drop 22)

/-- Put a checked structure into the staged pattern. -/
def putStruct (base : Pat) (sid idx : Nat) (b : Bytes) : Sum Pat Ans :=
  match checkStruct sid idx b with
  | some o => .inr (Ans.err stBadParam (8 + o))
  | none => .inl (base.setStr sid idx (if sid = sSwatch then swatchKept (base.str sSwatch idx) b else b))

def patSetForm (p : Bytes) : Option Nat :=
  if p.length < 8 then some 0xFFFC
  else match structBad p with
    | some o => some o
    | none =>
      if p.length ≠ 8 + ((structDef? (fld p 0 2)).map StructDef.size).getD 0 then some 0xFFFC
      else if allZero (slice p 4 4) then none else some 4

def cmdPatSet : CmdHdr → Bytes → State → State :=
  mailbox 0x0100 patSetForm fun s h p =>
    let sid := fld p 0 2
    if s.isSealed && legalStruct sid then answer s (Ans.err stSealed 0)
    else stage s h fun base => putStruct base sid (fld p 2 2) (p.drop 8)

def execPatSet (h : CmdHdr) (p : Bytes) (s : State) : Host.Outcome State Fault Refusal := .next (cmdPatSet h p s)

/-- The pattern that WHICH names. -/
def State.whichPat (s : State) : Nat → Option Pat
  | 0 => some s.mbx.force
  | 1 => s.mbx.staged
  | _ => s.mbx.pending.map (·.pat)

def patGetForm (p : Bytes) : Option Nat :=
  if p.length ≠ 8 then some 0xFFFC
  else match structBad p with
    | some o => some o
    | none => firstBad [(4, fld p 4 1 < 3), rsv p 5 3]

def cmdPatGet : CmdHdr → Bytes → State → State :=
  mailbox 0x0101 patGetForm fun s _ p =>
    match s.whichPat (fld p 4 1) with
    | some q => answer s (Ans.ok (q.str (fld p 0 2) (fld p 2 2)))
    | none => answer s (Ans.err stNotStaged 0)

def execPatGet (h : CmdHdr) (p : Bytes) (s : State) : Host.Outcome State Fault Refusal := .next (cmdPatGet h p s)

def cmdPatDiscard : CmdHdr → Bytes → State → State :=
  mailbox 0x0102 formEmpty fun s h _ =>
    if s.mbx.staged.isNone then answer s (Ans.err stNotStaged 0)
    else if s.mbx.stageOwner ≠ viaTag h.via then answer s (Ans.err stBusy s.mbx.stageOwner)
    else answer (discardStage s) Ans.done

def execPatDiscard (h : CmdHdr) (p : Bytes) (s : State) : Host.Outcome State Fault Refusal := .next (cmdPatDiscard h p s)

/-! ### The pattern store (R349, R489, R574) -/

def slotForm : Bytes → Option Nat := form 4 fun p => [(0, fld p 0 1 < 8), rsv p 1 3]

/-- What a pattern's blob holds: STRUCT, INDEX and bytes of every structure that differs from its default (DESIGN CHOICE: the
spec does not lay it out, notes/assumptions/16.md). -/
def patBytes (p : Pat) : Bytes := (p.map fun e => le 2 (e.1 / 65536) ++ le 2 (e.1 % 65536) ++ e.2).flatten

/-- The pattern that such bytes spell, none where they spell none. -/
def patOfBytes : Nat → Bytes → Pat → Option Pat
  | 0, b, p => if b.isEmpty then some p else none
  | n + 1, b, p =>
    if b.isEmpty then some p
    else match structDef? (fld b 0 2) with
      | none => none
      | some d =>
        if d.count ≤ fld b 2 2 || b.length < 4 + d.size then none
        else patOfBytes n (b.drop (4 + d.size)) (p.setStr (fld b 0 2) (fld b 2 2) (slice b 4 d.size))

/-- The Kilzar stream of KIND 3 that holds a pattern (R349), with the defaults of KZ_JOB; none where a slot of 128 KiB is too
small for it (R580). -/
def patBlob (p : Pat) : Option Bytes := kzChunk 3 1 1 (patBytes p) 131072

/-- The pattern of a slot of the store: its blob expanded and checked (R330, R349); none for an empty slot. -/
def State.savedPat (s : State) (slot : Nat) : Option Pat :=
  let b := Tbl.get [] s.mbx.store slot
  if fld b 4 1 ≠ 3 then none else (kzExpand b).bind fun x => patOfBytes (x.length / 4) x []

/-- PAT_SAVE: the pattern in force at acceptance is saved (R493); PAT_SAVED ends it. -/
def cmdPatSave : CmdHdr → Bytes → State → State :=
  mailbox 0x0105 slotForm fun s h p =>
    match s.mbx.saving with
    | some (_, o, _) => answer s (Ans.err stBusy o)
    | none =>
      if s.serialShut 1 then answer s (Ans.err stBusy 0)
      else match patBlob s.mbx.force with
        | none => answer s (Ans.err stNoResource 0)
        | some b =>
          answer (holdSerial { holdSerial s with mbx := { s.mbx with saving := some (fld p 0 1, viaTag h.via, b) } }) Ans.done

def execPatSave (h : CmdHdr) (p : Bytes) (s : State) : Host.Outcome State Fault Refusal := .next (cmdPatSave h p s)

/-- PAT_SAVED: the slot holds the pattern's blob; the report names the transport, the slot and the epoch (R494). An emergency bind-off has started no further page (R578). -/
def patSaved (s : State) (slot : Nat) : State :=
  match s.mbx.saving with
  | some (n, o, b) =>
    if n = slot && s.serialHolder = 1 then
      emit (endSerial { s with mbx := { s.mbx with saving := none, store := Tbl.set [] s.mbx.store slot b } }) 0x5055 o
        (s.flt.rows.epoch + 2 ^ 16 * slot)
    else s
  | none => s

def execPatSaved (slot : Nat) (s : State) : Host.Outcome State Fault Refusal :=
  .next (if s.pm.emergency then s else patSaved s slot)

/-- PAT_LOAD: the saved pattern becomes the staged one; a slot without a valid blob gives NO_RESOURCE. -/
def cmdPatLoad : CmdHdr → Bytes → State → State :=
  mailbox 0x0106 slotForm fun s h p =>
    match s.savedPat (fld p 0 1) with
    | none => answer s (Ans.err stNoResource 0)
    | some q =>
      if s.isSealed && legalBytes q != legalBytes s.mbx.force then answer s (Ans.err stSealed 0)
      else stage s h fun _ => .inl q

def execPatLoad (h : CmdHdr) (p : Bytes) (s : State) : Host.Outcome State Fault Refusal := .next (cmdPatLoad h p s)

end Sys2Proof.Machine
end

