-- ==== Sys2Proof/Machine/HostPort.lean ====
section
/-!
DEFINITION. The PCIe and QSPI ports: the link and its resets (R394–R400), BAR0 with its latches and refused accesses (R401,
R402), the registers that BAR0 alone reaches (R403, R407, R411, R459, R506), the vector table (R404, R405) and the QSPI
instructions (R406). notes/assumptions/32.md.
-/
namespace Sys2Proof.Machine

/-! ### Configuration requests (R395, R396) -/

/-- A field of configuration space: where it begins, its bytes, its value, and the bits of it that R395 fixes. -/
structure CfgField where
  at_   : Nat
  bytes : Nat
  value : Nat
  mask  : Nat
deriving DecidableEq, Repr

/-- Where the PCI Express and the MSI-X capability stand: R395 names both and no place (notes/assumptions/32.md). -/
def pcieCap : Nat := 0x40 + 4 * (Config.pcieCapSlot % 8)
def msixCap : Nat := 0xA0 + 4 * (Config.msixCapSlot % 8)

/-- What R395 and R401 fix of configuration space, in PCI Express's layout: the identity; BAR0 of 16 KiB and no other BAR; no
interrupt pin; a list of the two capabilities, without MSI; Max Payload Size up to 512 bytes, and the present one; Function Level
Reset; ASPM L1 without L0s, four lanes, 16 GT/s; MSI-X with 32 vectors at 0x3000 and 0x3800; Advanced Error Reporting. -/
def cfgFields (mps : Nat) : List CfgField :=
  let all := fun a n v => (⟨a, n, v, 256 ^ n - 1⟩ : CfgField)
  [all 0x00 2 0x1F7C, all 0x02 2 0x0256, ⟨0x06, 1, 0x10, 0x10⟩, all 0x08 1 Config.stepping.toNat, all 0x09 3 0x118000,
    ⟨0x10, 4, 0x4, 0x3FFF⟩, all 0x18 16 0, all 0x2C 2 Config.subsysVendor.toNat, all 0x2E 2 Config.subsysId.toNat,
    all 0x34 1 pcieCap, all 0x3D 1 0,
    all pcieCap 2 (0x10 + 256 * msixCap), ⟨pcieCap + 4, 4, 2 + 2 ^ 28, 7 + 2 ^ 28⟩, ⟨pcieCap + 8, 2, 32 * mps, 0xE0⟩,
    ⟨pcieCap + 12, 2, 4 + 16 * 4 + 2 ^ 11, 0xFFF⟩,
    all msixCap 2 0x11, ⟨msixCap + 2, 2, 31, 0x7FF⟩, all (msixCap + 4) 4 0x3000, all (msixCap + 8) 4 0x3800, all 0x100 2 0x0001]

/-- A byte of configuration space: the bits that R395 fixes, the others free. -/
def configByte (free : BitVec 64) (mps o : Nat) : Byte :=
  let base := free.toNat / 256 ^ (o % 8) % 256
  match (cfgFields mps).find? fun f => inR f.at_ (f.at_ + f.bytes - 1) o with
  | some f =>
    let v := f.value / 256 ^ (o - f.at_) % 256
    let m := f.mask / 256 ^ (o - f.at_) % 256
    BitVec.ofNat 8 ((v &&& m) ||| (base &&& (255 - m)))
  | none => BitVec.ofNat 8 base

/-- PCIE_CONFIG_REQUEST: a read of the dword that holds an offset. The recovery state completes requests too (R575). -/
def execPcieConfigRequest (offset : Nat) (s : State) : Host.Outcome State Fault Refusal :=
  .next (if s.host.fwReady || s.pm.recovery then
      let (v, s) := s.draw
      let o := offset / 4 * 4
      { s with host := { s.host with
        cfgDone := s.host.cfgDone + 1, readData := (List.range 4).map fun i => configByte v s.host.mps (o + i) } }
    else { s with host := { s.host with cfgRetry := s.host.cfgRetry + 1 } })

/-! ### The link (R398–R400) -/

/-- The link is lost: its channels and its transport end (R400). -/
def linkLost (s : State) : State :=
  let h := { s.host with gen := 0, width := 0, reversed := false, linkDowns := sat 65535 (s.host.linkDowns + 1) }
  emit (unbar (endPcie (stopChannels { s with host := h } 6)) 0x41) 0x5041 0 0

def execHostLinkDown (s : State) : Host.Outcome State Fault Refusal := .next (if s.linkOk then linkLost s else s)

/-- PCIE_PERST: fundamental reset. The link goes down, and the vector table has its reset contents. -/
def execPciePerst (s : State) : Host.Outcome State Fault Refusal :=
  let s := if s.linkOk then linkLost s else s
  .next { s with host := { s.host with inReset := true, msixTbl := [], msixPend := 0 } }

/-- H of the link, in kbit/s (R398). -/
def State.hCap (s : State) : Nat := hostCap s.host.gen s.host.width s.host.mps

/-- HOST_LINK_UP. A link that is already up has retrained: a lower H is reported as such (R399). -/
def linkUpTo (s : State) (gen width mps : Nat) (rev : Bool) : State :=
  let was := s.linkOk
  let h0 := s.hCap
  let s := { s with host := { s.host with
    gen := gen, width := width, mps := mps, reversed := rev, cameUp := true, inReset := false } }
  if !was then emit s 0x5040 0 (args [gen, width])
  else if s.hCap < h0 then emit s 0x5042 0 (args [gen, width]) else s

def execHostLinkUp (gen width mps : Nat) (reversed : Bool) (s : State) : Host.Outcome State Fault Refusal :=
  .next (linkUpTo s gen width mps reversed)

/-- HOST_LINK_DEGRADED: the link has retrained to a lower H; admissions stand (R399). -/
def execHostLinkDegraded (gen width : Nat) (s : State) : Host.Outcome State Fault Refusal :=
  .next (if s.linkOk ∧ hostCap gen width s.host.mps < s.hCap then
      emit { s with host := { s.host with gen := gen, width := width } } 0x5042 0 (args [gen, width])
    else s)

/-- HOST_FLR: channels at work are revoked, and the transport ends (R400, R418). -/
def execHostFlr (s : State) : Host.Outcome State Fault Refusal :=
  .next (if s.linkOk then
      let s := unbar (endPcie (stopChannels s 11)) 0x41
      emit { s with host := { s.host with msixTbl := [], msixPend := 0 } } 0x5043 0 (args [s.host.gen, s.host.width])
    else s)

/-! ### The registers of BAR0 -/

/-- MBX_DB of a bank (R459). -/
def Bank.dbReg (b : Bank) : Fields :=
  [keep0 8, (8, b.busy), (8, b.ready), keep0 8, (8, b.terr), (4, b.terrCode), keep0 4, (16, b.terrCount)]

/-- MBX_LINK (R403). -/
def State.linkReg (s : State) : Fields :=
  let h := s.host
  [(3, h.gen), (3, h.width), fBool h.reversed, fBool h.fwReady, (2, h.mps), keep0 6, (16, sat 65535 (s.hCap / 1000)),
    (16, h.badacc), (16, h.linkDowns)]

/-- MBX_IDENT (R401); release 0x0000 in the recovery state (R575). -/
def State.identReg (s : State) : Fields :=
  [(16, if s.pm.recovery then 0 else s.runningRelease), (8, Config.stepping.toNat), keep0 40]

/-- IC_HGRP (R506). -/
def State.hgrp (s : State) : Nat :=
  (List.range 192).foldl (fun m n => if s.ic.hpend.testBit n then bitSet m (s.route n % 8) true else m) 0

/-- A register of a DMA channel at its offset (R411). -/
def dmaReg (c : DmaCh) : Nat → Option Fields
  | 0x00 => some [fBool c.delivery, fBool c.px64, fBool c.writeback, fBool c.localCopy, keep0 4, (8, c.kindMask), keep0 16,
      (32, c.px64Skein)]
  | 0x08 => some [keep0 64]
  | 0x10 => some [(64, c.desc)]
  | 0x18 => some [(3, c.st.code), keep0 1, (4, c.result), (8, c.owner), fBool c.short, keep0 15, (32, c.doneDesc)]
  | 0x20 => some [(64, c.posDesc), (32, c.posLine), (32, c.posIn)]
  | 0x30 => some [(64, c.bytes)]
  | 0x40 => some [(64, c.rbase)]
  | 0x48 => some [(5, c.rsize), keep0 59]
  | 0x50 => some [(32, c.wr)]
  | 0x58 => some [(32, c.rd)]
  | 0x60 => some [(16, c.thr), (16, c.timeout), (32, c.fullDrops)]
  | _ => none

/-- Where the register that covers a word of a DMA block begins. -/
def dmaBase (o : Nat) : Nat := if inR 0x20 0x2F o then 0x20 else o / 8 * 8

/-- A place of the map (R401). -/
inductive MapAt where
  /-- a word of MBX_CMD or MBX_RSP at its offset -/
  | cmd
  | rsp
  /-- a register: where it begins, and its bytes -/
  | reg (base : Nat) (b : Bytes)
  /-- inside an area of the map, at no register: reads as 0 -/
  | blank
  /-- outside the map -/
  | hole
deriving DecidableEq, Repr

def State.mapAt (s : State) (v : Via) (o : Nat) : MapAt :=
  if o < 0x800 then .cmd
  else if o < 0x1000 then .rsp
  else if o < 0x1008 then .reg 0x1000 (fieldsBytes (s.bank v).dbReg)
  else if inR 0x1040 0x1047 o then .reg 0x1040 (fieldsBytes s.linkReg)
  else if inR 0x1048 0x104F o then .reg 0x1048 (fieldsBytes s.identReg)
  else if inR 0x1050 0x1057 o then .reg 0x1050 (fieldsBytes [(32, s.host.qsMask), (32, s.host.qsPend)])
  else if inR 0x1100 0x1117 o then .reg (o / 8 * 8) (le 8 (s.ic.hpend / 2 ^ (64 * ((o - 0x1100) / 8))))
  else if inR 0x1118 0x111F o then .reg 0x1118 (le 8 s.hgrp)
  else if inR 0x1120 0x11FF o then .blank
  else if inR 0x2000 0x2FFF o then
    match dmaReg (s.dmaCh ((o - 0x2000) / 256)) (dmaBase (o % 256)) with
    | some f =>
      let b := fieldsBytes f
      let base := o / 256 * 256 + dmaBase (o % 256)
      if o < base + b.length then .reg base b else .blank
    | none => .blank
  else if inR 0x3000 0x31FF o then .reg (o / 4 * 4) ((List.range 4).map fun i => s.msixByte (o / 4 * 4 - 0x3000 + i))
  else if inR 0x3800 0x3807 o then .reg 0x3800 (le 8 s.host.msixPend)
  else .hole

/-! ### Reads (R402) -/

/-- The latch of a register: the ports share it, but not in a bank (R457). -/
def latchKey (v : Via) (base : Nat) : Nat := if v = .qspi ∧ base < 0x1008 then 65536 + base else base

/-- An aligned read of 4 bytes. -/
def readWord (s : State) (v : Via) (o : Nat) : State × Bytes :=
  match s.mapAt v o with
  | .cmd => (s, Tbl.run 0 (s.bank v).cmd o 4)
  | .rsp => (s, Tbl.run 0 (s.bank v).rsp (o - 0x800) 4)
  | .blank | .hole => (s, zeros 4)
  | .reg base b =>
    if b.length ≤ 4 then (s, slice b (o - base) 4)
    else if o = base then
      ({ s with host := { s.host with latch := Tbl.set [] s.host.latch (latchKey v base) b } }, b.take 4)
    else
      match Tbl.get [] s.host.latch (latchKey v base) with
      | [] => (s, slice b (o - base) 4)
      | l => (s, slice l (o - base) 4)

/-- `n` words from an offset, the address wrapping within 16 KiB. -/
def readWords (s : State) (v : Via) (o : Nat) : Nat → State × Bytes
  | 0 => (s, [])
  | n + 1 =>
    let r := readWord s v (o % 0x4000)
    let t := readWords r.1 v (o + 4) n
    (t.1, r.2 ++ t.2)

/-! ### Writes (R11, R402) -/

/-- What START and RESUME fetch: a descriptor with the KZ_JOB that may follow it. -/
def State.fetchDesc (s : State) (addr : Nat) : Bytes := s.hostRead addr 96

/-- Commands written to DMA_CMD, in the order of their bits. -/
def dmaCmd (s : State) (n : Nat) (v : Via) (w : Nat) : State :=
  let s := if w.testBit 0 then dmaStart s n v (s.fetchDesc (s.dmaCh n).desc) else s
  let s := if w.testBit 1 then dmaPause s n else s
  let s := if w.testBit 2 then dmaResume s n (s.fetchDesc (s.dmaCh n).posDesc) else s
  if w.testBit 3 then dmaAbort s n else s

/-- A word of the low or high half of a 64-bit field. -/
def half (old : Nat) (hi : Bool) (w : Nat) : Nat :=
  if hi then old % 2 ^ 32 + w * 2 ^ 32 else old / 2 ^ 32 * 2 ^ 32 + w

/-- The lower word of DMA_CFG (R411); a reserved bit that is written shows at START (R429). -/
def cfgLow (w : Nat) (c : DmaCh) : DmaCh :=
  { c with
    delivery := w.testBit 0, px64 := w.testBit 1, writeback := w.testBit 2, localCopy := w.testBit 3
    kindMask := w / 256 % 256 / 2 * 2, rsvSet := bits w 4 4 ≠ 0 || w.testBit 8 || w / 65536 ≠ 0 }

/-- A write to the configuration, descriptor or ring registers of a channel sets their fields, also to a value outside the
range of a field's meaning (R11); reserved bits of it are ignored (R14). -/
def dmaSet (c : DmaCh) (o w : Nat) : DmaCh :=
  match o with
  | 0x00 => cfgLow w c
  | 0x04 => { c with px64Skein := w }
  | 0x10 => { c with desc := half c.desc false w }
  | 0x14 => { c with desc := half c.desc true w }
  | 0x40 => { c with rbase := half c.rbase false w }
  | 0x44 => { c with rbase := half c.rbase true w }
  | 0x48 => { c with rsize := w % 32 }
  | 0x60 => { c with thr := w % 65536, timeout := w / 65536 % 65536 }
  | _ => c

/-- A word written to a register of DMAnn. -/
def dmaWrite (s : State) (v : Via) (n o w : Nat) : State :=
  if o = 0x08 then dmaCmd s n v w
  else if o = 0x58 then rrdWrite s n w
  else if o = 0x00 ∨ o = 0x04 ∨ o = 0x10 ∨ o = 0x14 ∨ o = 0x40 ∨ o = 0x44 ∨ inR 0x48 0x57 o ∨ inR 0x60 0x67 o then
    if (s.dmaCh n).st = .idle ∨ (s.dmaCh n).st = .stopped then s.updDma n fun c => dmaSet c o w else badAccess s
  else s

/-- Vector Control loses its mask: a pending vector sends its message at once (R405). -/
def unmaskFires (s : State) (v : Nat) : State :=
  if s.host.msixPend.testBit v then
    { s with host := { s.host with
      msixPend := bitSet s.host.msixPend v false, msgs := Tbl.upd 0 s.host.msgs v (· + 1) } }
  else s

def setMsixByte (s : State) (o : Nat) (b : Byte) : State :=
  { s with host := { s.host with msixTbl := Tbl.set (msixDef o) s.host.msixTbl o b } }

/-- A word of the MSI-X table; Vector Control holds its mask bit only. -/
def msixWrite (s : State) (o w : Nat) : State :=
  let vc := o % 16 = 12
  let w := if vc then w % 2 else w
  let s := (List.range 4).foldl (fun s i => setMsixByte s (o + i) (BitVec.ofNat 8 (w / 256 ^ i))) s
  if vc ∧ w = 0 then unmaskFires s (o / 16) else s

/-- Where the opcode at a slot of MBX_CMD is written: a slot of a posted command is not (R460). -/
def cmdWrite (s : State) (v : Via) (o w : Nat) : State :=
  if (s.bank v).busy.testBit (o / 256) then badAccess s
  else s.updBank v fun b => { b with cmd := Tbl.setRun 0 b.cmd o (le 4 w) }

/-- The port of a transport. -/
def viaPort : Via → HostPort
  | .qspi => .qspi
  | _ => .pcie

/-- MBX_DB, lower word: READY is cleared before POST is taken. -/
def dbWrite (s : State) (v : Via) (w : Nat) : State :=
  post (readyClear s (viaPort v) (w / 2 ^ 16 % 256)) (viaPort v) (w % 256)

/-- An aligned write of 4 bytes. -/
def writeWord (s : State) (v : Via) (o w : Nat) : State :=
  match s.mapAt v o with
  | .cmd => cmdWrite s v o w
  | .rsp | .blank => s
  | .hole => badAccess s
  | .reg _ _ =>
    if o = 0x1000 then dbWrite s v w
    else if o = 0x1004 then s.updBank v fun b => { b with terr := clearBits b.terr (w % 256) }
    else if o = 0x1050 then { s with host := { s.host with qsMask := w } }
    else if o = 0x1054 then { s with host := { s.host with qsPend := clearBits s.host.qsPend w } }
    else if inR 0x1100 0x1117 o then
      { s with ic := { s.ic with hpend := clearBits s.ic.hpend (w * 2 ^ (8 * (o - 0x1100))) } }
    else if inR 0x2000 0x2FFF o then dmaWrite s v ((o - 0x2000) / 256) (o % 256) w
    else if inR 0x3000 0x31FF o then msixWrite s (o - 0x3000) w
    else s

/-- One access counts at most once in BADACC. -/
def onceBad (old new : State) : State :=
  if old.host.badacc < new.host.badacc then { new with host := { new.host with badacc := sat 65535 (old.host.badacc + 1) } }
  else new

/-- Words of a burst from an offset, the address wrapping within 16 KiB; what is left of less than a word is a narrow
write. -/
def writeWords (s : State) (v : Via) (o : Nat) : Nat → Bytes → State
  | 0, _ => s
  | f + 1, b =>
    if b.isEmpty then s
    else if b.length < 4 then badAccess s
    else writeWords (writeWord s v (o % 0x4000) (leVal (b.take 4))) v (o + 4) f (b.drop 4)

/-- The ports answer in ACTIVE and DOZE, the PCIe port while its link is up (R565). -/
def State.portOn (s : State) (p : HostPort) : Bool :=
  (s.pm.st = .active || s.pm.st = .doze) && !s.pm.inReset && (match p with | .pcie => s.linkOk | .qspi => true)

/-- One access of 8 bytes to MBX_DB: a transport error of its POST outlasts the 1 that clears TERR in the same access
(R12). -/
def dbWide (s : State) (v : Via) (d : Bytes) : State :=
  writeWord (writeWord s v 0x1004 (fld d 4 4)) v 0x1000 (fld d 0 4)

/-- What the host's memory holds where the access has the channel fetch a descriptor (R411): a START or a RESUME in DMA_CMD. -/
def hostHolds (s : State) (mem : List (Nat × Bytes)) : State := mem.foldl (fun s e => hostWrite s e.1 e.2) s

/-- REGISTER_WRITE: one aligned access of 4 or 8 bytes. In the recovery state BAR0 answers reads only (R575). -/
def registerWrite (s : State) (port : HostPort) (o : Nat) (d : Bytes) (mem : List (Nat × Bytes)) : State :=
  let s := hostHolds s mem
  if !s.portOn port || s.pm.recovery then s
  else if (d.length ≠ 4 ∧ d.length ≠ 8) ∨ o % d.length ≠ 0 ∨ 0x4000 ≤ o then badAccess s
  else if o = 0x1000 ∧ d.length = 8 then onceBad s (dbWide s (portVia port) d)
  else onceBad s (writeWords s (portVia port) o 2 d)

def execRegisterWrite (port : HostPort) (offset : Nat) (data : Bytes) (mem : List (Nat × Bytes)) (s : State) :
    Host.Outcome State Fault Refusal :=
  .next (registerWrite s port offset data mem)

/-- A read at a port: its bytes stand in readData. -/
def portRead (s : State) (port : HostPort) (o n : Nat) : State :=
  let r := readWords s (portVia port) o n
  { r.1 with host := { r.1.host with readData := r.2 } }

/-- Bytes that a misaligned read returns: R402 names none. -/
def freeRead (s : State) : Nat → State × Bytes
  | 0 => (s, [])
  | n + 1 =>
    let (v, s) := s.draw
    let r := freeRead s n
    (r.1, le 4 (v.toNat % 2 ^ 32) ++ r.2)

/-- A misaligned read is ignored and counted. -/
def badRead (s : State) (n : Nat) : State :=
  let r := freeRead (badAccess s) n
  { r.1 with host := { r.1.host with readData := r.2 } }

/-- WIDE_REGISTER_LOW_READ: a read of 4 or 8 bytes at an aligned offset; every other is ignored and counted. -/
def execWideRegisterLowRead (port : HostPort) (offset size : Nat) (s : State) : Host.Outcome State Fault Refusal :=
  .next (if !s.portOn port then s
    else if (size ≠ 4 ∧ size ≠ 8) ∨ offset % size ≠ 0 ∨ 0x4000 ≤ offset then badRead s (ceilDiv size 4)
    else portRead s port offset (size / 4))

/-- MSIX_UNMASK: the host clears the mask bit of a vector. -/
def execMsixUnmask (v : Nat) (s : State) : Host.Outcome State Fault Refusal :=
  .next (unmaskFires (setMsixByte s (16 * v + 12) 0) v)

/-! ### QSPI (R406, R407) -/

def execQspiRead (offset words : Nat) (s : State) : Host.Outcome State Fault Refusal :=
  .next (if !s.portOn .qspi then s
    else if offset % 4 ≠ 0 then badRead s words
    else portRead s .qspi (offset % 0x4000) words)

/-- QSPI_WRITE: each word is an access of its own. -/
def execQspiWrite (offset : Nat) (data : Bytes) (mem : List (Nat × Bytes)) (s : State) : Host.Outcome State Fault Refusal :=
  let s := hostHolds s mem
  .next (if !s.portOn .qspi || s.pm.recovery then s
    else if offset % 4 ≠ 0 then badAccess s
    else writeWords s .qspi offset (data.length + 1) data)

/-- IRQ_N is low (R407). -/
def State.irqLow (s : State) : Bool := s.host.qsMask &&& s.host.qsPend ≠ 0

/-- QSPI_STATUS: FW_READY, IRQ_N asserted, and whether BADACC has increased since the last STATUS. -/
def execQspiStatus (s : State) : Host.Outcome State Fault Refusal :=
  .next (if !s.portOn .qspi then s
    else
      let v := b2n s.host.fwReady + 2 * b2n s.irqLow + 4 * b2n (decide (s.host.lastBad < s.host.badacc))
      { s with host := { s.host with readData := le 1 v, lastBad := s.host.badacc } })

end Sys2Proof.Machine
end

