-- ==== Sys2Proof/Machine/Trail.lean ====
section
/-!
DEFINITION. The audit-trail writer (R535–R538, R540–R542), its readout and its clear (R545, R546), and the scan at cast-on
(R544). notes/assumptions/37.md.
-/
namespace Sys2Proof.Machine

/-- A security event that reports what has happened: its audit record, and its report (R539, R558). -/
def secNote (s : State) (code subj old new : Nat) : State := emit (auditNote s code subj old new) code subj new

/-! ### Records in the region (R535–R537) -/

/-- The byte that an erased position reads as: NOR erases to FFH; FRAM holds what was written, 00H here. -/
def trailBlank : Byte := if Config.memoryFram then 0 else 0xFF

/-- The 64 bytes at a record position. -/
def State.trailAt (s : State) (p : Nat) : Bytes :=
  match Tbl.get [] s.sec.trail p with
  | [] => List.replicate 64 trailBlank
  | b => b

def markValid (b : Bytes) : Bool := fld b 0 1 = 0x5A

/-- MAC of a record: over bytes 1–47 and the MAC of the record before it. -/
def recordMac (b : Bytes) (prev : BitVec 128) : BitVec 128 :=
  BitVec.ofNat 128 (beVal ((digestBytes (hmac (be 32 Config.deviceKey.toNat) (slice b 1 47 ++ be 16 prev.toNat))).take 16))

/-- A record with its number and its MAC. -/
def sealRecord (b : Bytes) (recno : Nat) (prev : BitVec 128) : Bytes :=
  let b := putFld b 4 4 recno
  b.take 48 ++ be 16 (recordMac b prev).toNat

/-- MAC that the next record chains to: 16 zero bytes for RECNO 0. -/
def State.prevMac (s : State) : BitVec 128 := if s.sec.recno = 0 then 0 else s.sec.lastMac

/-- The writer makes a record durable at NEXT. -/
def placeRecord (s : State) (b : Bytes) : State :=
  let r := sealRecord b s.sec.recno s.prevMac
  { s with sec := { s.sec with
    trail := Tbl.set [] s.sec.trail s.sec.next r, next := s.sec.next + 1, recno := (s.sec.recno + 1) % 2 ^ 32
    lastMac := BitVec.ofNat 128 (beVal (r.drop 48)) } }

/-- A position is left without its mark: the read-back failed, or the write was cut short (R538). -/
def tornPosition (s : State) (b : Bytes) : State :=
  let r := sealRecord b s.sec.recno s.prevMac
  { s with sec := { s.sec with
    trail := Tbl.set [] s.sec.trail s.sec.next (le 1 trailBlank.toNat ++ r.drop 1), next := s.sec.next + 1
    torn := s.sec.torn + 1 } }

/-- Position 8,189 has been used: TRAIL_FULL at 8,190, and the trail is FULL (R542). -/
def trailEnds (s : State) : State :=
  if s.sec.trailSt = 0 ∧ s.sec.next = 8190 then
    let last := (s.sec.recno + 2 ^ 32 - 1) % 2 ^ 32
    let s := placeRecord s (auditBytes s 0x7041 0 0 last 0)
    emit { s with sec := { s.sec with trailSt := 1 } } 0x7041 0 last
  else s

/-- The items lost at the intake enter as one record once two items are free again (R541). -/
def overflowNote (s : State) : State :=
  if s.sec.lostIntake ≠ 0 ∧ 2 ≤ auditFree s then
    let n := s.sec.lostIntake
    secNote { s with sec := { s.sec with lostIntake := 0 } } 0x7042 0 0 n
  else s

/-- A FULL trail takes the first SEAL_BREAK or AON_LOST at position 8,191; every other record is lost and counted. -/
def recordFits (s : State) (b : Bytes) : Bool :=
  s.sec.trailSt = 0 || (s.sec.next = 8191 && (fld b 2 2 = 0x7002 || fld b 2 2 = 0x7005))

/-- AUDIT_RECORD_WRITE: the next record of the intake, in order, while the management core holds the serial memory (R42, R48);
with the intake shut only the record in progress is completed (R543). A record written renews the lease (R47), and each is a
transaction of its own. -/
def auditWrite (s : State) (ok : Bool) : State :=
  if s.sec.trailSt = 2 || s.serialHolder ≠ 2 || (s.sec.intakeShut && !s.sec.finishing) then s
  else
    let s := { s with sec := { s.sec with finishing := false } }
    match (s.queue 4).items with
    | [] => s
    | i :: _ =>
      let b := bytesOf i.words
      if recordFits s b && !ok then endSerial (trailEnds (tornPosition s b))
      else
        match qTake s 4 with
        | none => s
        | some (_, s) =>
          let s := if recordFits s b then trailEnds (placeRecord s b)
            else { s with sec := { s.sec with lostFull := sat (2 ^ 32 - 1) (s.sec.lostFull + 1) } }
          endSerial (overflowNote s)

def execAuditRecordWrite (readBackOk : Bool) (s : State) : Host.Outcome State Fault Refusal := .next (auditWrite s readBackOk)

/-- AUDIT_TOKEN_REFILL (R540). -/
def execAuditTokenRefill (code : Nat) (s : State) : Host.Outcome State Fault Refusal :=
  .next { s with sec := { s.sec with
    buckets := Tbl.upd Bucket.init s.sec.buckets code fun b => { b with missing := b.missing - 1 } } }

/-! ### TRAIL_READ (R545) -/

/-- RECNO and MAC of the closest valid record below a position. -/
def State.recordBefore (s : State) : Nat → Option (Nat × BitVec 128)
  | 0 => none
  | p + 1 =>
    let b := s.trailAt p
    if markValid b then some (fld b 4 4, BitVec.ofNat 128 (beVal (b.drop 48))) else s.recordBefore p

/-- The three tests of VERIFY for one position. The first record in the region follows the last one before the clear, or is
RECNO 0. -/
def State.recordOk (s : State) (p : Nat) : Bool :=
  let b := s.trailAt p
  let n := fld b 4 4
  let prev := match s.recordBefore p with
    | some (m, mac) => ((m + 1) % 2 ^ 32, mac)
    | none => if n = 0 then (0, 0) else ((s.sec.clearInfo.2 + 1) % 2 ^ 32, s.sec.clearInfo.1)
  markValid b && n = prev.1 && b.drop 48 == be 16 (recordMac b prev.2).toNat

def cmdTrailRead : CmdHdr → Bytes → State → State :=
  mailbox 0x0802 (form 4 fun p => [(0, fld p 0 2 < 8192), (2, inR 1 31 (fld p 2 2))])
    fun s _ p =>
      let a := fld p 0 2
      let n := Nat.min (fld p 2 2) (8192 - a)
      let v := (List.range n).foldl (fun m i => bitSet m i (s.recordOk (a + i))) 0
      let s := { s with sec := { s.sec with readMark := Nat.max s.sec.readMark (a + n) } }
      answer s (Ans.ok (le 2 a ++ le 2 n ++ le 2 s.sec.next ++ le 1 s.sec.trailSt ++ zeros 1 ++ le 4 v ++ zeros 4 ++
        ((List.range n).map fun i => s.trailAt (a + i)).flatten))

def execTrailRead (h : CmdHdr) (p : Bytes) (s : State) : Host.Outcome State Fault Refusal := .next (cmdTrailRead h p s)

/-- TRAIL_CLEARED: the positions are erased, and the chain goes on at position 0 (R546). -/
def trailCleared (s : State) : State :=
  if s.sec.trailSt = 2 && s.serialHolder = 2 then
    let s := { s with sec := { s.sec with trail := [], next := 0, trailSt := 0, readMark := 0, torn := 0 } }
    let old := leVal ((be 16 s.sec.clearInfo.1.toNat).take 8)
    let s := if s.sec.life = .blank then s else placeRecord s (auditBytes s 0x7040 0 0 old s.sec.clearInfo.2)
    emit (endSerial s) 0x7040 0 s.sec.clearInfo.2
  else s

def execTrailCleared (s : State) : Host.Outcome State Fault Refusal := .next (if s.pm.emergency then s else trailCleared s)

/-! ### The scan at cast-on (R544) -/

/-- Positions below NEXT that hold bytes but no valid mark. -/
def State.tornPositions (s : State) : List Nat := (s.sec.trail.filter fun e => e.1 < s.sec.next && !markValid e.2).map (·.1)

/-- The position after the last valid mark, and that record's number and MAC. -/
def scanTrail (s : State) : State :=
  match (s.sec.trail.filter fun e => markValid e.2).getLast? with
  | none => { s with sec := { s.sec with next := 0, readMark := 0 } }
  | some (p, b) =>
    { s with sec := { s.sec with
      next := p + 1, recno := (fld b 4 4 + 1) % 2 ^ 32, lastMac := BitVec.ofNat 128 (beVal (b.drop 48)), readMark := 0
      trailSt := if s.sec.trailSt = 2 then 2 else if 8190 < p + 1 then 1 else 0 } }

/-- The trail as cast-on finds it: RECORD_TORN for the lowest torn position, TRAIL_INVALID for a wrong last record. -/
def trailScan (s : State) : State :=
  let s := scanTrail s
  let t := s.tornPositions
  let s := { s with sec := { s.sec with torn := t.length } }
  let s := match t with
    | [] => s
    | p :: _ => secNote s 0x7043 p 0 p
  if s.sec.next = 0 || s.recordOk (s.sec.next - 1) then s else secNote s 0x7044 0 0 0

end Sys2Proof.Machine
end

