-- ==== Sys2Proof/Machine/Seal.lean ====
section
/-!
DEFINITION. The lifecycle and its breaks (R524–R526, R531, R532), authorisation (R528–R530), the clear of the trail (R546),
the debug port (R547, R548), the metrology identity (R534) and firmware update (R549–R553). notes/assumptions/38.md.
-/
namespace Sys2Proof.Machine

/-! ### Breaks (R525, R531) -/

/-- Both copies of the seal record hold the lifecycle and SEAL_BREAKS; in BLANK there is none (R532). -/
def saveRecord (s : State) : State :=
  let r := if s.sec.life = .blank then none else some (s.sec.life, s.sec.breaks)
  { s with sec := { s.sec with record := r, record2 := r } }

/-- The valid copy with the higher SEAL_BREAKS (R532). -/
def Seal.usedRecord (e : Seal) : Option (Lifecycle × Nat) :=
  match e.record, e.record2 with
  | some a, some b => some (if a.2 < b.2 then b else a)
  | some a, none => some a
  | none, r => r

/-- Entry into SERVICE: the counter and the next fuse (R531). -/
def countBreak (s : State) : State :=
  saveRecord { s with sec := { s.sec with
    life := .service, breaks := sat 65535 (s.sec.breaks + 1), fuses := sat 4096 (s.sec.fuses + 1) } }

/-- A break by the switch or by a doubt at cast-on; OLD names the cause: 0 switch, 1 command. -/
def breakSeal (s : State) (code info : Nat) : State := secNote (countBreak s) code 0 0 info

/-- SEAL_SW_CHANGE (R526). -/
def sealSw (s : State) (opened : Bool) : State :=
  let s := { s with sec := { s.sec with swOpen := opened } }
  if s.pm.st = .cocoon || s.pm.inReset then
    if opened && s.sec.life = .sealed && s.sec.cocoonBreak.isNone then
      { s with sec := { s.sec with breaks := sat 65535 (s.sec.breaks + 1), cocoonBreak := some s.pm.rtc } }
    else s
  else
    let s := if s.sec.life = .sealed then (if opened then breakSeal s 0x7002 0 else s)
      else secNote s (if opened then 0x7003 else 0x7004) 0 0 0
    if opened then wakeBy s .sealSw else s

/-- Equal samples of SEAL_SW on CLK_AON, in every power state: a change is accepted at the 33rd (R526). -/
def execSealSwChange (opened : Bool) (samples : Nat) (s : State) : Host.Outcome State Fault Refusal :=
  let c := if s.sec.swOpen = opened then 0 else s.sec.swCount + samples
  let take := 33 ≤ c
  let s := { s with sec := { s.sec with swCount := if take then 0 else c } }
  .next (if take then sealSw s opened else s)

/-! ### Tokens (R528–R530) -/

def State.key (s : State) (n : Nat) : KeySlot := Tbl.get KeySlot.init s.sec.keys n
def KeySlot.live (k : KeySlot) : Bool := k.filled && !k.revoked

/-- SHA-256 of a public key. -/
def keyHash (pub : Bytes) : BitVec 256 := sha256 pub

/-- The 40-byte message that a token signs (R529). -/
def State.tokenMsg (s : State) (nonce : BitVec 128) (op arg : Nat) : Bytes :=
  [0x50, 0x58, 0x41, 0x31] ++ le 8 Config.uid.toNat ++ be 16 nonce.toNat ++ le 2 op ++ le 8 arg ++ le 2 s.sec.breaks

/-- A key may sign: an unrevoked slot, or the production key where it is asked for. -/
def signer (s : State) (prod : Bool) (tok : Bytes) : Bool :=
  let n := fld tok 0 1
  let pub := slice tok 4 64
  if prod then n = 0xFF && pub == be 64 Config.productionKey.toNat
  else n < 4 && (s.key n).live && keyHash pub == (s.key n).hash

/-- A token is valid for a command and its ARG. -/
def tokenOk (s : State) (prod : Bool) (op arg : Nat) (tok : Bytes) : Bool :=
  match s.sec.nonce with
  | none => false
  | some n =>
    signer s prod tok &&
      ecdsaVerify (BitVec.ofNat 512 (beVal (slice tok 4 64))) (sha256 (s.tokenMsg n op arg)) (beVal (slice tok 68 32))
        (beVal (slice tok 100 32))

/-- A refusal with AUTH: the nonce is consumed, and the 16th in a row locks (R530). -/
def authRefused (s : State) (op : Nat) : State :=
  let s := { s with sec := { s.sec with nonce := none, refusals := s.sec.refusals + 1 } }
  let s := secNote s 0x7010 op 0 s.sec.refusals
  if 16 ≤ s.sec.refusals then secNote { s with sec := { s.sec with authLock := true } } 0x7011 op 0 s.sec.refusals else s

/-- Go on with a valid token; `ok` is a further test on it. During the lockout nothing is checked. -/
def withToken (s : State) (prod : Bool) (op arg : Nat) (tok : Bytes) (ok : Bool) (k : State → State × Option Ans) :
    State × Option Ans :=
  if s.sec.authLock then answer s (Ans.err stAuth 0)
  else if ok && tokenOk s prod op arg tok then k { s with sec := { s.sec with nonce := none, refusals := 0 } }
  else answer (authRefused s op) (Ans.err stAuth 0)

def cmdAuthChallenge : CmdHdr → Bytes → State → State :=
  mailbox 0x0801 formEmpty fun s _ _ =>
    let n := Config.freeNonce s.fresh
    answer { s with fresh := s.fresh + 1, sec := { s.sec with nonce := some n } }
      (Ans.ok (be 16 n.toNat ++ le 8 Config.uid.toNat ++ le 2 s.sec.breaks ++ zeros 2))

def execAuthChallenge (h : CmdHdr) (p : Bytes) (s : State) : Host.Outcome State Fault Refusal := .next (cmdAuthChallenge h p s)

def execNonceExpiry (s : State) : Host.Outcome State Fault Refusal := .next { s with sec := { s.sec with nonce := none } }

def execAuthLockoutEnd (s : State) : Host.Outcome State Fault Refusal :=
  .next (if s.sec.authLock then { s with sec := { s.sec with authLock := false, refusals := 0 } } else s)

/-! ### LIFECYCLE_SET (R525, R528) -/

/-- A gating record built on the state after the event; a refusal leaves the state before it. -/
def gatedTo (s s' : State) (code subj old new : Nat) (k : State → State × Option Ans) : State × Option Ans :=
  match auditGate s' code subj old new with
  | (.accepted, s'') => k (emit s'' code subj new)
  | (.busy, _) => answer s (Ans.err stBusy 0)
  | (.full, _) => answer s (Ans.err stTrailFull 0)

def lifeForm : Bytes → Option Nat :=
  form 200 fun p => [(0, fld p 0 1 < 4), (1, fld p 1 1 < 3), (2, fld p 1 1 = 0 || fld p 2 1 < 4), rsv p 3 1,
    (4, fld p 1 1 = 1 || allZero (slice p 4 64)), rsv p 69 3]

def lifeToken (p : Bytes) : Bytes := slice p 68 132

def State.lifeAns (s : State) : Ans := Ans.ok (le 1 (lifeCode s.sec.life) ++ zeros 1 ++ le 2 s.sec.breaks)

/-- A debugger is detached (R547, R548). -/
def detach (s : State) : State :=
  let lv := s.sec.debug
  let s := { s with sec := { s.sec with debug := 0, granted := 0 } }
  if lv = 0 then s else secNote s 0x7021 lv 0 lv

/-- What entry to SEALED also does: the staged pattern goes, and any debugger (R525, R548). -/
def sealedEntry (s : State) : State := detach (discardStage s)

def setLife (s : State) (l : Lifecycle) : State := saveRecord { s with sec := { s.sec with life := l } }

/-- OPEN or SERVICE to SEALED; a commit whose steps still run is pending like an accepted one (R230, R525). -/
def sealGo (s : State) : State × Option Ans :=
  if s.sec.swOpen then answer s (Ans.err stBusy 0)
  else match s.mbx.pending.orElse fun _ => s.mbx.wait.map (·.commit) with
    | some c => answer s (Ans.err stBusy c.owner)
    | none =>
      if s.sec.fullSeen then answer s (Ans.err stBusy 0)
      else gatedTo s (setLife s .sealed) 0x7001 0 (lifeCode s.sec.life) 2 fun s => let s := sealedEntry s; answer s s.lifeAns

def State.anyKey (s : State) : Bool := (List.range 4).any fun n => (s.key n).live

/-- LIFECYCLE_SET with KEY_OP 0. -/
def lifeGo (s : State) (p : Bytes) : State × Option Ans :=
  let t := fld p 0 1
  let tok := lifeToken p
  match s.sec.life, t with
  | .blank, 1 =>
    withToken s true 0x0800 t tok true fun s =>
      let s := setLife { s with sec := { s.sec with blankFuse := true } } .opened
      let s := emit s 0x7001 0 1
      answer s s.lifeAns
  | .opened, 2 =>
    if !allZero tok then answer s (Ans.err stBadParam 68)
    else if !s.anyKey then answer s (Ans.err stBadParam 0)
    else sealGo s
  | .service, 2 =>
    if !s.anyKey then answer s (Ans.err stBadParam 0)
    else withToken s false 0x0800 t tok true sealGo
  | .sealed, 3 =>
    withToken s false 0x0800 t tok true fun s =>
      gatedTo s (countBreak s) 0x7002 0 1 0 fun s => answer s s.lifeAns
  | .service, 1 =>
    withToken s false 0x0800 t tok true fun s =>
      gatedTo s (setLife s .opened) 0x7001 0 3 1 fun s => answer s s.lifeAns
  | _, _ => answer s (Ans.err stBadParam 0)

/-- ARG of a key operation. -/
def keyArg (p : Bytes) : Nat :=
  leVal (slice p 1 2 ++ (if fld p 1 1 = 1 then (digestBytes (keyHash (slice p 4 64))).take 6 else zeros 6))

def setKey (s : State) (n : Nat) (f : KeySlot → KeySlot) : State :=
  { s with sec := { s.sec with keys := Tbl.upd KeySlot.init s.sec.keys n f } }

/-- KEY_OP 1: a key into an empty slot. -/
def installGo (s : State) (p : Bytes) : State × Option Ans :=
  let n := fld p 2 1
  let tok := lifeToken p
  let hash := keyHash (slice p 4 64)
  let go := fun (s : State) =>
    gatedTo s (setKey s n fun k => { k with hash := hash, filled := true }) 0x7012 n 0 (head8 hash) fun s => answer s s.lifeAns
  if fld p 0 1 ≠ lifeCode s.sec.life then answer s (Ans.err stBadParam 0)
  else if s.isSealed then answer s (Ans.err stSealed 0)
  else if (s.key n).filled then answer s (Ans.err stBadParam 2)
  else if s.sec.life = .service then withToken s false 0x0800 (keyArg p) tok (fld tok 0 1 ≠ n) go
  else if !allZero tok then answer s (Ans.err stBadParam 68)
  else go s

/-- KEY_OP 2: the revoke fuse of a slot, under another slot's token. -/
def revokeGo (s : State) (p : Bytes) : State × Option Ans :=
  let n := fld p 2 1
  let tok := lifeToken p
  if fld p 0 1 ≠ lifeCode s.sec.life then answer s (Ans.err stBadParam 0)
  else if s.isSealed then answer s (Ans.err stSealed 0)
  else if !(s.key n).live || ((List.range 4).filter fun i => (s.key i).live).length ≤ 1 then answer s (Ans.err stBadParam 2)
  else withToken s false 0x0800 (keyArg p) tok (fld tok 0 1 ≠ n) fun s =>
    gatedTo s (setKey s n fun k => { k with revoked := true }) 0x7013 n (head8 (s.key n).hash) 0 fun s => answer s s.lifeAns

/-- The command 0x0800, whichever of its three rows names it. -/
def lifeBody (s : State) (p : Bytes) : State × Option Ans :=
  match fld p 1 1 with
  | 1 => installGo s p
  | 2 => revokeGo s p
  | _ => lifeGo s p

def cmdLifecycleSet : CmdHdr → Bytes → State → State := mailbox 0x0800 lifeForm fun s _ p => lifeBody s p

def execLifecycleSet (h : CmdHdr) (p : Bytes) (s : State) : Host.Outcome State Fault Refusal := .next (cmdLifecycleSet h p s)
def execKeyInstall (h : CmdHdr) (p : Bytes) (s : State) : Host.Outcome State Fault Refusal := .next (cmdLifecycleSet h p s)
def execKeyRevoke (h : CmdHdr) (p : Bytes) (s : State) : Host.Outcome State Fault Refusal := .next (cmdLifecycleSet h p s)

/-! ### TRAIL_CLEAR (R546) -/

def clearGo (s : State) : State × Option Ans :=
  let last := (s.sec.recno + 2 ^ 32 - 1) % 2 ^ 32
  if s.sec.life ≠ .blank && (s.sec.intakeShut || bucketEmpty s 0x7040 || auditFree s < 2) then answer s (Ans.err stBusy 0)
  else
    answer { s with sec := { s.sec with
      trailSt := 2, clearInfo := (s.sec.lastMac, last)
      buckets := if s.sec.life = .blank then s.sec.buckets
        else Tbl.upd Bucket.init s.sec.buckets 0x7040 fun b => { b with missing := sat 4 (b.missing + 1) } } } Ans.done

def cmdTrailClear : CmdHdr → Bytes → State → State :=
  mailbox 0x0803 (form 132 fun p => [rsv p 1 3]) fun s _ p =>
    if s.sec.readMark < s.sec.next || s.sec.trailSt = 2 || s.serialShut 2 then answer s (Ans.err stBusy 0)
    else withToken s false 0x0803 ((s.sec.recno + 2 ^ 32 - 1) % 2 ^ 32) p true clearGo

def execTrailClear (h : CmdHdr) (p : Bytes) (s : State) : Host.Outcome State Fault Refusal := .next (cmdTrailClear h p s)

/-! ### Debug port (R547, R548) -/

/-- Whether a level needs a token in a lifecycle state. -/
def needsToken (l : Lifecycle) (level : Nat) : Bool :=
  match l with
  | .blank => false
  | .sealed => level ≠ 0
  | _ => level = 2

/-- The grant becomes `level`; an attachment above it is detached. -/
def grant (s : State) (level : Nat) : State :=
  let s := if level < s.sec.debug then detach s else s
  { s with sec := { s.sec with granted := level } }

def cmdDebugSet : CmdHdr → Bytes → State → State :=
  mailbox 0x0808 (form 136 fun p => [(0, fld p 0 1 < 3), rsv p 1 3, rsv p 5 3]) fun s _ p =>
    let lv := fld p 0 1
    let tok := slice p 4 132
    if s.isSealed && lv = 2 then answer s (Ans.err stSealed 0)
    else if needsToken s.sec.life lv then withToken s false 0x0808 lv tok true fun s => answer (grant s lv) Ans.done
    else if !allZero tok then answer s (Ans.err stBadParam 4)
    else answer (grant s lv) Ans.done

def execDebugSet (h : CmdHdr) (p : Bytes) (s : State) : Host.Outcome State Fault Refusal := .next (cmdDebugSet h p s)

/-- DEBUG_ATTACHED: at the granted level, unless its gating record is refused. -/
def execDebugAttached (s : State) : Host.Outcome State Fault Refusal :=
  let lv := s.sec.granted
  .next (if lv = 0 || s.sec.debug = lv || s.pm.st = .cocoon || s.pm.inReset then s
    else
      match auditGate s 0x7020 lv 0 lv with
      | (.accepted, s) => emit { s with sec := { s.sec with debug := lv, fullSeen := s.sec.fullSeen || lv = 2 } } 0x7020 lv lv
      | _ => s)

/-! ### METRO_ID (R534) -/

def cmdMetroId : CmdHdr → Bytes → State → State :=
  mailbox 0x0809 formEmpty fun s _ _ =>
    let m := digestBytes s.sec.metro
    answer s (Ans.ok (digestBytes s.runningFwId ++ digestBytes s.sec.param ++ m ++ m.take 8 ++ le 1 (b2n (decide (s.sec.debug = 2))) ++ zeros 3))

def execMetroId (h : CmdHdr) (p : Bytes) (s : State) : Host.Outcome State Fault Refusal := .next (cmdMetroId h p s)

/-! ### Firmware update (R549–R552) -/

/-- The inactive slot, and the image staged into it. -/
def State.chSlot (s : State) : Nat := 1 - s.sec.fwSlot
def State.chImage (s : State) : Option FwSlot := Tbl.get none s.sec.slots s.chSlot

def setImage (s : State) (x : FwSlot) : State := { s with sec := { s.sec with slots := Tbl.set none s.sec.slots s.chSlot (some x) } }
def setChrysalis (s : State) (c : Chrysalis) : State := { s with sec := { s.sec with chrysalis := c } }

/-- Bytes of a firmware slot (R580). -/
def slotSize : Nat := 8 * 2 ^ 20

/-- An update command from the transport that holds the update: BUSY for another, NOT_STAGED where none has begun. -/
def updating (s : State) (h : CmdHdr) (k : State → State × Option Ans) : State × Option Ans :=
  if s.sec.updOwner = 0 then answer s (Ans.err stNotStaged 0)
  else if s.sec.updOwner ≠ viaTag h.via then answer s (Ans.err stBusy s.sec.updOwner)
  else k (renew s .fwUpdate)

def cmdUpdateBegin : CmdHdr → Bytes → State → State :=
  mailbox 0x0804 (form 8 fun p => [(0, inR 256 slotSize (fld p 0 4)), rsv p 4 4]) fun s h p =>
    if s.sec.updOwner ≠ 0 ∧ s.sec.updOwner ≠ viaTag h.via then answer s (Ans.err stBusy s.sec.updOwner)
    else if s.serialShut 2 then answer s (Ans.err stBusy 0)
    else
      let s := setImage (setChrysalis (acquire s .fwUpdate) .erasing) ⟨[], fld p 0 4, 0, 0, 0⟩
      answer { s with sec := { s.sec with updOwner := viaTag h.via } } Ans.done

def execUpdateBegin (h : CmdHdr) (p : Bytes) (s : State) : Host.Outcome State Fault Refusal := .next (cmdUpdateBegin h p s)

/-- FW_CHRYSALIS_READY: the erase has ended. -/
def fwErased (s : State) : State :=
  if s.sec.chrysalis = .erasing && s.serialHolder = 2 then emit (endSerial (setChrysalis s .writing)) 0x7030 s.sec.updOwner 0
  else s

def execFwChrysalisReady (s : State) : Host.Outcome State Fault Refusal := .next (if s.pm.emergency then s else fwErased s)

def writeGo (s : State) (p : Bytes) : State × Option Ans :=
  match s.chImage with
  | none => answer s (Ans.err stNotStaged 0)
  | some x =>
    let o := fld p 0 4
    let d := p.drop 8
    if s.sec.chrysalis = .erasing || s.sec.chrysalis = .verifying then answer s (Ans.err stBusy s.sec.updOwner)
    else if s.serialShut 2 then answer s (Ans.err stBusy 0)
    else if x.length < o + d.length then answer s (Ans.err stBadParam 0)
    else answer (setImage (setChrysalis s .writing) { x with bytes := Tbl.setRun 0xFF x.bytes o d }) Ans.done

def cmdUpdateWrite : CmdHdr → Bytes → State → State :=
  mailbox 0x0805 (fun p => if !inR 9 2032 p.length then some 0xFFFC else firstBad [rsv p 4 4]) fun s h p =>
    updating s h fun s => writeGo s p

def execUpdateWrite (h : CmdHdr) (p : Bytes) (s : State) : Host.Outcome State Fault Refusal := .next (cmdUpdateWrite h p s)

def cmdUpdateVerify : CmdHdr → Bytes → State → State :=
  mailbox 0x0806 formEmpty fun s h _ =>
    updating s h fun s =>
      if s.sec.chrysalis = .erasing || s.sec.chrysalis = .verifying then answer s (Ans.err stBusy s.sec.updOwner)
      else answer (setChrysalis s .verifying) Ans.done

def execUpdateVerify (h : CmdHdr) (p : Bytes) (s : State) : Host.Outcome State Fault Refusal := .next (cmdUpdateVerify h p s)

/-- The number of the first check of R551 that an image fails; 0 where it passes. -/
def fwCheck (secMin : Nat) (x : FwSlot) : Nat :=
  let b := Tbl.run 0xFF x.bytes 0 128
  let n := fld b 12 4
  let stream := Tbl.run 0xFF x.bytes 128 n
  let sig := slice b 64 64
  if slice b 0 4 != [0x50, 0x58, 0x46, 0x01] || 64 < fld b 8 2 || fld b 10 2 ≠ 0 || !allZero (slice b 20 12) || x.length < 128 + n then 1
  else if !ecdsaVerify Config.releaseKey (sha256 (b.take 64 ++ stream)) (beVal (sig.take 32)) (beVal (sig.drop 32)) then 2
  else if fld stream 4 1 ≠ 2 then 3
  else match kzExpand stream with
    | none => 3
    | some img =>
      if img.length ≠ fld b 16 4 || digestBytes (sha256 img) != slice b 32 32 then 4
      else if fld b 8 2 < secMin then 5 else 0

/-- The identity that a verified image's header gives. -/
def FwSlot.named (x : FwSlot) : FwSlot :=
  let b := Tbl.run 0xFF x.bytes 0 128
  { x with release := fld b 4 2, fwId := BitVec.ofNat 256 (beVal (slice b 32 32)), secVer := fld b 8 2 }

/-- FW_VERIFY_DONE. -/
def fwVerifyDone (s : State) : State :=
  match s.chImage with
  | none => s
  | some x =>
    match fwCheck s.sec.secMin x with
    | 0 => emit (setImage (setChrysalis s .verified) x.named) 0x7031 s.sec.updOwner 0
    | n => emit (setChrysalis s .failed) 0x7032 s.sec.updOwner n

def execFwVerifyDone (s : State) : Host.Outcome State Fault Refusal :=
  .next (if s.sec.chrysalis = .verifying then fwVerifyDone s else s)

/-- UPDATE_ACTIVATE: the slot selection is written, and the device resets after the response (R552). -/
def activateGo (s : State) : State × Option Ans :=
  gatedTo s s 0x7033 s.chSlot (head8 s.runningFwId) (head8 (s.fwImage s.chSlot).fwId) fun s =>
    answer { s with sec := s.sec.select s.chSlot, pm := { s.pm with resetReq := some 3 } } Ans.done

def activateBody (s : State) (h : CmdHdr) (p : Bytes) : State × Option Ans :=
  if s.sec.updOwner ≠ 0 ∧ s.sec.updOwner ≠ viaTag h.via then answer s (Ans.err stBusy s.sec.updOwner)
  else if s.sec.chrysalis ≠ .verified then answer s (Ans.err stNotStaged 0)
  else match s.mbx.pending with
    | some c => answer s (Ans.err stBusy c.owner)
    | none =>
      if s.sec.trailSt = 2 || s.serialShut 2 then answer s (Ans.err stBusy 0)
      else if s.isSealed then withToken s false 0x0807 (head8 (s.fwImage s.chSlot).fwId) p true activateGo
      else if !allZero p then answer s (Ans.err stBadParam 0)
      else activateGo s

end Sys2Proof.Machine
end

