-- ==== Sys2Proof/Machine/Reset.lean ====
section
/-!
DEFINITION. The resets of LD and MD (R489, R552, R561, R578): what a logic reset keeps, RESET_N and the logic rails, and the
commands that end in a reset. notes/assumptions/39.md.
-/
namespace Sys2Proof.Machine

/-! ### The logic reset (R561) -/

/-- The supplies of a field die outlast a logic reset; the die itself is unpowered, and LD's memory of a temperature alarm is gone
with LD's state (R561, R572). -/
def FieldDie.unpowered (d : FieldDie) : FieldDie :=
  { FieldDie.init with railsOk := d.railsOk, reversed := d.reversed, outRange := d.outRange && !d.rangeBack }

/-- An update that a reset interrupts: what has been written stays, and the transport's hold on it is gone. -/
def Chrysalis.afterReset : Chrysalis → Chrysalis
  | .verifying => .writing
  | .erasing => .failed
  | c => c

/-- What the seal logic keeps: fuses, the always-on domain, the trail region and the images. The items left in Q4 are counted
with those that the always-on domain has counted (R543). -/
def sealKept (s : State) : Seal :=
  let e := s.sec
  { State.reset.sec with
    life := e.life, blankFuse := e.blankFuse, swOpen := e.swOpen, swCount := e.swCount, breaks := e.breaks, fuses := e.fuses
    cocoonBreak := e.cocoonBreak, aonLost := e.aonLost, record := e.record, record2 := e.record2, keys := e.keys, secMin := e.secMin
    fwSlot := e.fwSlot, hdr0 := e.hdr0, hdr1 := e.hdr1, chrysalis := e.chrysalis.afterReset, slots := e.slots
    trail := e.trail, next := e.next, trailSt := e.trailSt, recno := e.recno, torn := e.torn, lastMac := e.lastMac
    clearInfo := e.clearInfo, lostPower := e.lostPower + (s.queue 4).items.length }

/-- What the always-on domain, the external memory and the inputs keep of the power manager's state. -/
def pmKept (s : State) (cause : Nat) : Pm :=
  let p := s.pm
  { State.reset.pm with
    pfw := p.pfw, railsOk := p.railsOk, resetCause := cause, cocoons := p.cocoons, aonN := p.aonN, aonInvert := p.aonInvert
    aonEdge := p.aonEdge, aonWake := p.aonWake, rtc := p.rtc, rtcAlarm := p.rtcAlarm, hlog := p.hlog, hNext := p.hNext
    teds := p.teds, straps := p.straps }

/-- The reset of LD and MD with its RESET_CAUSE: everything outside them stays. A debugger is detached (R548). -/
def resetBody (s : State) (cause : Nat) : State :=
  let s := detach s
  let r := State.reset
  { r with
    pending := s.pending, fresh := s.fresh, hostMem := s.hostMem
    flt := { r.flt with dies := Tbl.updAll FieldDie.init s.flt.dies [0, 1] fun _ d => d.unpowered }
    cal := { r.cal with store0 := s.cal.store0, store1 := s.cal.store1 }
    ring := { r.ring with session := s.ring.session, wire := s.ring.wire }
    host := { r.host with msgs := s.host.msgs, cfgRetry := s.host.cfgRetry, cfgDone := s.host.cfgDone }
    mbx := { r.mbx with store := s.mbx.store, last := s.mbx.last }
    ic := { r.ic with level := b2n s.pm.pfw }
    sec := sealKept s
    pm := pmKept s cause }

/-- Vector 31 stays raised over a reset that is none of RESET_N, the RESET command and a power cycle (R576). -/
def keepFatal (before s : State) : State := if before.ic.fatal then raiseFatal s else s

/-- The logic reset: a firmware activation and the end of a power failure leave vector 31 raised. -/
def logicReset (s : State) (cause : Nat) : State :=
  if cause = 3 || cause = 6 then keepFatal s (resetBody s cause) else resetBody s cause

/-! ### The commands that reset (R388, R489, R552) -/

/-- The reset that follows a response: three BEATs with LEAVING, then the logic reset. -/
def afterReset (s : State) : State :=
  match s.pm.resetReq with
  | none => s
  | some c => logicReset (sendLeaving s (if c = 3 then 5 else 4)) c

def cmdReset : CmdHdr → Bytes → State → State :=
  mailbox 0x0020 formEmpty fun s _ _ => answer { s with pm := { s.pm with resetReq := some 2 } } Ans.done

def execReset (h : CmdHdr) (p : Bytes) (s : State) : Host.Outcome State Fault Refusal := .next (afterReset (cmdReset h p s))

def cmdUpdateActivate : CmdHdr → Bytes → State → State := mailbox 0x0807 (form 132 fun p => [rsv p 1 3]) activateBody

def execUpdateActivate (h : CmdHdr) (p : Bytes) (s : State) : Host.Outcome State Fault Refusal :=
  .next (afterReset (cmdUpdateActivate h p s))

/-! ### RESET_N and the logic rails (R561, R566) -/

/-- RESET_N goes low, or a logic rail leaves its range. In COCOON the logic is off already. -/
def resetN (s : State) (railLost : Bool) : State :=
  if s.pm.st = .cocoon then { s with pm := { s.pm with railsOk := s.pm.railsOk && !railLost } }
  else
    let s := logicReset s (if railLost then 0 else 1)
    { s with pm := { s.pm with inReset := true, held := false, railsOk := !railLost } }

def execResetNAssert (railLost : Bool) (s : State) : Host.Outcome State Fault Refusal := .next (resetN s railLost)

/-- The logic rails have been in range for 1 ms with RESET_N high: cast-on may begin. In COCOON the rising rails end it. -/
def logicPowerOn (s : State) : State :=
  if s.pm.st = .cocoon then
    if s.pm.railsOk then s
    else State.readStraps { restartFilters s with pm := { s.pm with
      st := .active, railsOk := true, resetCause := 0, castOn := false, castOnDone := false } }
  else if s.pm.inReset && !s.pm.held then State.readStraps { s with pm := { s.pm with inReset := false, railsOk := true } }
  else s

def execLogicPowerOnReset (s : State) : Host.Outcome State Fault Refusal := .next (logicPowerOn s)

end Sys2Proof.Machine
end

