-- ==== Sys2Proof/Machine/CastOn.lean ====
section
/-!
DEFINITION. Cast-on (R244, R479, R532, R543, R544, R553, R573–R575), the power-up of a field die (R562) and its isolation lanes
(R564). notes/assumptions/39.md.
-/
namespace Sys2Proof.Machine

/-! ### The firmware slot (R553) -/

/-- The image in a slot passes the checks of R551; production's image has passed them, so its SEC_VERSION decides. -/
def State.slotOk (s : State) (n : Nat) : Bool :=
  match Tbl.get none s.sec.slots n with
  | some x => fwCheck s.sec.secMin x = 0
  | none => s.sec.secMin ≤ Config.secVersion n

/-- The slot that runs: the selected one, else the other. -/
def State.slotToRun (s : State) : Option Nat :=
  if s.slotOk s.sec.slotSel then some s.sec.slotSel
  else if s.slotOk (1 - s.sec.slotSel) then some (1 - s.sec.slotSel)
  else none

/-- A slot runs: its SEC_VERSION raises SEC_MIN, and the chrysalis is the other slot's. -/
def runSlot (s : State) (n : Nat) : State :=
  let e := if n = s.sec.slotSel then s.sec else s.sec.select n
  { s with sec := { e with
    fwSlot := n, secMin := Nat.max e.secMin (Nat.min 64 (s.fwImage n).secVer)
    chrysalis := if n = e.fwSlot then e.chrysalis else .none } }

/-! ### The lifecycle (R532) -/

/-- A COCOON break is completed: its count was taken when it was latched. -/
def cocoonBreak (s : State) : State :=
  let t := s.sec.cocoonBreak.getD 0
  let s := saveRecord { s with sec := { s.sec with life := .service, fuses := sat 4096 (s.sec.fuses + 1), cocoonBreak := none } }
  secNote s 0x7002 0 0 t

/-- The lifecycle as cast-on finds it. -/
def setLifecycle (s : State) : State :=
  let e := s.sec
  if !e.blankFuse then { s with sec := { e with life := .blank, breaks := 0, aonLost := false, cocoonBreak := none } }
  else
    let always := if e.aonLost then 0 else e.breaks
    let lost := e.aonLost
    let latched := e.cocoonBreak.isSome
    match e.usedRecord with
    | none =>
      let s := breakSeal { s with sec := { e with life := .sealed, breaks := Nat.max always e.fuses, aonLost := false } } 0x7006 0
      if latched then cocoonBreak s else s
    | some (l, n) =>
      let s := { s with sec := { e with life := l, breaks := Nat.max always (Nat.max e.fuses n), aonLost := false } }
      if latched then cocoonBreak s
      else if lost then (if l = .sealed then breakSeal s 0x7005 0 else secNote s 0x7005 0 0 0)
      else s

/-- What the power loss cost the intake enters as one record (R543). -/
def powerLossNote (s : State) : State :=
  if s.sec.lostPower = 0 then s
  else secNote { s with sec := { s.sec with lostPower := 0 } } 0x7042 0 1 s.sec.lostPower

/-! ### Swatches and the cast-on pattern (R212, R479, R574) -/

/-- NEW of the last valid record of a code among two. -/
def State.lastNew (s : State) (a b : Nat) : Option Nat :=
  ((s.sec.trail.filter fun e => markValid e.2 && (fld e.2 2 2 = a || fld e.2 2 2 = b)).getLast?).map fun e => fld e.2 40 8

/-- The swatches of the store, put into a pattern; a channel without a good copy takes the identity swatch. -/
def loadSwatches (s : State) (p : Pat) : State × Pat :=
  (List.range 256).foldl (fun a ch =>
    match s.storedSwatch ch with
    | some b => (a.1, a.2.setStr sSwatch ch b)
    | none => (emit a.1 0x1036 ch 0, a.2.setStr sSwatch ch identitySwatch)) (s, p)

/-- The loaded set against the digest that the trail records. -/
def swatchDigestCheck (s : State) (p : Pat) : State :=
  let d := head8 (structDigest p sSwatch 256)
  match s.lastNew 0x1030 0x1031 with
  | none => s
  | some n => if n = d then s else swatchReverted s 0 n d

/-- The pattern of the blob in slot 0; a slot that is empty, or whose blob fails its Kilzar checks or those of R477, gives way to the
factory default with PATTERN_LOAD_FAILED (R574). -/
def castOnPattern (s : State) : State × Pat :=
  match s.savedPat 0 with
  | some p => if (s.patternAns p).isNone then (s, p) else (emit s 0x600A 0 0, [])
  | none => (emit s 0x600A 0 0, [])

/-- From cast-on a channel with an auxiliary source waits for its first usable result (R185). -/
def temperaturesWait (s : State) : State :=
  let users := allChans.filter fun ch => s.pat.f sTemp ch 0 1 = 2
  { s with lin := { s.lin with temps := Tbl.updAll TempCh.init s.lin.temps users fun _ t => ⟨t.theta, 1, 0, s.time.b2.val⟩ } }

/-- The pattern in force as epoch 0: the grid follows its base, the ring and the digests are set up, and the first row waits
for its base (R244, R359, R479, R533). -/
def startPattern (s : State) (p : Pat) : State :=
  let s := { s with mbx := { s.mbx with force := p }, time := { s.time with selected := p.f sTime 0 0 1 } }
  let s := swatchCheck (temperaturesWait (openStream s s.selBase.val none))
  startEnumeration (restartAttempts (applyRoles (metroRecompute s)))

/-- Cast-on scans every bus, each once its die has ramped its drivers (R79, R573 step 7). -/
def tedsScans (s : State) : State := { s with pm := { s.pm with tedsDue := 2 ^ 32 - 1 } }

/-- The frame engine that PREFER names is active where it passes its power-on self-test, else the other; with neither the
station originates no frames (R435). An engine that fails is FAULTY (R448). -/
def preferEngine (s : State) (feA feB : Bool) : State :=
  let pref := s.pat.f sFe 0 4 1 % 2
  let ok := fun (e : Nat) => if e = 0 then feA else feB
  let act := if ok pref then pref else if ok (1 - pref) then 1 - pref else pref
  let st := fun (e : Nat) => if !ok e then EngState.faulty else if e = act then .active else .ready
  let s := { s with fe := { s.fe with active := act, a := st 0, b := st 1 } }
  if feA || feB then s else bothFail s

/-! ### Cast-on (R573) -/

/-- The recovery state (R575). -/
def castOnFails (s : State) : State := raiseFatal (emit { s with pm := { s.pm with recovery := true } } 0x600B 0 0)

/-- Cast-on with a slot that runs. -/
def castOnWith (s : State) (n : Nat) (feA feB : Bool) : State :=
  let sel := s.sec.slotSel
  let s := trailScan (setLifecycle (runSlot s n))
  let s := powerLossNote (if n = sel then s else secNote s 0x7034 sel 0 0)
  let (s, p) := castOnPattern s
  let (s, p) := loadSwatches s p
  let s := preferEngine (tedsScans (startPattern (swatchDigestCheck s p) p)) feA feB
  refreshOutputs { s with host := { s.host with fwReady := true } }

/-- CAST_ON: `memoryOk` says that a usable serial memory has been found (R579), `feA` and `feB` whether the frame engines pass
their power-on self-tests. -/
def castOn (s : State) (memoryOk feA feB : Bool) : State :=
  let s := { s with
    pm := { s.pm with castOn := true, noMem := !memoryOk }
    ring := { s.ring with session := (s.ring.session + 1) % 65536 }
    sec := { s.sec with intakeShut := s.pm.pfw } }
  if !memoryOk || s.sec.header.isNone then castOnFails s
  else match s.slotToRun with
    | none => castOnFails s
    | some n => castOnWith s n feA feB

def execCastOn (memoryOk feA feB : Bool) (s : State) : Host.Outcome State Fault Refusal :=
  .next (if !s.pm.castOn && !s.pm.inReset && s.pm.st = .active then castOn s memoryOk feA feB else s)

/-! ### Field dies (R562) and isolation lanes (R564) -/

/-- The power manager powers field dies: in ACTIVE after cast-on, while nothing shuts down. -/
def State.fieldOn (s : State) : Bool :=
  s.pm.st = .active && s.host.fwReady && s.pm.binding.isNone && !s.pm.emergency && !s.pm.toDoze

def execFieldDiePowerUp (die : Die) (s : State) : Host.Outcome State Fault Refusal :=
  .next (if s.fieldOn then startDie s die else s)

/-- ISO_LANES_LOCKED: the die is up, and its clusters leave PARKED at the next boundary. -/
def execIsoLanesLocked (die : Die) (s : State) : Host.Outcome State Fault Refusal :=
  .next (if s.fieldOn && (s.die die).starting then (dieUp s die).updDie die fun d => { d with unpark := true } else s)

/-- ISO_LANE_LOST: lanes 0 to 7 carry data; 8 is the clock lane and 9 the status lane, whose loss takes the die down. -/
def laneLost (s : State) (d lane : Nat) : State :=
  if !(s.die d).powered || (s.die d).lanesLost.contains lane then s
  else if lane < 8 then emit (s.updDie d fun x => { x with lanesLost := lane :: x.lanesLost }) 0x6009 d lane
  else emit (dieDown s d fun x => { x with powered := false, starting := false, unpark := false, lanesLost := [], lanesBack := [] })
    0x6009 d lane

def execIsoLaneLost (die : Die) (lane : Nat) (s : State) : Host.Outcome State Fault Refusal := .next (laneLost s die lane)

/-- ISO_LANE_RETRAINED: the chains of the lane's slices restart with the row after the one in production. -/
def laneRetrained (s : State) (d lane : Nat) : State :=
  if (s.die d).lanesLost.contains lane then
    s.updDie d fun x => { x with
      lanesLost := x.lanesLost.erase lane, lanesBack := if s.rowOpen then lane :: x.lanesBack else x.lanesBack }
  else s

def execIsoLaneRetrained (die : Die) (lane : Nat) (s : State) : Host.Outcome State Fault Refusal := .next (laneRetrained s die lane)

end Sys2Proof.Machine
end

