-- ==== Sys2Proof/Machine/Intc.lean ====
section
/-!
DEFINITION. The cores' side of the interrupt controller (R495–R504), the filtered inputs (R508–R512), and what producers,
consumers and the firmware do to the queues (R516–R520). notes/assumptions/35.md.
-/
namespace Sys2Proof.Machine

/-! ### Claim and completion (R498–R504) -/

/-- The source active at a core, and the one presented to it. -/
def Ic.active (c : Ic) (mgmt : Bool) : Nat := if mgmt then c.activeM else c.activeC
def Ic.present (c : Ic) (mgmt : Bool) : Nat := if mgmt then c.presentM else c.presentC
def Ic.setActive (c : Ic) (mgmt : Bool) (n : Nat) : Ic :=
  if mgmt then { c with activeM := n } else { c with activeC := n }

/-- COUNT of a claim (R499). -/
def Ic.claimCount (c : Ic) (n : Nat) : Nat := if n = 255 then 0 else if srcCounted n then Tbl.get 0 c.counts n else 1

/-- A core reads its claim port. -/
def Ic.take (c : Ic) (mgmt : Bool) : Ic :=
  let n := c.present mgmt
  let c := { c with claim := n + 256 * c.claimCount n }
  if n = 255 then c
  else
    ({ c with
      pend := bitSet c.pend n false
      counts := if srcCounted n then Tbl.set 0 c.counts n 0 else c.counts } : Ic).setActive mgmt n

def execIcClaim (mgmt : Bool) (s : State) : Host.Outcome State Fault Refusal := .next { s with ic := s.ic.take mgmt }

/-- A core completes a source. -/
def Ic.complete (c : Ic) (mgmt : Bool) (n : Nat) : Ic :=
  if n ≠ 255 ∧ c.active mgmt = n then
    let again := c.actPend.testBit n || (srcCounted n && Tbl.get 0 c.counts n ≠ 0)
    ({ c with
      actPend := bitSet c.actPend n false
      pend := if again then bitSet c.pend n true else c.pend } : Ic).setActive mgmt 255
  else { c with bad := sat 65535 (c.bad + 1) }

def execIcComplete (mgmt : Bool) (src : Nat) (s : State) : Host.Outcome State Fault Refusal :=
  .next { s with ic := s.ic.complete mgmt src }

/-- Word `n` of a mask of 192 sources. -/
def maskWord (m n w : Nat) : Nat := m - bits m (64 * n) 64 * 2 ^ (64 * n) + w * 2 ^ (64 * n)

/-- A core writes a word of its mask (R497, R502). -/
def Ic.maskWrite (c : Ic) (mgmt : Bool) (n w : Nat) : Ic :=
  Ic.withdrawn' c (if mgmt then { c with mmask := maskWord c.mmask n w } else { c with cmask := maskWord c.cmask n w })

def execIcMaskWrite (mgmt : Bool) (n : Nat) (mask : BitVec 64) (s : State) : Host.Outcome State Fault Refusal :=
  .next { s with ic := s.ic.maskWrite mgmt n mask.toNat }

/-- One core rings the other's doorbell. -/
def execCoreDoorbell (fromMgmt : Bool) (s : State) : Host.Outcome State Fault Refusal :=
  .next (fireSrc s (if fromMgmt then 177 else 176))

/-! ### Causes (R495, R496) -/

/-- The cause of a level source. -/
def State.levelCause (s : State) (n : Nat) : Bool :=
  if n = 0 then s.pm.pfw else if n = 8 then !(s.queue 0).items.isEmpty else !(s.queue (n - 144)).items.isEmpty

/-- INTERRUPT_SOURCE_PEND: an edge source fires, the vector conditions with their vector; a level source follows its cause. -/
def execInterruptSourcePend (src : Nat) (level : Bool) (s : State) : Host.Outcome State Fault Refusal :=
  .next (if !srcUsed src then s
    else if srcLevel src then (if level = s.levelCause src then setLevel s src level else s)
    else if inR 128 143 src then vector s (src - 126)
    else fireSrc s src)

/-! ### Inputs (R508–R512) -/

/-- MODE of an input's DI_CFG. -/
def State.diMode (s : State) (n : Nat) : Nat := s.pat.f sDi n 1 1

/-- EDGE selects an edge. -/
def edgeSel (edge : Nat) (rise : Bool) : Bool := edge.testBit (if rise then 0 else 1)

/-- INVERT and EDGE in force: in COCOON those of the always-on copy (R568). -/
def State.diSetting (s : State) (n : Nat) : Bool × Nat :=
  if s.pm.st = .cocoon then (s.pm.aonInvert, s.pm.aonEdge) else ((s.diMode n).testBit 0, bits (s.diMode n) 1 2)

/-- LD samples its inputs: in ACTIVE and DOZE; in WATCH the inputs are watched for wakes only. -/
def State.ldOn (s : State) : Bool := !s.pm.inReset && (s.pm.st = .active || s.pm.st = .doze)

/-- The interrupt sources of an input's selected edge, once LD runs. -/
def diFire (s : State) (n : Nat) : State :=
  if !s.ldOn then s else if n < 16 then fireSrc s (48 + n) else if n = 18 then fireSrc s 44 else s

/-- An edge of DI0–DI15 belongs to the row of its date (R281, R509): to the newest row produced where it is dated at or
before that row's boundary and a sequencer has that row still to step, else to the row in production
(notes/assumptions/35.md). -/
def markEdge (s : State) (n : Nat) (level : Bool) : State :=
  let mark := fun (m : Nat) (b : Bool) => if n < 16 && b then bitSet m n true else m
  match s.flt.recent with
  | r :: l =>
    if s.rowOpen && s.dated n ≤ s.flt.rows.last && s.stepRow.isSome then
      { s with flt := { s.flt with recent :=
        { r with ev := { r.ev with diRise := mark r.ev.diRise level, diFall := mark r.ev.diFall (!level) } } :: l } }
    else { s with ic := { s.ic with diRise := mark s.ic.diRise level, diFall := mark s.ic.diFall (!level) } }
  | [] => { s with ic := { s.ic with diRise := mark s.ic.diRise level, diFall := mark s.ic.diFall (!level) } }

/-- A filtered change of an input: level, edge, wake and interrupt source. SYNC_IN and PPS_IN act through their own rows. -/
def diChange (s : State) (n : Nat) (level : Bool) : State :=
  let hit := edgeSel (s.diSetting n).2 level
  let wasCocoon := s.pm.st = .cocoon
  let s := markEdge { s with ic := { s.ic with diLevel := bitSet s.ic.diLevel n level } } n level
  let s := if hit then wakeBy s (if n = 18 then .wakeIn else .di n) else s
  let s := if hit && !wasCocoon then diFire s n else s
  if wasCocoon then s else refreshOutputs s

/-- Equal samples of an input (R508, R509): they count where they differ from the filtered level, and the change is accepted
at the N-th; a sample that equals it starts the count again. -/
def sampleInput (s : State) (n : Nat) (level : Bool) (samples : Nat) : State :=
  let c := if s.ic.diLevel.testBit n = level then 0 else Tbl.get 0 s.ic.diCount n + samples
  let take := s.diN n ≤ c && s.ic.diLevel.testBit n != level
  let s := { s with ic := { s.ic with
    diRaw := bitSet s.ic.diRaw n (level != (s.diSetting n).1)
    diCount := Tbl.set 0 s.ic.diCount n (if take then 0 else c) } }
  if take then diChange s n level else s

def execDiEdge (input : Nat) (level : Bool) (samples : Nat) (s : State) : Host.Outcome State Fault Refusal :=
  .next (if (s.pm.st = .cocoon && input ≠ 18) || s.pm.inReset then s else sampleInput s input level samples)

/-! ### Producers (R516, R518, R520) -/

/-- Words for the item that a producer is writing, or for a new one. -/
def extendItem (items : List QItem) (ws : List (BitVec 32)) (last : Bool) : List QItem :=
  match items.getLast? with
  | some i =>
    if i.complete then items ++ [⟨ws, last, false⟩]
    else items.dropLast ++ [{ i with words := i.words ++ ws, complete := last }]
  | none => [⟨ws, last, false⟩]

/-- The items without the one that is being written. -/
def wholeItems (items : List QItem) : List QItem := items.filter (·.complete)

/-- A producer writes words of an item, `last` with its last one. -/
def qWrite (s : State) (q : Nat) (ws : List (BitVec 32)) (last : Bool) : State :=
  let v := s.queue q
  if v.discard then s.setQueue q { v with discard := !last }
  else if qStall q then s.setQueue q (({ v with stalled := v.stalled ++ ws } : Queue).letIn q)
  else if v.level + ws.length ≤ qDepth q then
    s.setQueue q { v with
      items := extendItem v.items ws last, high := Nat.max v.high (v.level + ws.length), ovfEp := false }
  else
    let t := s.setQueue q { v with items := wholeItems v.items, ovf := sat 65535 (v.ovf + 1), discard := !last }
    if qDropNew q then overflowReport s t q
    else if q = 6 then dropStamp t
    else if q = 4 then { t with sec := { t.sec with
      lostIntake := t.sec.lostIntake + 1, overflow := sat (2 ^ 32 - 1) (t.sec.overflow + 1) } }
    else t

def execQWrite (q : Nat) (words : List (BitVec 32)) (last : Bool) (s : State) : Host.Outcome State Fault Refusal :=
  .next (if words.isEmpty then s else qWrite s q words last)

/-! ### Consumers and the firmware (R518–R520) -/

/-- Words of an item still to come from a producer that waits. -/
def Queue.restOf (v : Queue) (q : Nat) (i : QItem) : Queue :=
  let rest := if qStall q then qItemWords q - i.words.length else 0
  { v with stalled := v.stalled.drop rest, discard := !qStall q || v.stalled.length < rest }

/-- DROP of the current item. -/
def qDropOne (s : State) (q : Nat) : State :=
  let v := s.queue q
  match v.items with
  | [] => s
  | i :: r =>
    let v := { v with items := r, drops := sat 65535 (v.drops + 1) }
    let v := if i.complete then v else v.restOf q i
    let s := s.setQueue q (v.letIn q)
    if q = 8 then kzDropped s i.words else s

def execQDrop (q : Nat) (s : State) : Host.Outcome State Fault Refusal := .next (qDropOne s q)

/-- A flush: complete items go; the item being written stays, marked TRUNCATED. -/
def qFlush (s : State) (q : Nat) : State :=
  let v := s.queue q
  let s := if q = 8 then kzDropped s (v.items.map (·.words)).flatten else s
  match v.items.find? fun i => !i.complete with
  | none => s.setQueue q (({ v with items := [] } : Queue).letIn q)
  | some i =>
    let v := v.restOf q i
    let v := { v with items := [{ i with complete := true, truncated := true }], trunc := sat 65535 (v.trunc + 1) }
    emit (s.setQueue q (v.letIn q)) 0x6042 q 0

def execQFlush (q : Nat) (s : State) : Host.Outcome State Fault Refusal := .next (qFlush s q)

/-- Q_STALE: the timer of a non-empty queue runs out once, until a read or an empty queue rearms it; a read of this cycle is
in time (R40). -/
def qStale (s : State) (q : Nat) : State :=
  let v := s.queue q
  if !v.items.isEmpty ∧ v.staleRun ∧ v.staleCfg ≠ 0 ∧ v.readAt ≠ some s.time.b2.val then
    emit (s.setQueue q { v with stale := true, staleRun := false }) 0x6040 q 0
  else s

def execQStale (q : Nat) (s : State) : Host.Outcome State Fault Refusal := .next (qStale s q)

end Sys2Proof.Machine
end

