-- ==== Sys2Proof/Machine/Lease.lean ====
section
/-!
DEFINITION. Leases: expiry, revocation and release (R41, R45–R50). notes/assumptions/36.md.
-/
namespace Sys2Proof.Machine

/-- Owner tag of a resource, 0 where it is free (R46, R47). -/
def State.leaseOwner (s : State) : LeaseRes → Nat
  | .dma n => if (s.dmaCh n).held then (s.dmaCh n).owner else 0
  | .skein n => if (s.openOf n).isEmpty then 0 else 0x10 + n
  | .handover cl => if s.inWindow cl then 0x80 + cl else 0
  | .serialMem => s.serialHolder
  | .kilzar d => s.kzHolder d
  | .staging => if s.mbx.staged.isSome then s.mbx.stageOwner else 0
  | .fwUpdate => s.sec.updOwner

/-- The lease can run out now: a skein's after 4 rows without a step, a descriptor channel's never (R47), and none that was
renewed in this cycle (R40). -/
def State.leaseExpires (s : State) (r : LeaseRes) : Bool :=
  s.leaseOwner r ≠ 0 && !s.justRenewed r && (match r with
    | .dma n => (s.dmaCh n).delivery
    | .skein n => 4 ≤ (s.seq n).late
    | .kilzar d => if d then s.kzD.stat.busy else s.kzC.stat.busy
    | _ => true)

def State.isFaulty (s : State) (r : LeaseRes) : Bool := s.leases.faulty.any (·.1 == r)

/-- LEASE_EXPIRY: the holder is declared faulty for the resource. -/
def execLeaseExpiry (r : LeaseRes) (s : State) : Host.Outcome State Fault Refusal :=
  .next (if s.leaseExpires r && !s.isFaulty r then
      { s with leases := { s.leases with faulty := s.leases.faulty ++ [(r, 0)] } }
    else s)

/-! ### The states after revocation (R47, R50) -/

/-- The open skeins of a stalled sequencer end TRUNCATED with the newest row captured, the 64-row minimum of R296 applying as
to every end but STREAM_END and POWER, and it is HALTED. -/
def haltSeq (s : State) (n : Nat) : State :=
  let row := s.flt.rows.row - 1
  let s := (s.openOf n).foldl (fun s k =>
    let l := (lastOf k (some (row, 2))).1
    emit (holdFrom (s.updSkein k.id fun x => { x with isOpen := false, last := some l, endCause := 2 }) n row) 0x4002 n k.id) s
  emit (s.updSeq n fun q => { q with run := .halted, pendingOpen := none, late := 0 }) 0x4008 n 0

/-- A channel loses its lease: a delivery channel passes to the new active engine, any other stops with REVOKED. A lease that has
expired shows that the active engine has failed. -/
def revokeDma (s : State) (n cause : Nat) : State :=
  if (s.dmaCh n).delivery then
    let s := if cause = 0 && (s.dmaCh n).owner = 0x20 + s.fe.active && s.engineOn then deliveryLost s else s
    let s := { s with leases := { s.leases with faulty := s.leases.faulty.filter fun e => e.1 != LeaseRes.dma n } }
    s.updDma n fun c => { c with owner := 0x20 + s.fe.active }
  else dmaFail s n 11

/-- What a serial-memory transaction leaves that ends after the page in progress. DESIGN CHOICE (notes/assumptions/36.md): a
slot whose save is cut short holds no pattern, a commit that waits for the swatch store is refused with NO_RESOURCE, DETAIL 0,
and a clear of the trail stays CLEARING: it goes on once the management core may take the memory again. -/
def endSerialWork (s : State) : State :=
  if s.serialHolder = 1 then
    match s.mbx.saving with
    | some (slot, _, _) => { s with mbx := { s.mbx with saving := none, store := Tbl.set [] s.mbx.store slot [] } }
    | none =>
      match s.mbx.wait with
      | some w => endWait (rateBack { s with mbx := { s.mbx with wait := none } } w.commit) w (some (Ans.err stNoResource 0))
      | none => s
  else if s.sec.trailSt = 2 then s
  else if !(s.queue 4).items.isEmpty then auditWrite s false
  else if s.sec.chrysalis = .erasing then { s with sec := { s.sec with chrysalis := .failed } }
  else s

/-- The holder loses the serial memory: its transaction ends, and the controller grants the next one. -/
def revokeSerial (s : State) : State := endSerial (endSerialWork s)

/-- An update ends: unless it has been verified, its chrysalis reads FAILED (R47, R551). -/
def revokeUpdate (s : State) : State :=
  { s with sec := { s.sec with
    updOwner := 0, chrysalis := if s.sec.chrysalis = .verified then .verified else .failed } }

def revokeState (s : State) (cause : Nat) : LeaseRes → State
  | .dma n => revokeDma s n cause
  | .skein n => haltSeq s n
  | .handover cl => abortHandover s cl cause
  | .serialMem => revokeSerial s
  | .kilzar d => kzTruncate s d
  | .staging => discardStage s
  | .fwUpdate => revokeUpdate s

/-- RESOURCE of MG_LEASE_LAST (R49). -/
def LeaseRes.kindCode : LeaseRes → Nat
  | .dma _ => 1 | .skein _ => 2 | .handover _ => 3 | .serialMem => 4 | .kilzar _ => 5 | .staging => 6 | .fwUpdate => 7

/-- Whether a holder stays barred until it is reset (R48). A core whose watchdog expired, a transport that ended and an engine
that failed have been reset, or are (R47, R448); a HALTED sequencer runs again only by TS_ARM, which resets it (R287); after a
field fault R92 and R127 let rotation go on, after the expiry of its lease the rotation controller stays barred until the
device is reset; and R47 lets an update begin again from any transport. -/
def barsHolder (r : LeaseRes) (cause : Nat) : Bool :=
  match r with
  | .kilzar _ => true
  | .staging | .serialMem | .handover _ => cause = 0
  | _ => false

/-- LEASE_REVOKED and MG_LEASE_LAST. -/
def noteRevoked (s : State) (r : LeaseRes) (tag cause : Nat) : State :=
  let l := s.leases
  let s := { s with leases := { l with
    tag := tag, resource := LeaseRes.kindCode r, cause := cause, valid := true, row := s.flt.rows.row, count := sat 65535 (l.count + 1)
    barred := if barsHolder r cause then (r, tag) :: l.barred else l.barred } }
  emit s 0x6010 tag (LeaseRes.kindCode r)

/-- The queues that a holder consumes (R516), without Q4: its full and shut cases are those of R539 and R543. -/
def State.consumes (s : State) (tag : Nat) : List Nat :=
  if tag = 1 then [0, 1] else if tag = 2 then [2, 7] else if tag = 0x20 + s.fe.active then [3, 5] else []

/-- The revocation of a resource whose holder has been declared faulty; the queues of that consumer are flushed (R520). -/
def revoke (s : State) (r : LeaseRes) : State :=
  match s.leases.faulty.find? (·.1 == r) with
  | none => s
  | some (_, cause) =>
    let tag := s.leaseOwner r
    let s := { s with leases := { s.leases with faulty := s.leases.faulty.filter fun e => e.1 != r } }
    if tag = 0 then s else (s.consumes tag).foldl qFlush (noteRevoked (revokeState s cause r) r tag cause)

def execLeaseRevoked (r : LeaseRes) (s : State) : Host.Outcome State Fault Refusal := .next (revoke s r)

/-! ### RESOURCE_RELEASE (R41) -/

/-- The transaction on the serial memory runs to its end. -/
def serialDone (s : State) : State :=
  if s.serialHolder = 1 then
    match s.mbx.saving with
    | some (slot, _, _) => patSaved s slot
    | none => swatchWritten s true
  else if s.sec.trailSt = 2 then trailCleared s
  else if !(s.queue 4).items.isEmpty then auditWrite s true
  else if s.sec.chrysalis = .erasing then fwErased s
  else s

/-- An engine's holder ends its job and closes its stream. -/
def kzRelease (s : State) (decompressor : Bool) : State :=
  let s := kzClose (kzJobEnd s decompressor) decompressor
  kzGrant decompressor (s.kzPosted decompressor) s

/-- What the holder's own release leaves: the resource free, as after its normal end. A delivery channel ends with ABORTED
alone (R418). -/
def releaseState (s : State) : LeaseRes → State
  | .dma n => if (s.dmaCh n).delivery then dmaFail s n 4 else s.updDma n fun c => { c with st := .idle, result := 0, aborting := false }
  | .skein n => (s.openOf n).foldl (fun s k => tailSkein s k s.flt.rows.row 0) s
  | .handover cl => abandonLater s cl
  | .serialMem => serialDone s
  | .kilzar d => kzRelease s d
  | .staging => discardStage s
  | .fwUpdate => { s with sec := { s.sec with updOwner := 0 } }

/-- A release takes precedence: the revocation does not take place. -/
def release (s : State) (r : LeaseRes) : State :=
  if s.leaseOwner r = 0 then s
  else releaseState { s with leases := { s.leases with faulty := s.leases.faulty.filter fun e => e.1 != r } } r

def execResourceRelease (r : LeaseRes) (s : State) : Host.Outcome State Fault Refusal := .next (release s r)

end Sys2Proof.Machine
end

