-- ==== Sys2Proof/Machine/Power.lean ====
section
/-!
DEFINITION. The power states and bind-off (R427, R566, R577, R588, R591), power failure (R543, R578), the health log (R585)
and HLOG_READ. notes/assumptions/39.md.
-/
namespace Sys2Proof.Machine

/-! ### The health log (R585) -/

/-- Records that the region holds: 14,208 KiB of 32 bytes (R580). -/
def hlogCap : Nat := 454656

/-- A queue item as a record, with the next ENTRY. -/
def hlogRecord (entry : Nat) (i : QItem) : HRec :=
  let b := bytesOf i.words
  ⟨entry, fld b 4 2, fld b 6 2, fld b 8 6, fld b 16 8, fld b 24 8⟩

/-- Complete items of Q7 enter the region, which overwrites its oldest records. -/
def hlogFlush (s : State) : State :=
  let v := s.queue 7
  let s := (v.items.filter (·.complete)).foldl (fun s i =>
    { s with pm := { s.pm with
      hlog := (hlogRecord s.pm.hNext i :: s.pm.hlog).take hlogCap, hNext := (s.pm.hNext + 1) % 2 ^ 32 } }) s
  s.setQueue 7 { v with items := v.items.filter fun i => !i.complete }

def execHlogFlush (s : State) : Host.Outcome State Fault Refusal := .next (if s.ldOn && !s.pm.emergency && !s.pm.noMem && s.serialHolder ≠ 1 then hlogFlush s else s)

def HRec.bytes (r : HRec) : Bytes :=
  le 4 r.entry ++ le 2 r.code ++ le 2 r.subject ++ le 6 r.row ++ zeros 2 ++ le 8 r.time ++ le 8 r.arg

/-- OLDEST: the entry of the oldest record held, NEXT where there is none. -/
def State.hlogOldest (s : State) : Nat := ((s.pm.hlog.getLast?).map (·.entry)).getD s.pm.hNext

/-- The records from an ENTRY on, at most `n`, oldest first. -/
def State.hlogFrom (s : State) (first n : Nat) : List HRec :=
  ((s.pm.hlog.takeWhile fun r => first ≤ r.entry).reverse).take n

def cmdHlogRead : CmdHdr → Bytes → State → State :=
  mailbox 0x0702 (form 8 fun p => [(4, inR 1 63 (fld p 4 2)), rsv p 6 2]) fun s _ p =>
    let first := Nat.max (fld p 0 4) s.hlogOldest
    let rs := s.hlogFrom first (fld p 4 2)
    answer s (Ans.ok (le 4 first ++ le 2 rs.length ++ zeros 2 ++ le 4 s.hlogOldest ++ le 4 s.pm.hNext ++
      (rs.map HRec.bytes).flatten))

def execHlogRead (h : CmdHdr) (p : Bytes) (s : State) : Host.Outcome State Fault Refusal := .next (cmdHlogRead h p s)

/-! ### Bind-off: its beginning (R577 steps 1 to 4) -/

/-- A sequencer stops; an OPEN that waits is dropped. -/
def Seq.stopped (q : Seq) : Seq :=
  { q with run := .idle, out := 0, seen := 0, armAt := none, disarmAt := none, pendingOpen := none, hold := none, late := 0 }

def stopSeqs (s : State) : State :=
  { s with cap := { s.cap with seqs := Tbl.updAll Seq.init s.cap.seqs [0, 1, 2, 3] fun _ q => q.stopped } }

/-- REASON of the LEAVING BEATs (R388). -/
def BindTarget.reason : BindTarget → Nat
  | .watch => 1
  | .cocoon => 2
  | _ => 3

def startBindOff (s : State) (t : BindTarget) : State :=
  let s := sendLeaving (discardStage (cancelCommit s)) t.reason
  let s := endStream { s with pm := { s.pm with binding := some t, toDoze := false } }
  refreshOutputs (drainAll { stopSeqs s with fe := { s.fe with hold := false } })

/-! ### Bind-off: its end (R577 steps 5 to 7) -/

/-- Every channel that was asked to drain has done so. -/
def State.drained (s : State) : Bool := (List.range 16).all fun n => (s.dmaCh n).st != .draining

/-- Resident trailers, an empty intake and a flushed health log. -/
def settleStores (s : State) : State :=
  let s := s.cap.skeins.foldl (fun s k => closeSkein s k.id) s
  (List.range 40).foldl (fun s _ => auditWrite s true) s

/-- A die is switched off with its excitation parked. -/
def dieOff (s : State) (d : Nat) : State :=
  auxStop (dieDown s d fun x => { x with powered := false, starting := false, unpark := false, lanesLost := [], lanesBack := [] }) d

/-- The sentinels start: a die that carries one stays powered, and its sentinel clusters regulate at WATCH_AMP (R569). -/
def startSentinels (s : State) (d : Nat) : State :=
  let cls := (dieClusters d).filter fun cl => s.sentinelCl cl
  if cls.isEmpty || !(s.die d).powered then dieOff s d
  else cls.foldl (fun s cl => s.updDrv cl fun x => { x with st := .regulating }) (auxStop (parkDie s d) d)

/-- The ring transmitters and the PCIe link go down. -/
def linksDown (s : State) : State :=
  let s := breakHop (breakHop s 0 .off) 1 .off
  if s.linkOk then linkLost s else s

/-- The target state is entered. -/
def enterTarget (s : State) : BindTarget → State
  | .watch =>
    emit (holdBases { restartFilters s with
      pm := { s.pm with st := .watch, sentInit := 0, sentState := 0 }, ring := { s.ring with away := true } }) 0x6001 1 1
  | .cocoon =>
    let s := aonCopy s
    let s := logicReset { s with pm := { s.pm with cocoons := (s.pm.cocoons + 1) % 65536 } } s.pm.resetCause
    { s with pm := { s.pm with st := .cocoon } }
  | .holdReset => let s := logicReset s s.pm.resetCause; { s with pm := { s.pm with inReset := true, held := true } }
  | .castOn => keepFatal s (logicReset s 2)

/-- The last records go into the health log before the target state is entered; WATCH keeps the queues. -/
def bindOffDone (s : State) (t : BindTarget) : State :=
  let s := settleStores (if t = .watch then s else detach s)
  let s := if t = .watch then startSentinels (startSentinels s 0) 1 else dieOff (dieOff s 0) 1
  let s := emit (linksDown (sendAll s)) 0x6005 0 0
  let s := hlogFlush (if t = .cocoon then emit s 0x6001 3 3 else s)
  let s := [0, 1, 2, 3, 5, 6, 8].foldl qFlush s
  refreshOutputs (enterTarget { s with pm := { s.pm with binding := none } } t)

def execBindOffDone (s : State) : Host.Outcome State Fault Refusal :=
  .next (match s.pm.binding with
    | none => s
    | some t => if s.drained then bindOffDone s t else s)

def bindTargetOf (n : Nat) : BindTarget := if n = 0 then .holdReset else if n = 1 then .cocoon else .castOn

/-- BUSY while a shutdown or the entry to DOZE runs. -/
def State.powerBusy (s : State) : Bool := s.pm.binding.isSome || s.pm.emergency || s.pm.toDoze

def cmdBindOff : CmdHdr → Bytes → State → State :=
  mailbox 0x0701 (form 4 fun p => [(0, fld p 0 1 < 3), rsv p 1 3]) fun s _ p =>
    if s.powerBusy then answer s (Ans.err stBusy 0)
    else
      let t := bindTargetOf (fld p 0 1)
      answer (startBindOff (if t = .cocoon then { s with pm := { s.pm with rtcAlarm := 0 } } else s) t) Ans.done

def execBindOff (h : CmdHdr) (p : Bytes) (s : State) : Host.Outcome State Fault Refusal := .next (cmdBindOff h p s)

/-! ### PWR_STATE (R566, R587) -/

/-- ACTIVE → DOZE begins: skeins end, the pending commit goes, rotation and scans stop, descriptor channels drain. The rows of
the skeins stay in the class buffers, where faults are still marked (R96, R300). -/
def startDoze (s : State) : State :=
  let s := stepRest 5 (cancelCommit s)
  let s := if s.rowOpen then cutEach s (s.flt.rows.row - 1) 8 false else s
  let s := auxStop (auxStop ((List.range 32).foldl (fun s cl => rotPause s cl) s) 0) 1
  let s := (List.range 16).foldl (fun s n =>
    let c := s.dmaCh n
    if !c.delivery && (c.st = .running || c.st = .pausing) then s.updDma n fun c => { c with st := .draining, aborting := false }
    else s) s
  { s with pm := { s.pm with toDoze := true } }

/-- WATCH with no sentinel and no wake source would end through SEAL_SW only. -/
def State.noWayBack (s : State) : Bool := s.pat.f sPwr 0 0 4 = 0 && s.pat.f sPwr 0 7 1 = 0

def pwrGo (s : State) (st alarm : Nat) : State × Option Ans :=
  match s.pm.st, st with
  | .doze, 0 => answer (emit (wake s 8 0) 0x6001 0 0) Ans.done
  | .active, 2 => answer (startDoze s) Ans.done
  | .cocoon, _ | .watch, _ => answer s (Ans.err stBadParam 0)
  | _, 1 => if s.noWayBack then answer s (Ans.err stBadParam 0) else answer (startBindOff s .watch) Ans.done
  | _, 3 => answer (startBindOff { s with pm := { s.pm with rtcAlarm := alarm } } .cocoon) Ans.done
  | _, _ => answer s (Ans.err stBadParam 0)

def cmdPwrState : CmdHdr → Bytes → State → State :=
  mailbox 0x0700 (form 8 fun p => [(0, fld p 0 1 < 4), rsv p 1 1]) fun s _ p =>
    if s.powerBusy then answer s (Ans.err stBusy 0) else pwrGo s (fld p 0 1) (fld p 2 6)

def execPwrState (h : CmdHdr) (p : Bytes) (s : State) : Host.Outcome State Fault Refusal := .next (cmdPwrState h p s)

/-- POWER_STATE_CHANGED: the entry to DOZE completes once the descriptor channels have drained; a skein opened meanwhile ends
like the others, with the last row produced, and the compressor moves what it still has to move before it stops. -/
def dozeEntered (s : State) : State :=
  let s := if s.rowOpen then cutAll (stepRest 5 s) (s.flt.rows.row - 1) 8 else s
  let s := dieOff (dieOff s 0) 1
  let s := { restartFilters s with pm := { s.pm with st := .doze, toDoze := false }, fe := { s.fe with hold := false } }
  refreshOutputs (emit s 0x6001 2 2)

def execPowerStateChanged (s : State) : Host.Outcome State Fault Refusal :=
  .next (if s.pm.toDoze && s.drained then dozeEntered s else s)

/-! ### Power failure (R28, R543, R578, R591) -/

/-- PFW asserts: the emergency bind-off, which governs from this cycle. A row stream goes on to the end of the frame cycle
that holds the row in production (R578). -/
def pfwFails (s : State) : State :=
  let s := emit (setLevel { s with pm := { s.pm with pfw := true, pfwWait := false } } 0 true) 0x6003 0 0
  if s.pm.emergency then s
  else
    let s := { s with
      sec := { s.sec with intakeShut := true, finishing := !(s.queue 4).items.isEmpty && s.sec.trailSt ≠ 2 && s.serialHolder = 2 }
      pm := { s.pm with binding := none, toDoze := false, emergency := true } }
    let s := if s.rowOpen then s else emergencyEnds s
    refreshOutputs (parkDie (parkDie s 0) 1)

/-- Equal samples of PFW: a level that differs from the filtered one is accepted at the 4th (R578). -/
def pfwSample (s : State) (level : Bool) (samples : Nat) (k : State → State) : State :=
  if s.pm.st = .cocoon || s.pm.inReset then s
  else
    let c := if s.pm.pfw = level then 0 else s.pm.pfwCount + samples
    let take := 4 ≤ c
    let s := { s with pm := { s.pm with pfwCount := if take then 0 else c } }
    if take then k s else s

def execPfwAsserted (samples : Nat) (s : State) : Host.Outcome State Fault Refusal := .next (pfwSample s true samples pfwFails)

/-- PFW deasserts: the wait of 100 ms runs after an emergency. -/
def pfwEnds (s : State) : State :=
  let s := setLevel { s with pm := { s.pm with pfw := false, pfwWait := s.pm.emergency } } 0 false
  if s.pm.emergency then s else { s with sec := { s.sec with intakeShut := false } }

def execPfwDeasserted (samples : Nat) (s : State) : Host.Outcome State Fault Refusal :=
  .next (pfwSample s false samples pfwEnds)

/-- PFW_RECOVERY_TIMEOUT: cast-on follows from step 2, with RESET_CAUSE 6. -/
def execPfwRecoveryTimeout (s : State) : Host.Outcome State Fault Refusal :=
  .next (if s.pm.pfwWait && s.pm.railsOk then logicReset s 6 else s)

end Sys2Proof.Machine
end

