-- ==== Sys2Proof/Machine/Manage.lean ====
section
/-!
DEFINITION. Management (R71, R568, R576, R582–R584, R586): sensors and their alarms, the patrol scrubber, the 2-wire port, the
core watchdogs and the loss of VAON. notes/assumptions/39.md.
-/
namespace Sys2Proof.Machine

/-! ### Sensors (R582, R583) -/

/-- Degrees or percent in units of 1/128. -/
abbrev u128 (v : Int) : Int := 128 * v

/-- Tolerance of R559 in percent of the rail that ELEMENT names: VDD_CORE, VDD_SRD, VDD_DQ, VDD_DQX, VIO. -/
def railTol (element : Nat) : Int := if element < 2 then 3 else 5

/-- A data lane of a powered die is without lock. -/
def State.laneDown (s : State) : Bool :=
  [0, 1].any fun d => (s.die d).powered && !(s.die d).lanesLost.isEmpty

/-- What a reading of a sensor is: 0 normal, 1 warning, 2 alarm. Sensor 20 reads the margin to the range of R559 in percent of
nominal, so a rail below 90 % of nominal has a margin below its tolerance less 10. -/
def sensorLevel (s : State) (i : Nat) (v : Int) (element : Nat) : Nat :=
  if i < 12 then (if u128 130 ≤ v then 2 else if u128 115 ≤ v then 1 else 0)
  else if i < 20 then (if u128 140 < v then 2 else if u128 130 ≤ v then 1 else 0)
  else match i with
    | 20 => if v < u128 (railTol element - 10) then 2 else if v < 0 then 1 else 0
    | 21 => if s.laneDown then 2 else if v < u128 30 then 1 else 0
    | 22 => if 100 < v then 1 else 0
    | _ =>
      if s.fe.bothFailed then 2
      else if (if s.fe.active = 0 then s.fe.b else s.fe.a) = .ready then 0 else 1

/-- The worse of two readings: the lower margin, the higher temperature or count. -/
def worse (i : Nat) (a b : Int) : Int := if i = 20 ∨ i = 21 then min a b else max a b

/-- A temperature alarm switches a die off until it has cooled (R582). -/
def alarmDie (s : State) (d : Nat) : State := (dieOff s d).updDie d fun x => { x with alarmed := true }

/-- LD or MD is too hot: bind-off with target COCOON, whatever shutdown runs. -/
def alarmCocoon (s : State) : State :=
  match s.pm.binding with
  | some _ => { s with pm := { s.pm with binding := some .cocoon } }
  | none => if s.pm.emergency then s else startBindOff s .cocoon

/-- A driver above 140 °C parks (R71); its channels carry WFT until it regulates again, as after a short (R71, R91). -/
def alarmDriver (s : State) (cl : Nat) : State :=
  if (s.cluster cl).drv.st.driving then
    let s := faultHandover s cl
    emit (s.updDrv cl fun d => { d.parkIn .thermalParked with retrying := false, wftHold := true }) 0x2005 (scopeCl cl) 0
  else s

/-- The action of an alarm that begins. -/
def alarmAct (s : State) (i : Nat) : State :=
  if i < 2 then alarmDie s i
  else if i < 4 then alarmCocoon s
  else if i < 12 then alarmDie s ((i - 4) / 4)
  else s

/-- One sensor's reading: STATE, PEAK and ALARMS, with SENSOR_WARN and SENSOR_ALARM once per episode. A driver
parks whenever it is the one above its alarm threshold (R71). -/
def sensorOne (s : State) (i : Nat) (r : Int × Nat) : State :=
  let x := Tbl.get Sensor.init s.pm.sensors i
  let lv := sensorLevel s i r.1 r.2
  let alarm := lv = 2 && x.st ≠ 2
  let x' : Sensor :=
    { value := r.1, element := r.2 % 256, st := lv, peak := if x.seen then worse i x.peak r.1 else r.1
      alarms := if alarm then sat 65535 (x.alarms + 1) else x.alarms, seen := true }
  let s := { s with pm := { s.pm with sensors := Tbl.set Sensor.init s.pm.sensors i x' } }
  let s := if lv ≠ 0 && x.st = 0 then emit s 0x6007 i (unsigned 16 r.1) else s
  let s := if alarm then alarmAct (emit s 0x6008 i (unsigned 16 r.1)) i else s
  if 12 ≤ i ∧ i < 20 ∧ lv = 2 then alarmDriver s (4 * (i - 12) + r.2 % 4) else s

/-- The readings in sensor order. -/
def sensorAll : Nat → List (Int × Nat) → State → State
  | _, [], s => s
  | i, r :: rs, s => sensorAll (i + 1) rs (sensorOne s i r)

/-- The logic supplies are below 90 % of nominal in a set of readings. -/
def railsFail (s : State) (vals : List (Int × Nat)) : Bool :=
  match vals[20]? with
  | some r => sensorLevel s 20 r.1 r.2 = 2
  | none => false

/-- SENSOR_UPDATE. In WATCH the management core is in retention, and only the supplies are watched (R565, R566). -/
def sensorUpdate (s : State) (vals : List (Int × Nat)) : State :=
  if s.ldOn then
    let s' := sensorAll 0 vals s
    if railsFail s vals then logicReset s' 0 else s'
  else if s.pm.st = .watch && railsFail s vals then logicReset s 0
  else s

def execSensorUpdate (vals : List (Int × Nat)) (s : State) : Host.Outcome State Fault Refusal := .next (sensorUpdate s vals)

/-- The sensors that can switch a die off. -/
def dieSensors (d : Nat) : List Nat := d :: (List.range 4).map (4 + 4 * d + ·)

/-- SENSOR_ALARM_CLEAR: below 110 °C for 10 s, the die powers up under R562. -/
def execSensorAlarmClear (die : Die) (s : State) : Host.Outcome State Fault Refusal :=
  .next (if (s.die die).alarmed && (dieSensors die).all fun i => (Tbl.get Sensor.init s.pm.sensors i).value < u128 110 then
      let s := s.updDie die fun d => { d with alarmed := false }
      if s.fieldOn then startDie s die else s
    else s)

/-! ### The patrol scrubber (R584) -/

/-- MD_CORRECTED, at most once in a second of TB2. -/
def scrubCorrected (s : State) : State :=
  let now := s.time.b2.val / secF
  if s.pm.mdSecond = some now then s else emit { s with pm := { s.pm with mdSecond := some now } } 0x6050 0 0

/-- MD_UNCORRECTABLE: SUBJECT says where the word lies, ARG holds its address and the skein; sensor 22 alarms. -/
def scrubBad (s : State) (place addr id : Nat) : State :=
  let x := Tbl.get Sensor.init s.pm.sensors 22
  let s := emit s 0x6051 place (addr % 2 ^ 32 + 2 ^ 32 * id)
  if x.st = 2 then s
  else emit { s with pm := { s.pm with
    sensors := Tbl.set Sensor.init s.pm.sensors 22 { x with st := 2, alarms := sat 65535 (x.alarms + 1) } } } 0x6008 22 (unsigned 16 x.value)

/-- A row that MD still holds. -/
def markRow (s : State) (row : Nat) (f : RowEv → RowEv) : State :=
  { s with flt := { s.flt with recent := s.flt.recent.map fun r => if r.row = row then { r with ev := f r.ev } else r } }

def mdScrub (s : State) : ScrubResult → State
  | .clean passEnd =>
    if passEnd then { s with pm := { s.pm with scrubPasses := (s.pm.scrubPasses + 1) % 2 ^ 32 } } else s
  | .corrected => scrubCorrected s
  | .inSkein id addr => scrubBad s 0 addr id
  | .inClassBuffer c row addr => scrubBad (markRow s row fun e => { e with mdCls := bitSet e.mdCls c true }) 1 addr 0
  | .inRowQueue row addr => scrubBad (markRow s row fun e => { e with mdFrame := true }) 2 addr 0
  | .inReplay seq addr =>
    scrubBad { s with ring := { s.ring with replay := s.ring.replay.filter fun f => f.seq ≠ seq } } 3 addr 0
  | .unused addr => scrubBad s 4 addr 0

/-- MD_SCRUB: in WATCH MD is in self-refresh, in COCOON it is off. -/
def execMdScrub (r : ScrubResult) (s : State) : Host.Outcome State Fault Refusal := .next (if s.ldOn then mdScrub s r else s)

/-! ### The 2-wire port (R586) -/

/-- The registers that the port reads in WATCH. -/
def watchReg (block reg : Nat) : Bool := (block = 0x0F && reg = 0) || (block = 0x10 && (reg = 1 || reg = 4))

/-- The bytes that a read returns; none where the port does not acknowledge or the address names no register. -/
def State.wireRead (s : State) (block reg index : Nat) : Bytes :=
  if s.pm.st = .cocoon || s.pm.inReset || regCount block reg ≤ index then []
  else
    let b := s.regBytes block reg index
    if s.pm.st = .watch && !watchReg block reg then zeros b.length else b

def execMgRead (block reg index : Nat) (s : State) : Host.Outcome State Fault Refusal :=
  .next { s with host := { s.host with readData := s.wireRead block reg index } }

/-! ### Core watchdogs (R47, R576) -/

/-- What a core held when it was reset is declared faulty: the serial memory, and descriptor channels that it started. -/
def declareCore (s : State) (tag : Nat) : State :=
  let dma := ((List.range 16).filter fun n =>
    (s.dmaCh n).held && !(s.dmaCh n).delivery && (s.dmaCh n).owner = tag).map LeaseRes.dma
  let held := if s.serialHolder = tag then LeaseRes.serialMem :: dma else dma
  let new := (held.filter fun r => !s.isFaulty r).map fun r => (r, 1)
  { s with leases := { s.leases with faulty := s.leases.faulty ++ new } }

/-- The core starts again with no source active; one that was pends again. -/
def Ic.coreReset (c : Ic) (mgmt : Bool) : Ic :=
  let a := c.active mgmt
  let c := if a = 255 then c
    else { c with pend := if c.actPend.testBit a then bitSet c.pend a true else c.pend, actPend := bitSet c.actPend a false }
  c.setActive mgmt 255

/-- CORE_WATCHDOG: that core alone is reset; the third expiry within 10 s is fatal. -/
def coreWatchdog (s : State) (mgmt : Bool) : State :=
  let tag := if mgmt then 2 else 1
  let now := s.time.b2.val
  let w := (now :: s.pm.watchdogs.filter fun t => now < t + 10 * secF).take 3
  let s := unbar (declareCore s tag) tag
  let s := { s with ic := s.ic.coreReset mgmt, pm := { s.pm with watchdogs := w, resetCause := 4 } }
  if w.length = 3 then raiseFatal s else s

def execCoreWatchdog (mgmt : Bool) (s : State) : Host.Outcome State Fault Refusal :=
  .next (if s.ldOn then coreWatchdog s mgmt else s)

/-! ### VAON (R531, R543, R568) -/

/-- VAON_LOST: what the always-on domain held is gone; its copy of the COCOON settings takes the defaults. -/
def vaonLost (s : State) : State :=
  { s with
    pm := { s.pm with
      aonN := 4, aonInvert := false, aonEdge := 1, aonWake := true, rtc := 0, rtcAlarm := 0, cocoons := 0 }
    sec := { s.sec with aonLost := true, cocoonBreak := none, lostPower := 0 }
    ring := { s.ring with session := 0 } }

def execVaonLost (s : State) : Host.Outcome State Fault Refusal := .next (vaonLost s)

end Sys2Proof.Machine
end

