-- ==== Sys2Proof/Machine/Dispatch.lean ====
section
/-!
DEFINITION. One arm per row of spec/opcode_table.json: each command's meaning, by its full name.
-/
namespace Sys2Proof.Machine

/-- The effect of a command on everything but the queue. -/
def exec (i : Instr) (s : State) : Host.Outcome State Fault Refusal :=
  match i with
  | .rowBoundary x_i => Sys2Proof.Machine.execRowBoundary x_i s
  | .rowStreamStart => Sys2Proof.Machine.execRowStreamStart s
  | .syncOutPulseEnd => Sys2Proof.Machine.execSyncOutPulseEnd s
  | .tsStep => Sys2Proof.Machine.execTsStep s
  | .leaseExpiry r => Sys2Proof.Machine.execLeaseExpiry r s
  | .leaseRevoked r => Sys2Proof.Machine.execLeaseRevoked r s
  | .resourceRelease r => Sys2Proof.Machine.execResourceRelease r s
  | .pfwAsserted samples => Sys2Proof.Machine.execPfwAsserted samples s
  | .pfwDeasserted samples => Sys2Proof.Machine.execPfwDeasserted samples s
  | .pfwRecoveryTimeout => Sys2Proof.Machine.execPfwRecoveryTimeout s
  | .excCurrentLimit cl => Sys2Proof.Machine.execExcCurrentLimit cl s
  | .excShort cl kind => Sys2Proof.Machine.execExcShort cl kind s
  | .excRetry cl => Sys2Proof.Machine.execExcRetry cl s
  | .polarityCheckDone cl ok => Sys2Proof.Machine.execPolarityCheckDone cl ok s
  | .excRampDone cl => Sys2Proof.Machine.execExcRampDone cl s
  | .senseOpen cl neg => Sys2Proof.Machine.execSenseOpen cl neg s
  | .senseShort cl => Sys2Proof.Machine.execSenseShort cl s
  | .senseReversed cl => Sys2Proof.Machine.execSenseReversed cl s
  | .senseRestored cl => Sys2Proof.Machine.execSenseRestored cl s
  | .signalOpen ch neg => Sys2Proof.Machine.execSignalOpen ch neg s
  | .signalRestored ch => Sys2Proof.Machine.execSignalRestored ch s
  | .clamp ch => Sys2Proof.Machine.execClamp ch s
  | .modOverloadActive slice neg => Sys2Proof.Machine.execModOverloadActive slice neg s
  | .modOverloadClear slice => Sys2Proof.Machine.execModOverloadClear slice s
  | .pinOvervoltage cl => Sys2Proof.Machine.execPinOvervoltage cl s
  | .vfReversed die => Sys2Proof.Machine.execVfReversed die s
  | .vfOutOfRange die => Sys2Proof.Machine.execVfOutOfRange die s
  | .vfInRange die => Sys2Proof.Machine.execVfInRange die s
  | .vfCollapse die => Sys2Proof.Machine.execVfCollapse die s
  | .tedsScan h p => Sys2Proof.Machine.execTedsScan h p s
  | .tedsScanDone cl nodes => Sys2Proof.Machine.execTedsScanDone cl nodes s
  | .tedsRead h p => Sys2Proof.Machine.execTedsRead h p s
  | .tedsApply h p => Sys2Proof.Machine.execTedsApply h p s
  | .rotStepStart cl => Sys2Proof.Machine.execRotStepStart cl s
  | .rotPhaseEnd cl => Sys2Proof.Machine.execRotPhaseEnd cl s
  | .ladderGrant rg => Sys2Proof.Machine.execLadderGrant rg s
  | .rotCalDone cl => Sys2Proof.Machine.execRotCalDone cl s
  | .rotWindowEnd cl dTdt => Sys2Proof.Machine.execRotWindowEnd cl dTdt s
  | .rotDeferExpired cl => Sys2Proof.Machine.execRotDeferExpired cl s
  | .rotClearSuspect h p => Sys2Proof.Machine.execRotClearSuspect h p s
  | .auxResult die value => Sys2Proof.Machine.execAuxResult die value s
  | .regionSensorConversion temps => Sys2Proof.Machine.execRegionSensorConversion temps s
  | .tempStale die entry => Sys2Proof.Machine.execTempStale die entry s
  | .sync h p => Sys2Proof.Machine.execSync h p s
  | .syncIn => Sys2Proof.Machine.execSyncIn s
  | .firRead h p => Sys2Proof.Machine.execFirRead h p s
  | .calPoint h p => Sys2Proof.Machine.execCalPoint h p s
  | .calSolve h p => Sys2Proof.Machine.execCalSolve h p s
  | .calAbort h p => Sys2Proof.Machine.execCalAbort h p s
  | .phaseMeasure h p => Sys2Proof.Machine.execPhaseMeasure h p s
  | .skewMeasure h p => Sys2Proof.Machine.execSkewMeasure h p s
  | .fdtLearn h p => Sys2Proof.Machine.execFdtLearn h p s
  | .calDone => Sys2Proof.Machine.execCalDone s
  | .swatchStage h p => Sys2Proof.Machine.execSwatchStage h p s
  | .swatchStoreWritten ok => Sys2Proof.Machine.execSwatchStoreWritten ok s
  | .tbSnapshotCapture => Sys2Proof.Machine.execTbSnapshotCapture s
  | .tbIncrWrite n byHost w => Sys2Proof.Machine.execTbIncrWrite n byHost w s
  | .tbSlewWrite n byHost offset rate => Sys2Proof.Machine.execTbSlewWrite n byHost offset rate s
  | .tbSlewDone n => Sys2Proof.Machine.execTbSlewDone n s
  | .timeIncr h p => Sys2Proof.Machine.execTimeIncr h p s
  | .timeSlew h p => Sys2Proof.Machine.execTimeSlew h p s
  | .timeStepTb3 h p => Sys2Proof.Machine.execTimeStepTb3 h p s
  | .timeTod h p => Sys2Proof.Machine.execTimeTod h p s
  | .asymMeasure h p => Sys2Proof.Machine.execAsymMeasure h p s
  | .asymPhaseDone => Sys2Proof.Machine.execAsymPhaseDone s
  | .ptpSyncRx m => Sys2Proof.Machine.execPtpSyncRx m s
  | .ptpSyncForward port domain seq ingress correction => Sys2Proof.Machine.execPtpSyncForward port domain seq ingress correction s
  | .ptpSyncTx dom => Sys2Proof.Machine.execPtpSyncTx dom s
  | .ptpPdelayTx port => Sys2Proof.Machine.execPtpPdelayTx port s
  | .ptpPdelayRx port m => Sys2Proof.Machine.execPtpPdelayRx port m s
  | .ptpAnnounceTx dom => Sys2Proof.Machine.execPtpAnnounceTx dom s
  | .ptpAnnounceRx m => Sys2Proof.Machine.execPtpAnnounceRx m s
  | .ptpMgmtDrop port => Sys2Proof.Machine.execPtpMgmtDrop port s
  | .syncLossTimeout dom => Sys2Proof.Machine.execSyncLossTimeout dom s
  | .acqTimeout => Sys2Proof.Machine.execAcqTimeout s
  | .ppsInEdge stamp => Sys2Proof.Machine.execPpsInEdge stamp s
  | .ppsInLost => Sys2Proof.Machine.execPpsInLost s
  | .ppsOutRise => Sys2Proof.Machine.execPpsOutRise s
  | .ppsOutEnd => Sys2Proof.Machine.execPpsOutEnd s
  | .freqSourceLost => Sys2Proof.Machine.execFreqSourceLost s
  | .freqHoldoverEnd => Sys2Proof.Machine.execFreqHoldoverEnd s
  | .freqSourceChanged => Sys2Proof.Machine.execFreqSourceChanged s
  | .teArm h p => Sys2Proof.Machine.execTeArm h p s
  | .teDisarm h p => Sys2Proof.Machine.execTeDisarm h p s
  | .teFire n => Sys2Proof.Machine.execTeFire n s
  | .tePulseEnd n => Sys2Proof.Machine.execTePulseEnd n s
  | .tbTxqRead byHost => Sys2Proof.Machine.execTbTxqRead byHost s
  | .txqOverflow => Sys2Proof.Machine.execTxqOverflow s
  | .tsArm h p => Sys2Proof.Machine.execTsArm h p s
  | .tsDisarm h p => Sys2Proof.Machine.execTsDisarm h p s
  | .captureLogWrite => Sys2Proof.Machine.execCaptureLogWrite s
  | .skeinClosed id => Sys2Proof.Machine.execSkeinClosed id s
  | .capMarkSet h p => Sys2Proof.Machine.execCapMarkSet h p s
  | .capMarkClear h p => Sys2Proof.Machine.execCapMarkClear h p s
  | .capRewind h p => Sys2Proof.Machine.execCapRewind h p s
  | .skeinNext h p => Sys2Proof.Machine.execSkeinNext h p s
  | .skeinRead h p => Sys2Proof.Machine.execSkeinRead h p s
  | .kzCompress tag job input => Sys2Proof.Machine.execKzCompress tag job input s
  | .kzDecompress tag job input => Sys2Proof.Machine.execKzDecompress tag job input s
  | .kzJobDone decompressor => Sys2Proof.Machine.execKzJobDone decompressor s
  | .kzContextTimeout => Sys2Proof.Machine.execKzContextTimeout s
  | .linkModeTimeout port => Sys2Proof.Machine.execLinkModeTimeout port s
  | .blockLock port mode => Sys2Proof.Machine.execBlockLock port mode s
  | .helloTx port => Sys2Proof.Machine.execHelloTx port s
  | .hello port m => Sys2Proof.Machine.execHello port m s
  | .helloTimeout port => Sys2Proof.Machine.execHelloTimeout port s
  | .heldOutRetry port => Sys2Proof.Machine.execHeldOutRetry port s
  | .enum port next ringVer rootUid slow => Sys2Proof.Machine.execEnum port next ringVer rootUid slow s
  | .enumTimeout next => Sys2Proof.Machine.execEnumTimeout next s
  | .enumDone count ringVer topo uids slow => Sys2Proof.Machine.execEnumDone count ringVer topo uids slow s
  | .topology topo count linkUp order slow left => Sys2Proof.Machine.execTopology topo count linkUp order slow left s
  | .admitReq station rate row => Sys2Proof.Machine.execAdmitReq station rate row s
  | .admitRsp granted free => Sys2Proof.Machine.execAdmitRsp granted free s
  | .admitRspTimeout => Sys2Proof.Machine.execAdmitRspTimeout s
  | .zimirFrameRx port etherType uncorr fcsOk f => Sys2Proof.Machine.execZimirFrameRx port etherType uncorr fcsOk f s
  | .guaranteedFrameRx f => Sys2Proof.Machine.execGuaranteedFrameRx f s
  | .skeinFrameRx f => Sys2Proof.Machine.execSkeinFrameRx f s
  | .cmdFrameRx f => Sys2Proof.Machine.execCmdFrameRx f s
  | .rspFrameRx f => Sys2Proof.Machine.execRspFrameRx f s
  | .replayReq requester first count => Sys2Proof.Machine.execReplayReq requester first count s
  | .replayNak originator first count oldest => Sys2Proof.Machine.execReplayNak originator first count oldest s
  | .gapWaitExpiry originator seq => Sys2Proof.Machine.execGapWaitExpiry originator seq s
  | .replayExpired originator seq => Sys2Proof.Machine.execReplayExpired originator seq s
  | .replayWindowExpiry seq => Sys2Proof.Machine.execReplayWindowExpiry seq s
  | .beatTx port => Sys2Proof.Machine.execBeatTx port s
  | .beatRx port m => Sys2Proof.Machine.execBeatRx port m s
  | .beatMissed port => Sys2Proof.Machine.execBeatMissed port s
  | .linkDown port => Sys2Proof.Machine.execLinkDown port s
  | .beDropped port => Sys2Proof.Machine.execBeDropped port s
  | .frameCycleEnd => Sys2Proof.Machine.execFrameCycleEnd s
  | .feHeartbeat checkOk => Sys2Proof.Machine.execFeHeartbeat checkOk s
  | .feHeartbeatMissed agrees => Sys2Proof.Machine.execFeHeartbeatMissed agrees s
  | .feFence => Sys2Proof.Machine.execFeFence s
  | .feSwitch h p => Sys2Proof.Machine.execFeSwitch h p s
  | .feReset h p => Sys2Proof.Machine.execFeReset h p s
  | .feResetDone eng pass => Sys2Proof.Machine.execFeResetDone eng pass s
  | .feResyncDone eng => Sys2Proof.Machine.execFeResyncDone eng s
  | .feSelftestStep mismatch pct => Sys2Proof.Machine.execFeSelftestStep mismatch pct s
  | .pciePerst => Sys2Proof.Machine.execPciePerst s
  | .pcieConfigRequest offset => Sys2Proof.Machine.execPcieConfigRequest offset s
  | .hostLinkUp gen width mps reversed => Sys2Proof.Machine.execHostLinkUp gen width mps reversed s
  | .hostLinkDown => Sys2Proof.Machine.execHostLinkDown s
  | .hostLinkDegraded gen width => Sys2Proof.Machine.execHostLinkDegraded gen width s
  | .hostFlr => Sys2Proof.Machine.execHostFlr s
  | .registerWrite port offset data mem => Sys2Proof.Machine.execRegisterWrite port offset data mem s
  | .wideRegisterLowRead port offset size => Sys2Proof.Machine.execWideRegisterLowRead port offset size s
  | .msixUnmask v => Sys2Proof.Machine.execMsixUnmask v s
  | .qspiRead offset words => Sys2Proof.Machine.execQspiRead offset words s
  | .qspiWrite offset data mem => Sys2Proof.Machine.execQspiWrite offset data mem s
  | .qspiStatus => Sys2Proof.Machine.execQspiStatus s
  | .dmaStart n via desc => Sys2Proof.Machine.execDmaStart n via desc s
  | .dmaPause n => Sys2Proof.Machine.execDmaPause n s
  | .dmaResume n desc => Sys2Proof.Machine.execDmaResume n desc s
  | .dmaAbort n => Sys2Proof.Machine.execDmaAbort n s
  | .dmaPaused n data => Sys2Proof.Machine.execDmaPaused n data s
  | .dmaDescriptorDone n data next => Sys2Proof.Machine.execDmaDescriptorDone n data next s
  | .dmaReadError n data => Sys2Proof.Machine.execDmaReadError n data s
  | .dmaRrdWrite n v => Sys2Proof.Machine.execDmaRrdWrite n v s
  | .deliveryEntry f => Sys2Proof.Machine.execDeliveryEntry f s
  | .dmaThresholdTimeout n => Sys2Proof.Machine.execDmaThresholdTimeout n s
  | .dmaDrainRequest => Sys2Proof.Machine.execDmaDrainRequest s
  | .dmaPausedPower n data => Sys2Proof.Machine.execDmaPausedPower n data s
  | .dmaAbortPower n data => Sys2Proof.Machine.execDmaAbortPower n data s
  | .mbxPost port mask => Sys2Proof.Machine.execMbxPost port mask s
  | .mbxReadyClear port mask => Sys2Proof.Machine.execMbxReadyClear port mask s
  | .mbxTimeout port slot => Sys2Proof.Machine.execMbxTimeout port slot s
  | .nop h p => Sys2Proof.Machine.execNop h p s
  | .ident h p => Sys2Proof.Machine.execIdent h p s
  | .regRead h p => Sys2Proof.Machine.execRegRead h p s
  | .regWrite h p => Sys2Proof.Machine.execRegWrite h p s
  | .reset h p => Sys2Proof.Machine.execReset h p s
  | .patSet h p => Sys2Proof.Machine.execPatSet h p s
  | .patGet h p => Sys2Proof.Machine.execPatGet h p s
  | .patDiscard h p => Sys2Proof.Machine.execPatDiscard h p s
  | .commitAt h p => Sys2Proof.Machine.execCommitAt h p s
  | .commitCancel h p => Sys2Proof.Machine.execCommitCancel h p s
  | .patSave h p => Sys2Proof.Machine.execPatSave h p s
  | .patSaved slot => Sys2Proof.Machine.execPatSaved slot s
  | .patLoad h p => Sys2Proof.Machine.execPatLoad h p s
  | .ringReplay h p => Sys2Proof.Machine.execRingReplay h p s
  | .icClaim mgmt => Sys2Proof.Machine.execIcClaim mgmt s
  | .icComplete mgmt src => Sys2Proof.Machine.execIcComplete mgmt src s
  | .icMaskWrite mgmt n mask => Sys2Proof.Machine.execIcMaskWrite mgmt n mask s
  | .coreDoorbell fromMgmt => Sys2Proof.Machine.execCoreDoorbell fromMgmt s
  | .interruptSourcePend src level => Sys2Proof.Machine.execInterruptSourcePend src level s
  | .diEdge input level samples => Sys2Proof.Machine.execDiEdge input level samples s
  | .qWrite q words last => Sys2Proof.Machine.execQWrite q words last s
  | .qDrop q => Sys2Proof.Machine.execQDrop q s
  | .qFlush q => Sys2Proof.Machine.execQFlush q s
  | .qStale q => Sys2Proof.Machine.execQStale q s
  | .sealSwChange opened samples => Sys2Proof.Machine.execSealSwChange opened samples s
  | .lifecycleSet h p => Sys2Proof.Machine.execLifecycleSet h p s
  | .keyInstall h p => Sys2Proof.Machine.execKeyInstall h p s
  | .keyRevoke h p => Sys2Proof.Machine.execKeyRevoke h p s
  | .authChallenge h p => Sys2Proof.Machine.execAuthChallenge h p s
  | .nonceExpiry => Sys2Proof.Machine.execNonceExpiry s
  | .authLockoutEnd => Sys2Proof.Machine.execAuthLockoutEnd s
  | .auditRecordWrite readBackOk => Sys2Proof.Machine.execAuditRecordWrite readBackOk s
  | .auditTokenRefill code => Sys2Proof.Machine.execAuditTokenRefill code s
  | .trailRead h p => Sys2Proof.Machine.execTrailRead h p s
  | .trailClear h p => Sys2Proof.Machine.execTrailClear h p s
  | .trailCleared => Sys2Proof.Machine.execTrailCleared s
  | .debugSet h p => Sys2Proof.Machine.execDebugSet h p s
  | .metroId h p => Sys2Proof.Machine.execMetroId h p s
  | .updateBegin h p => Sys2Proof.Machine.execUpdateBegin h p s
  | .fwChrysalisReady => Sys2Proof.Machine.execFwChrysalisReady s
  | .updateWrite h p => Sys2Proof.Machine.execUpdateWrite h p s
  | .updateVerify h p => Sys2Proof.Machine.execUpdateVerify h p s
  | .fwVerifyDone => Sys2Proof.Machine.execFwVerifyDone s
  | .updateActivate h p => Sys2Proof.Machine.execUpdateActivate h p s
  | .logicPowerOnReset => Sys2Proof.Machine.execLogicPowerOnReset s
  | .castOn memoryOk feA feB => Sys2Proof.Machine.execCastOn memoryOk feA feB s
  | .resetNAssert railLost => Sys2Proof.Machine.execResetNAssert railLost s
  | .fieldDiePowerUp die => Sys2Proof.Machine.execFieldDiePowerUp die s
  | .isoLanesLocked die => Sys2Proof.Machine.execIsoLanesLocked die s
  | .isoLaneLost die lane => Sys2Proof.Machine.execIsoLaneLost die lane s
  | .isoLaneRetrained die lane => Sys2Proof.Machine.execIsoLaneRetrained die lane s
  | .pwrState h p => Sys2Proof.Machine.execPwrState h p s
  | .bindOff h p => Sys2Proof.Machine.execBindOff h p s
  | .bindOffDone => Sys2Proof.Machine.execBindOffDone s
  | .hlogRead h p => Sys2Proof.Machine.execHlogRead h p s
  | .wake src => Sys2Proof.Machine.execWake src s
  | .sentinelSample samples => Sys2Proof.Machine.execSentinelSample samples s
  | .rtcAlarm => Sys2Proof.Machine.execRtcAlarm s
  | .mgWake => Sys2Proof.Machine.execMgWake s
  | .mgRead block reg index => Sys2Proof.Machine.execMgRead block reg index s
  | .coreWatchdog mgmt => Sys2Proof.Machine.execCoreWatchdog mgmt s
  | .sensorUpdate vals => Sys2Proof.Machine.execSensorUpdate vals s
  | .sensorAlarmClear die => Sys2Proof.Machine.execSensorAlarmClear die s
  | .mdScrub r => Sys2Proof.Machine.execMdScrub r s
  | .hlogFlush => Sys2Proof.Machine.execHlogFlush s
  | .vaonLost => Sys2Proof.Machine.execVaonLost s
  | .powerStateChanged => Sys2Proof.Machine.execPowerStateChanged s
  | .debugAttached => Sys2Proof.Machine.execDebugAttached s
  | .announceReceiptTimeout dom => Sys2Proof.Machine.execAnnounceReceiptTimeout dom s
  | .syncCopyLost dom => Sys2Proof.Machine.execSyncCopyLost dom s

end Sys2Proof.Machine
end

