-- ==== Sys2Proof/Safety.lean ====
section
/-!
DEFINITION. The terms in which statements about the block are made: a command that completes, a command of the mailbox that
its transport and its header let through, its answer, what a command may leave changed, and what no step undoes.
-/
namespace Sys2Proof.Machine

/-- The command completes at `s`, in a next state of which `Q` holds. -/
def Completes (c : Instr) (s : State) (Q : State → Prop) : Prop := ∃ t, exec c s = .next t ∧ Q t

/-! ### Mailbox commands -/

/-- The state in which the body of a mailbox command runs: taken from its transport (R456–R461). -/
def taken (op : Nat) (h : CmdHdr) (p : Bytes) (s : State) : State := (takeCmd s op h p).1

/-- The outstanding command to which a response belongs (R466). -/
def State.outOf (s : State) (h : CmdHdr) : Option Outst := s.mbx.out.find? (isOut h.via h.slot h.tag)

/-- A live outstanding command whose span has room for `len` bytes of response payload (R471). -/
def State.answerable (s : State) (h : CmdHdr) (len : Nat) : Bool :=
  match s.outOf h with
  | some o => !o.dead && len ≤ 256 * o.span - 16
  | none => false

/-- The transport takes the command, its header is good, and it is for this station (R459–R463): what is left are the
checks of its payload and its own meaning. `len` is the length of the response payload to come. -/
def Accepted (op : Nat) (h : CmdHdr) (p : Bytes) (s : State) (len : Nat) : Bool :=
  (takeCmd s op h p).2 && (headerAns (taken op h p s) h).isNone && (remoteTo (taken op h p s) h).isNone &&
    (taken op h p s).answerable h len

/-- The response that the part has written (R464): status, DETAIL and payload, with the pattern epoch in force. -/
def Answers (t : State) (op : Nat) (h : CmdHdr) (status detail : Nat) (pay : Bytes) : Prop :=
  t.mbx.last = some ⟨h.via, h.slot, op, status, h.tag, t.flt.rows.epoch, detail, pay⟩

/-- The command may write to the staged pattern (R46, R48, R473). -/
def MayStage (h : CmdHdr) (s : State) : Bool :=
  if s.mbx.staged.isSome then s.mbx.stageOwner = viaTag h.via else !s.isBarred .staging (viaTag h.via)

/-! ### What is left unchanged -/

/-- Only the interrupt controller, the host vectors and the queues may differ: what reporting an event changes. -/
def OnlyReports (s t : State) : Prop := t = { s with ic := t.ic, host := t.host, queues := t.queues }

/-- What answering a command changes besides: the response, the outstanding commands and, for the ring, the egress. -/
def OnlyAnswers (s t : State) : Prop :=
  t = { s with ic := t.ic, host := t.host, queues := t.queues, ring := t.ring,
               mbx := { s.mbx with pcie := t.mbx.pcie, qspi := t.mbx.qspi, out := t.mbx.out, last := t.mbx.last } }

/-- A command has put `p` into the staged pattern: its transport holds the staging lease, taken or renewed, and nothing else
but the answer follows (R46, R472, R473). -/
def Stages (h : CmdHdr) (p : Pat) (s t : State) : Prop :=
  OnlyAnswers { s with
    mbx := { s.mbx with staged := some p, stageOwner := viaTag h.via }
    leases := { s.leases with faulty := t.leases.faulty, renewed := t.leases.renewed } } t

/-- What handing an audit record to the intake changes besides (R539–R543): the buckets and the counters of the intake. -/
def OnlyAudit (s t : State) : Prop :=
  t = { s with ic := t.ic, host := t.host, queues := t.queues,
               sec := { s.sec with buckets := t.sec.buckets, suppressed := t.sec.suppressed, overflow := t.sec.overflow,
                                   lostFull := t.sec.lostFull, lostIntake := t.sec.lostIntake, lostPower := t.sec.lostPower } }

/-- What declaring a field fault may change: clusters and channels, produced rows, FLT_WFLAST, skeins, the flags of a running
measurement, leases. -/
def OnlyFault (s t : State) : Prop :=
  t = { s with
    flt := { s.flt with clusters := t.flt.clusters, chans := t.flt.chans, dies := t.flt.dies, slices := t.flt.slices,
                        recent := t.flt.recent, wfLast := t.flt.wfLast }
    cap := { s.cap with skeins := t.cap.skeins }, cal := { s.cal with running := t.cal.running }
    leases := t.leases, ic := t.ic, host := t.host, queues := t.queues }

/-- FLT_WFLAST after a declaration at the row in production (R95, R99); unchanged while no row stream is open. -/
def Declared (s t : State) (kind scope first : Nat) : Prop :=
  t.flt.wfLast =
    if s.rowOpen then
      ⟨kind, scope, onsetRow s.flt.rows.row first, s.flt.rows.row, true, sat 32767 (s.flt.wfLast.count + 1)⟩
    else s.flt.wfLast

/-- Source `n` has fired (R495, R500, R501, R505): it pends; one that is active is active-and-pending, or only counted. A source
routed to the host sets its IC_HPEND bit, and the rise of that bit is a source event of its vector. Nothing else changes. -/
def Fired (s t : State) (n : Nat) : Prop :=
  let act := s.ic.activeC = n ∨ s.ic.activeM = n
  let host := (s.route n).testBit 3
  t = { s with ic := { s.ic with pend := t.ic.pend, actPend := t.ic.actPend, counts := t.ic.counts, hpend := t.ic.hpend }
               host := t.host } ∧
  (∀ m ≠ n, t.ic.pend.testBit m = s.ic.pend.testBit m ∧ t.ic.actPend.testBit m = s.ic.actPend.testBit m ∧
    Tbl.get 0 t.ic.counts m = Tbl.get 0 s.ic.counts m ∧ t.ic.hpend.testBit m = s.ic.hpend.testBit m) ∧
  (srcCounted n = true → Tbl.get 0 t.ic.counts n = sat 255 (Tbl.get 0 s.ic.counts n + 1) ∧
    (¬act → t.ic.pend.testBit n = true) ∧ t.ic.actPend = s.ic.actPend) ∧
  (srcCounted n = false → t.ic.counts = s.ic.counts ∧ (act → t.ic.actPend.testBit n = true ∧ t.ic.pend = s.ic.pend) ∧
    (¬act → t.ic.pend.testBit n = true ∧ t.ic.actPend = s.ic.actPend)) ∧
  t.ic.hpend.testBit n = (s.ic.hpend.testBit n || host) ∧
  t.host = (if host && !s.ic.hpend.testBit n then (vecRaw s (18 + s.route n % 8)).host else s.host)

/-! ### Time -/

/-- As time passes nothing but the bases moves: the time unit is out of reset, no time event is armed, and no frame waits at an
egress. -/
def Undisturbed (s : State) : Prop := s.timeRuns = true ∧ (∀ e ∈ s.time.events, e.2.st ≠ 1) ∧ s.ring.egress = []

/-- No armed time event has come to its time. -/
def NoneDue (s : State) : Prop := ∀ n, (s.tev n).st = 1 → (s.base (s.tev n).base).val < (s.tev n).next

/-! ### The ring's ports -/

/-- A HELLO has left `s` by port `p`, which reads `q` now; nothing else has changed (R353, R374). -/
def HelloOut (p : Nat) (q : Port) (s t : State) : Prop :=
  ∃ f, f.kind = 6 ∧ f.subtype = 1 ∧ f.dst = 0xFE ∧ f.payload = helloBytes s p ∧
    t = { s.updPort p (fun _ => q) with ring := { (s.updPort p fun _ => q).ring with
      beSeq := (s.ring.beSeq + 1) % 2 ^ 32, egress := ⟨p, f, true⟩ :: s.ring.egress } }

/-- Neither port wraps, and both carry the ring. -/
def State.bothWays (s : State) : Bool := [0, 1].all fun p => !(s.port p).wrap && s.portRole p = 0

/-- The hops as the root knows them: of the last TOPOLOGY that it has sent (R382). -/
def State.hopsNow (s : State) : Nat := match s.ring.nextTopo with | some (_, l, _) => l | none => s.ring.linkUp

/-- The ledger limit of a ring in this order with these hops, as the root, which learns of the hops in mode 2 (R378, R399). -/
def State.ledgerAfter (s : State) (slow : Nat) (order : List Nat) (linkUp : Nat) : Nat :=
  (learnModes { s with ring := { s.ring with order := order, linkUp := linkUp, station := 0, crossed := false } } slow).ledgerLimit

/-- A MGMT frame waits at an egress before all that waited (R374). -/
def SendsMgmt (s t : State) (dst subtype : Nat) (pay : Bytes) : Prop :=
  ∃ e, t.ring.egress = e :: s.ring.egress ∧ e.fcsOk = true ∧ e.port < 2 ∧ e.frame.kind = 6 ∧ e.frame.dst = dst ∧
    e.frame.subtype = subtype ∧ e.frame.payload = pay

/-- Frame `f` goes out of port `p` of `s`, giving `t`; where that port wraps or has another role it turns, once, to the other one
with WRAPPED set, and else it is dropped and counted (R365, R381). -/
def GoesOut (p : Nat) (f : ZFrame) (ok : Bool) (s t : State) : Prop :=
  let shut := fun n => (s.port n).wrap = true ∨ s.portRole n ≠ 0
  (¬shut p → t = { s with ring := { s.ring with egress := ⟨p, f, ok⟩ :: s.ring.egress } }) ∧
  (shut p → (f.flags.getLsbD 1 = true ∨ shut (1 - p)) →
    t = { s with ring := { s.ring with drops := Tbl.upd 0 s.ring.drops 4 (· + 1) } }) ∧
  (shut p → f.flags.getLsbD 1 = false → ¬shut (1 - p) →
    t = { s with ring := { s.ring with egress := ⟨1 - p, zSeal { f with flags := f.flags ||| 2 }, ok⟩ :: s.ring.egress } })

/-! ### DMA channels -/

/-- Channel `n` alone has changed, and host memory holds `mem`. -/
def OnlyDma (n : Nat) (mem : Tbl Byte) (s t : State) : Prop :=
  OnlyReports { s with dma := t.dma, hostMem := mem } t ∧ ∀ m ≠ n, t.dmaCh m = s.dmaCh m

/-- Channel `n` has stopped with a RESULT; host memory holds `mem`, and its posted Kilzar jobs are withdrawn (R418, R43). -/
def DmaStops (n result : Nat) (mem : Tbl Byte) (s t : State) : Prop :=
  OnlyReports (kzWithdraw { s with dma := t.dma, hostMem := mem } (0x30 + n)) t ∧ (∀ m ≠ n, t.dmaCh m = s.dmaCh m) ∧
    (t.dmaCh n).st = .stopped ∧ (t.dmaCh n).result = result ∧ (t.dmaCh n).wr = (s.dmaCh n).wr

/-! ### What no step undoes -/

/-- Host memory stays in its canonical form, whatever the block has written into it. -/
def HostMemWf (s : State) : Prop := Tbl.wf 0 s.hostMem = true

/-- One-time state: the BLANK fuse stays programmed, and neither the count of SEAL_BREAK fuses nor the lowest security
version allowed falls below what it has reached (R526, R532, R550). -/
def FuseFloor (breaks version : Nat) (s : State) : Prop :=
  s.sec.blankFuse = true ∧ breaks ≤ s.sec.fuses ∧ version ≤ s.sec.secMin

end Sys2Proof.Machine
end

