-- ==== Sys2Proof/Certificates/Slice0/Obligations.lean ====
section
/-!
DEFINITION. The statements about the block: what each command does to the state that the spec names, what it leaves alone,
and what no step undoes. Where a statement rests on a reading or a choice of the model its docstring names the log entry.
-/
open Sys2Proof Sys2Proof.Machine

/-! ### The queue, the clock and reset -/

/-- A step runs the command at the front of the queue, with the rest of the queue waiting. With no command waiting a step is one
CLK_SYS tick, where the time unit is out of reset (R232): every base that is not being slewed advances by its increment, one
that is being slewed forward by as much more as its slew then lacks less (R234, R236), and where no time event is armed and no
frame waits at an egress nothing else changes. The tick in place of idling is the model's choice (notes/assumptions/1.md). -/
def Obligations.StepRunsFrontCommand : Prop :=
  (∀ (c : Instr) (rest : List Instr) (s : State), s.pending = c :: rest → step s = exec c { s with pending := rest }) ∧
  (∀ s : State, s.pending = [] → s.timeRuns = false → step s = .next s) ∧
  (∀ s : State, s.pending = [] → s.timeRuns = true → (∀ e ∈ s.time.events, e.2.st ≠ 1) → s.ring.egress = [] →
    ∃ t, step s = .next t ∧
      t = { s with time := { s.time with b0 := t.base 0, b1 := t.base 1, b2 := t.base 2, b3 := t.base 3 } } ∧
      (∀ n < 4, (s.base n).slewRem = 0 → t.base n = { s.base n with val := (s.base n).val + (s.base n).incr, slewFrac := 0 }) ∧
      (∀ n < 4, 0 ≤ (s.base n).slewRem →
        (t.base n).val + (t.base n).slewRem.toNat = (s.base n).val + (s.base n).incr + (s.base n).slewRem.toNat) ∧
      (∀ n < 4, t.base n = { s.base n with
        val := (t.base n).val, slewRem := (t.base n).slewRem, slewFrac := (t.base n).slewFrac }))

/-- Every command of the table completes in every state, and leaves the queue of waiting commands as it was. -/
def Obligations.EveryCommandCompletes : Prop :=
  ∀ (c : Instr) (s : State), Completes c s fun t => t.pending = s.pending

/-- What the spec states of the state after reset: the increments (R234), the factory pattern and live map, the states of the
bases (R240), no response and nothing posted, an empty queue (R516), the event queues' first stale limits. -/
def Obligations.ResetValues : Prop :=
  State.reset.pending = [] ∧
  (∀ n < 4, (State.reset.base n).incr = 0x000A00000000) ∧
  ((State.reset.base 0).st = .unset ∧ (State.reset.base 1).st = .unset) ∧
  (∀ cl, (State.reset.cluster cl).slots = [0, 1, 2, 3, 4, 5, 6, 7] ∧ (State.reset.cluster cl).spare = 8 ∧
    (State.reset.cluster cl).mapSeq = 0) ∧
  (∀ sid idx, State.reset.pat.str sid idx = defStruct sid) ∧
  State.reset.ic.presentC = 255 ∧ State.reset.ic.presentM = 255 ∧
  (∀ q, (State.reset.queue q).items = [] ∧ (State.reset.queue q).staleCfg = qStaleReset q) ∧
  State.reset.mbx.out = [] ∧ State.reset.mbx.staged = none ∧ State.reset.flt.rows.epoch = 0

/-- No step leaves host memory outside its canonical form: what the block writes there never makes two equal memories
different data (the model's own form, notes/assumptions/5.md). -/
def Obligations.HostMemoryStaysCanonical : Prop :=
  ∀ s s' : State, HostMemWf s → step s = .next s' → HostMemWf s'

/-- No step undoes what fuses hold: once the BLANK fuse is programmed it stays so, and neither the count of SEAL_BREAK fuses
(4096 of them) nor the lowest allowed security version falls below a value it has reached. -/
def Obligations.FusesNeverFall : Prop :=
  ∀ (breaks version : Nat) (s s' : State), breaks ≤ 4096 → FuseFloor breaks version s → step s = .next s' →
    FuseFloor breaks version s'

/-- Both invariants hold of the state after reset. -/
def Obligations.InvariantsHoldAtReset : Prop := HostMemWf State.reset ∧ FuseFloor 0 0 State.reset

/-! ### Excitation and field faults (chapter 02) -/

/-- EXC_SHORT and SENSE_REVERSED park the driver at once, set their LIVE and LATCHED bits and hold WFT (R86, R91); a sense
line that opens or shorts leaves the driver in FALLBACK (R89). Each declares its fault back to the first row that its detector
saw out of band, a short to the first row that began in current limit (R95), and leaves every other cluster alone. A short of a
row in which none began in limit is dated to the row in production, the model's choice (notes/assumptions/45.md). -/
def Obligations.DriverFaultsParkOrFallBack : Prop :=
  (∀ (cl kind : Nat) (s : State), kind < 3 → (s.cluster cl).drv.st.driving = true → (s.die (clDie cl)).powered = true →
    (s.cluster cl).drv.retrying = false →
    Completes (.excShort cl kind) s fun t => OnlyFault s t ∧
      (t.cluster cl).drv = { (s.cluster cl).drv.raise kind with
        st := .shortParked, wftHold := true, limit := false, inLimit := false, restoring := false } ∧
      (∀ c ≠ cl, t.cluster c = s.cluster c) ∧
      Declared s t (0x2001 + kind) (0x8000 + cl)
        (if (s.cluster cl).drv.limit then (s.cluster cl).drv.limFrom else s.flt.rows.row)) ∧
  (∀ (cl : Nat) (s : State), s.fourWire cl = false →
    ((s.cluster cl).drv.st = .regulating ∨ (s.cluster cl).drv.st = .ramp) →
    Completes (.senseReversed cl) s fun t => OnlyFault s t ∧
      (t.cluster cl).drv = { (s.cluster cl).drv.raise 6 with
        st := .reversedParked, wftHold := true, limit := false, inLimit := false, retrying := false, restoring := false } ∧
      (∀ c ≠ cl, t.cluster c = s.cluster c) ∧
      Declared s t 0x2012 (0x8000 + cl) (s.flt.rows.row - histRun 128 (s.cluster cl).drv.histRev)) ∧
  (∀ (cl : Nat) (neg : Bool) (s : State), s.fourWire cl = false →
    ((s.cluster cl).drv.st = .ramp ∨ (s.cluster cl).drv.st = .regulating ∨ (s.cluster cl).drv.st = .fallback) →
    (s.cluster cl).drv.live.testBit (if neg then 4 else 3) = false →
    Completes (.senseOpen cl neg) s fun t => OnlyFault s t ∧
      (t.cluster cl).drv = { (s.cluster cl).drv.raise (if neg then 4 else 3) with st := .fallback, retrying := false } ∧
      (∀ c ≠ cl, t.cluster c = s.cluster c) ∧
      Declared s t (if neg then 0x2011 else 0x2010) (0x8000 + cl)
        (s.flt.rows.row - histRun 128 (s.cluster cl).drv.histOpen)) ∧
  (∀ (cl : Nat) (s : State), s.fourWire cl = false →
    ((s.cluster cl).drv.st = .ramp ∨ (s.cluster cl).drv.st = .regulating ∨ (s.cluster cl).drv.st = .fallback) →
    (s.cluster cl).drv.live.testBit 5 = false →
    Completes (.senseShort cl) s fun t => OnlyFault s t ∧
      (t.cluster cl).drv = { (s.cluster cl).drv.raise 5 with st := .fallback, retrying := false } ∧
      (∀ c ≠ cl, t.cluster c = s.cluster c) ∧
      Declared s t 0x2014 (0x8000 + cl) (s.flt.rows.row - histRun 128 (s.cluster cl).drv.histShort))

/-- SIGNAL_OPEN marks back to the onset row (R95, R96): in every produced row N that is still held with O ≤ N < D the
channel's S32 and L32 flag bytes carry WFT, and no row outside that interval changes; the channel is open on that line. The onset
comes from the detector's history: each row shifts its outcome in, and the run at its newest end is the fault's. -/
def Obligations.SignalOpenMarksBackToOnset : Prop :=
  (∀ (h : Nat) (out : Bool), h < 2 ^ 128 → histRow h out < 2 ^ 128 ∧ (histRow h out).testBit 0 = out ∧
    ∀ k < 127, (histRow h out).testBit (k + 1) = h.testBit k) ∧
  (∀ h : Nat, histRun 128 h ≤ 128 ∧ (∀ k < histRun 128 h, h.testBit k = true) ∧
    (histRun 128 h < 128 → h.testBit (histRun 128 h) = false)) ∧
  (∀ (ch : Nat) (neg : Bool) (s : State), ch < 256 → s.openDetector ch = true → s.rowOpen = true →
    (if neg then (s.chan ch).openN else (s.chan ch).openP) = false →
    let first := s.flt.rows.row - histRun 128 (s.chan ch).hist
    Completes (.signalOpen ch neg) s fun t => OnlyFault s t ∧
      (if neg then (t.chan ch).openN else (t.chan ch).openP) = true ∧ (t.chan ch).latched = true ∧
      (∀ c ≠ ch, t.chan c = s.chan c) ∧ (∀ cl, t.cluster cl = s.cluster cl) ∧
      t.flt.recent.length = s.flt.recent.length ∧
      (∀ (n : Nat) (r r' : RowRec), s.flt.recent[n]? = some r → t.flt.recent[n]? = some r' →
        r'.row = r.row ∧
        (onsetRow s.flt.rows.row first ≤ r.row ∧ r.row < s.flt.rows.row →
          (Tbl.get 0 r'.s32 ch).testBit 3 = true ∧ (Tbl.get (0, 0) r'.l32 ch).2.testBit 3 = true ∧
          ∀ c ≠ ch, Tbl.get 0 r'.s32 c = Tbl.get 0 r.s32 c) ∧
        (r.row < onsetRow s.flt.rows.row first ∨ s.flt.rows.row ≤ r.row → r' = r)) ∧
      Declared s t (if neg then 0x2021 else 0x2020) ch first)

/-- The driver's sequence (R68, R69, R71, R91): a restart checks the polarity and counts a retry; a passed check ramps, a failed
one parks the driver REVERSED with the fault declared; the ramp's end regulates. A driver in current limit shows LIMIT in
whatever part of its sequence it is, and parks again in a restart after a short (R63, R91); a driver whose sense fault has gone
takes back six-wire operation at the next boundary (R90). -/
def Obligations.DriverSequence : Prop :=
  (∀ (cl : Nat) (s : State), (s.cluster cl).drv.st.driving = true →
    Completes (.excCurrentLimit cl) s fun t =>
      t = { s with flt := { s.flt with clusters := t.flt.clusters } } ∧ (∀ c ≠ cl, t.cluster c = s.cluster c) ∧
      (t.cluster cl).drv.code = (if (s.cluster cl).drv.retrying then 7 else 6) ∧
      ((s.cluster cl).drv.retrying = false →
        t.cluster cl = { s.cluster cl with drv := { (s.cluster cl).drv with inLimit := true } })) ∧
  (∀ (cl : Nat) (s : State),
    ((s.cluster cl).drv.st = .shortParked ∨ ((s.cluster cl).drv.st = .thermalParked ∧ s.driverCool cl = true)) →
    s.pat.f sExc cl 5 1 ≠ 0 →
    Completes (.excRetry cl) s fun t =>
      t = { s with flt := { s.flt with clusters := t.flt.clusters }, ic := t.ic, host := t.host, queues := t.queues } ∧
      (t.cluster cl).drv = { (s.cluster cl).drv with
        st := .check, retries := sat 255 ((s.cluster cl).drv.retries + 1),
        retrying := decide ((s.cluster cl).drv.st = .shortParked) } ∧
      (∀ c ≠ cl, t.cluster c = s.cluster c)) ∧
  (∀ (cl : Nat) (ok : Bool) (s : State), (s.cluster cl).drv.st = .check →
    Completes (.polarityCheckDone cl ok) s fun t => OnlyFault s t ∧ (∀ c ≠ cl, t.cluster c = s.cluster c) ∧
      (ok = true ∨ s.fourWire cl = true → (t.cluster cl).drv = { (s.cluster cl).drv with st := .ramp }) ∧
      (ok = false → s.fourWire cl = false →
        (t.cluster cl).drv = { (s.cluster cl).drv.raise 6 with
          st := .reversedParked, wftHold := true, retrying := false, limit := false, inLimit := false, restoring := false } ∧
        Declared s t 0x2012 (0x8000 + cl) s.flt.rows.row)) ∧
  (∀ (cl : Nat) (s : State), (s.cluster cl).drv.st = .ramp →
    Completes (.excRampDone cl) s fun t =>
      t = { s with flt := { s.flt with clusters := t.flt.clusters } } ∧ (∀ c ≠ cl, t.cluster c = s.cluster c) ∧
      (t.cluster cl).drv.st = s.operating cl ∧ (t.cluster cl).drv.retrying = false ∧
      (t.cluster cl).drv.latched = (s.cluster cl).drv.latched) ∧
  (∀ (cl : Nat) (s : State), (s.cluster cl).drv.st = .fallback → (s.cluster cl).drv.senseBad = true →
    Completes (.senseRestored cl) s fun t =>
      t = { s with flt := { s.flt with clusters := t.flt.clusters }, ic := t.ic, host := t.host, queues := t.queues } ∧
      (t.cluster cl).drv.restoring = true ∧ (t.cluster cl).drv.senseBad = false ∧ (t.cluster cl).drv.st = .fallback ∧
      (∀ c ≠ cl, t.cluster c = s.cluster c))

/-- A clamp, an overload and their ends (R73–R75, R90, R612): the clamp marks its channel and makes UNS of its cluster's
other channels in the row in production; an overloaded slice saturates until its detector clears; a restored signal line
settles for L rows. A pin above its rating is latched (R83). -/
def Obligations.ClampsAndOverloads : Prop :=
  (∀ (ch : Nat) (s : State), ch < 256 → (s.die (chDie ch)).powered = true →
    Completes (.clamp ch) s fun t =>
      t = { s with flt := { s.flt with chans := t.flt.chans }, ic := t.ic, host := t.host, queues := t.queues } ∧
      (t.chan ch) = { s.chan ch with clampNow := true, latched := true } ∧
      (∀ c ≠ ch, c / 8 = ch / 8 → (t.chan c) = { s.chan c with unsEnd := Nat.max (s.chan c).unsEnd (s.flt.rows.row + 1) }) ∧
      (∀ c, c / 8 ≠ ch / 8 → t.chan c = s.chan c)) ∧
  (∀ (sl : Nat) (neg : Bool) (s : State),
    Completes (.modOverloadActive sl neg) s fun t =>
      t = { s with flt := { s.flt with slices := t.flt.slices } } ∧
      t.slice sl = { s.slice sl with ovl := if neg then 2 else 1 } ∧ (∀ x ≠ sl, t.slice x = s.slice x)) ∧
  (∀ (sl : Nat) (s : State), s.rowOpen = true → ((s.slice sl).ovl = 1 ∨ (s.slice sl).ovl = 2) →
    Completes (.modOverloadClear sl) s fun t =>
      t = { s with flt := { s.flt with slices := t.flt.slices } } ∧
      t.slice sl = { s.slice sl with ovl := (s.slice sl).ovl + 2 } ∧ (∀ x ≠ sl, t.slice x = s.slice x)) ∧
  (∀ (ch : Nat) (s : State), ((s.chan ch).openP || (s.chan ch).openN) = true →
    Completes (.signalRestored ch) s fun t =>
      t = { s with flt := { s.flt with chans := t.flt.chans }, ic := t.ic, host := t.host, queues := t.queues } ∧
      (t.chan ch).openP = false ∧ (t.chan ch).openN = false ∧
      (t.chan ch).unsEnd = Nat.max (s.chan ch).unsEnd (s.flt.rows.row + s.clL (ch / 8)) ∧
      (∀ c ≠ ch, t.chan c = s.chan c)) ∧
  (∀ (cl : Nat) (s : State), (s.die (clDie cl)).powered = true →
    Completes (.pinOvervoltage cl) s fun t =>
      t = { s with flt := { s.flt with clusters := t.flt.clusters }, ic := t.ic, host := t.host, queues := t.queues } ∧
      (t.cluster cl) = { s.cluster cl with drv := (s.cluster cl).drv.raise 7 } ∧ (∀ c ≠ cl, t.cluster c = s.cluster c))

/-- The field supplies (R84, R85): a reversed supply leaves the die unpowered with its drivers parked; an out-of-range one
is declared with the die's scope; back in range it lasts to the end of the row in production; a collapse stops the die. -/
def Obligations.FieldSupplyFaults : Prop :=
  (∀ (d : Die) (s : State),
    Completes (.vfReversed d) s fun t => OnlyFault { s with auxs := t.auxs } t ∧ (∀ x ≠ d, t.aux x = s.aux x) ∧
      (t.die d).reversed = true ∧ (t.die d).powered = false ∧ (∀ cl ∈ dieClusters d, (t.cluster cl).drv.st = .parked) ∧
      (∀ x ≠ d, t.die x = s.die x) ∧ (∀ cl, clDie cl ≠ d → t.cluster cl = s.cluster cl)) ∧
  (∀ (d : Die) (s : State), (s.die d).powered = true → (s.die d).outRange = false → (s.die d).stopRow = none →
    Completes (.vfOutOfRange d) s fun t => OnlyFault s t ∧
      (t.die d).outRange = true ∧ (t.die d).powered = true ∧ (∀ x ≠ d, t.die x = s.die x) ∧
      (∀ cl, t.cluster cl = s.cluster cl) ∧ Declared s t 0x2041 (0x9000 + d) (s.flt.rows.row - histRun 128 (s.die d).hist)) ∧
  (∀ (d : Die) (s : State), (s.die d).outRange = true → (s.die d).powered = true → s.rowOpen = true →
    Completes (.vfInRange d) s fun t =>
      t = { s with flt := { s.flt with dies := t.flt.dies } } ∧
      t.die d = { s.die d with rangeBack := true, railsOk := true, reversed := false, stopRow := none } ∧ (∀ x ≠ d, t.die x = s.die x)) ∧
  (∀ (d : Die) (s : State), (s.die d).powered = true → (s.die d).outRange = false →
    Completes (.vfCollapse d) s fun t => OnlyFault { s with auxs := t.auxs } t ∧ (∀ x ≠ d, t.aux x = s.aux x) ∧
      (t.die d).powered = false ∧ (t.die d).stopRow = some s.flt.rows.row ∧
      (∀ cl ∈ dieClusters d, (t.cluster cl).drv.st = .parked) ∧ (∀ x ≠ d, t.die x = s.die x))

/-! ### TEDS (R77–R82) -/

/-- TEDS_SCAN records who scans the bus of a cluster and answers OK (R79). TEDS_SCAN_DONE, on a powered die, ends the scan of
that cluster alone: the cache takes what was read, or stays as it was where the bus was faulty at the start (R82). TEDS_READ
answers the ROM that TEDS_MAP names and, from the node in the cache, its validity, the proposals of R80 where its checksum is
good and 0 where it is not (R79), and its bytes; where no such node was read every byte after the ROM is 0, the model's reading
of the reply (notes/assumptions/15.md). -/
def Obligations.TedsScanFillsCache : Prop :=
  (∀ (h : CmdHdr) (cl : Byte) (s : State), Accepted 0x0200 h [cl] s 0 = true → cl.toNat < 32 →
    Tbl.get 0 s.pm.tedsScan cl.toNat = 0 →
    Completes (.tedsScan h [cl]) s fun t => Answers t 0x0200 h 0 0 [] ∧ OnlyAnswers { s with pm := t.pm } t ∧
      t.pm = { s.pm with tedsScan := t.pm.tedsScan } ∧
      Tbl.get 0 t.pm.tedsScan cl.toNat = viaTag h.via ∧
      ∀ c ≠ cl.toNat, Tbl.get 0 t.pm.tedsScan c = Tbl.get 0 s.pm.tedsScan c) ∧
  (∀ (cl : Nat) (nodes : Option (List TedsNode)) (s : State), Tbl.get 0 s.pm.tedsScan cl ≠ 0 →
    (s.die (clDie cl)).powered = true →
    Completes (.tedsScanDone cl nodes) s fun t => OnlyReports { s with pm := t.pm } t ∧
      t.pm = { s.pm with teds := t.pm.teds, tedsScan := t.pm.tedsScan } ∧
      Tbl.get [] t.pm.teds cl = nodes.getD (Tbl.get [] s.pm.teds cl) ∧ Tbl.get 0 t.pm.tedsScan cl = 0 ∧
      ∀ c ≠ cl, Tbl.get [] t.pm.teds c = Tbl.get [] s.pm.teds c ∧ Tbl.get 0 t.pm.tedsScan c = Tbl.get 0 s.pm.tedsScan c) ∧
  (∀ (h : CmdHdr) (cl pos : Byte) (s : State), cl.toNat < 32 → pos.toNat < 8 →
    Accepted 0x0201 h [cl, pos] s 40 = true → s.tedsNode s.pat cl.toNat pos.toNat = none →
    Completes (.tedsRead h [cl, pos]) s fun t => OnlyAnswers s t ∧
      Answers t 0x0201 h 0 0 (slice (s.pat.str sTedsMap cl.toNat) (8 * pos.toNat) 8 ++ zeros 32)) ∧
  (∀ (h : CmdHdr) (cl pos : Byte) (n : TedsNode) (s : State), cl.toNat < 32 → pos.toNat < 8 →
    s.tedsNode s.pat cl.toNat pos.toNat = some n →
    Accepted 0x0201 h [cl, pos] s (40 + n.bytes.length) = true →
    let c := fun k => if n.checkOk then (n.coeffs.getD k 0).toNat else 0
    Completes (.tedsRead h [cl, pos]) s fun t => OnlyAnswers s t ∧
      Answers t 0x0201 h 0 0 (slice (s.pat.str sTedsMap cl.toNat) (8 * pos.toNat) 8 ++
        le 1 (1 + 2 * b2n n.checkOk + 4 * b2n n.supported) ++
        le 1 (if n.checkOk then nodeAmp n (s.excMode cl.toNat) else 0) ++ le 1 (if n.checkOk then nodeGain n else 0) ++ zeros 1 ++
        (le 4 (c 0) ++ le 4 (c 1) ++ le 4 (c 2) ++ le 4 (c 3) ++ le 4 (c 4) ++ le 4 (c 5)) ++
        le 2 n.bytes.length ++ zeros 2 ++ n.bytes))

/-- TEDS_APPLY copies what the cache proposes into the staged pattern (R80, R81): the AMPLITUDE of the cluster, the gain code of
one position, or the seed coefficients of its node; no other structure of the staged pattern changes. -/
def Obligations.TedsApplyStagesProposals : Prop :=
  (∀ (h : CmdHdr) (cl : Byte) (s : State), Accepted 0x0202 h [cl, 0, 1, 0] s 0 = true → cl.toNat < 32 → s.isSealed = false →
    MayStage h s = true → s.clusterAmplitude s.stageBase cl.toNat ≠ 0 →
    Completes (.tedsApply h [cl, 0, 1, 0]) s fun t => Answers t 0x0202 h 0 0 [] ∧
      Stages h (s.stageBase.setStr sExc cl.toNat
        (putFld (s.stageBase.str sExc cl.toNat) 2 1 (s.clusterAmplitude s.stageBase cl.toNat))) s t) ∧
  (∀ (h : CmdHdr) (cl : Byte) (pos : Nat) (n : TedsNode) (s : State), pos < 8 →
    Accepted 0x0202 h [cl, BitVec.ofNat 8 (2 ^ pos), 2, 0] s 0 = true → cl.toNat < 32 → s.isSealed = false →
    MayStage h s = true → s.tedsNode s.stageBase cl.toNat pos = some n → nodeGood n = true →
    Completes (.tedsApply h [cl, BitVec.ofNat 8 (2 ^ pos), 2, 0]) s fun t => Answers t 0x0202 h 0 0 [] ∧
      Stages h (s.stageBase.setStr sSlc cl.toNat (putFld (s.stageBase.str sSlc cl.toNat) pos 1 (nodeGain n))) s t) ∧
  (∀ (h : CmdHdr) (cl : Byte) (pos : Nat) (n : TedsNode) (s : State), pos < 8 →
    Accepted 0x0202 h [cl, BitVec.ofNat 8 (2 ^ pos), 4, 0] s 0 = true → cl.toNat < 32 → s.isSealed = false →
    MayStage h s = true → s.tedsNode s.stageBase cl.toNat pos = some n → nodeGood n = true → n.coeffs ≠ [] →
    seedsOk n = true →
    let seed := fun k => le 4 (n.coeffs.getD k 0).toNat ++ zeros 12
    Completes (.tedsApply h [cl, BitVec.ofNat 8 (2 ^ pos), 4, 0]) s fun t => Answers t 0x0202 h 0 0 [] ∧
      Stages h (s.stageBase.setStr sLin (8 * cl.toNat + pos) ((s.stageBase.str sLin (8 * cl.toNat + pos)).take 8 ++
        (seed 0 ++ seed 1 ++ seed 2 ++ seed 3 ++ seed 4 ++ seed 5))) s t)

/-! ### Spare rotation (R111–R127) -/

/-- A rotation step frees the spare and measures it (R112, R114): it begins with the values in force, sources follow each other
as their rows end, and the end of ZERO posts a request for the region's ladder, which passes to a waiting cluster, the lowest
position where none has been promoted (R42); after the L settling rows the shadow window begins. -/
def Obligations.RotationMeasures : Prop :=
  (∀ (cl tgt : Nat) (s : State), (s.cluster cl).rot.phase = .paused → (s.cluster cl).spareValid = true →
    s.rotReady cl = true → s.clusterClean cl = true → s.rotEnabled cl = true →
    s.nextTarget cl (s.cluster cl).rot.target = some tgt →
    Completes (.rotStepStart cl) s fun t =>
      t = { s with flt := { s.flt with clusters := t.flt.clusters, ladders := t.flt.ladders }
                   leases := { s.leases with faulty := t.leases.faulty } } ∧
      (∀ c ≠ cl, t.cluster c = s.cluster c) ∧ (∀ rg ≠ clRegion cl, t.ladder rg = s.ladder rg) ∧
      t.cluster cl = { s.cluster cl with rot := { (s.cluster cl).rot with
        phase := .cal, target := tgt, ended := false
        step := { RotStep.init with
          window := s.pat.rot cl 0 2, tol := s.pat.rot cl 2 2, rateGate := s.pat.rot cl 8 1, deferMax := s.pat.rot cl 9 1
          cRows := s.calRows cl, mRows := s.calRows cl - s.clL cl, meas := .zero, gain := s.pat.gain (8 * cl + tgt) } } }) ∧
  (∀ (cl : Nat) (m : MeasPhase) (s : State), (s.cluster cl).rot.phase = .cal → s.rotReady cl = true → s.phaseOver cl = true →
    ((s.cluster cl).rot.step.meas = .gainPos ∧ m = .gainNeg ∨
      (s.cluster cl).rot.step.meas = .gainNeg ∧ s.excMode cl ≠ 0 ∧ m = .phase) →
    Completes (.rotPhaseEnd cl) s fun t =>
      t = { s with flt := { s.flt with clusters := t.flt.clusters } } ∧ (∀ c ≠ cl, t.cluster c = s.cluster c) ∧
      t.cluster cl = { s.cluster cl with rot := { (s.cluster cl).rot with
        step := { (s.cluster cl).rot.step with meas := m } } }) ∧
  (∀ (cl : Nat) (s : State), (s.cluster cl).rot.phase = .cal → (s.cluster cl).rot.step.meas = .zero →
    s.rotReady cl = true → s.phaseOver cl = true →
    Completes (.rotPhaseEnd cl) s fun t =>
      t = { s with flt := { s.flt with clusters := t.flt.clusters, ladders := t.flt.ladders } } ∧
      t.ladder (clRegion cl) =
        { s.ladder (clRegion cl) with waiting := (s.ladder (clRegion cl)).waiting ++ [cl] } ∧
      (∀ rg ≠ clRegion cl, t.ladder rg = s.ladder rg) ∧ (∀ c ≠ cl, t.cluster c = s.cluster c) ∧
      t.cluster cl = { s.cluster cl with rot := { (s.cluster cl).rot with phase := .ladderWait } }) ∧
  (∀ (cl : Nat) (s : State), (s.cluster cl).rot.phase = .settle → s.rotReady cl = true →
    (s.cluster cl).rot.step.settleAt + s.clL cl ≤ s.flt.rows.row →
    Completes (.rotPhaseEnd cl) s fun t =>
      t = { s with flt := { s.flt with clusters := t.flt.clusters } } ∧ (∀ c ≠ cl, t.cluster c = s.cluster c) ∧
      t.cluster cl = { s.cluster cl with rot := { (s.cluster cl).rot with
        phase := .shadow
        tcalEff := sat 65535 ((s.cluster cl).rot.step.cRows + (s.cluster cl).rot.step.waited)
        step := { (s.cluster cl).rot.step with shadowAt := s.flt.rows.row, diffs := [] } } }) ∧
  (∀ (rg : Nat) (s : State), (s.ladder rg).holder = none → (s.ladder rg).waiting ≠ [] →
    Completes (.ladderGrant rg) s fun t =>
      t = { s with flt := { s.flt with clusters := t.flt.clusters, ladders := t.flt.ladders } } ∧
      (∀ r ≠ rg, t.ladder r = s.ladder r) ∧
      ∃ c ∈ (s.ladder rg).waiting, (t.ladder rg).holder = some c ∧ (t.ladder rg).waiting = (s.ladder rg).waiting.erase c ∧
        t.cluster c = { s.cluster c with rot := { (s.cluster c).rot with
          phase := .cal, step := { (s.cluster c).rot.step with meas := .gainPos } } } ∧
        (∀ x ≠ c, t.cluster x = s.cluster x) ∧
        ((∀ x ∈ (s.ladder rg).waiting, Tbl.get 0 (s.ladder rg).arb.lost (x % 4) < 16) →
          ∀ x ∈ (s.ladder rg).waiting, c % 4 ≤ x % 4))

/-- ROT_CAL_DONE, after the measurement rows, keeps the set that the integrator gives (R120) where it is plausible, with TB2 at
its calibration, and the spare settles from the row in production on; under a freeze it waits with the new set (R127,
notes/assumptions/41.md). An implausible set is discarded and counted as a failure (R121). No other set changes, and the live
map does not. -/
def Obligations.RotationCalibrates : Prop :=
  (∀ (cl : Nat) (s : State),
    let r := (s.cluster cl).rot
    let sl := s.spareSlice cl
    let c := calResult r.step.sums (s.measPhases cl = 3) (s.corrSet sl r.step.gain)
    s.calReady cl = true → corrOk c.offset c.gain c.phase = true → r.step.gain < 8 →
    (s.rotFrozen cl = true ∨ r.step.gain = s.pat.gain (8 * cl + r.target)) →
    Completes (.rotCalDone cl) s fun t =>
      t = { s with flt := { s.flt with clusters := t.flt.clusters, ladders := t.flt.ladders, corr := t.flt.corr
                                       chainI := t.flt.chainI, chainQ := t.flt.chainQ } } ∧
      t.corrSet sl r.step.gain = { c with calAt := some s.time.b2.val } ∧
      (∀ k, k ≠ 8 * sl + r.step.gain → t.corrSet (k / 8) (k % 8) = s.corrSet (k / 8) (k % 8)) ∧
      (t.ladder (clRegion cl)).holder ≠ some cl ∧ (∀ rg ≠ clRegion cl, t.ladder rg = s.ladder rg) ∧
      (∀ x ≠ cl, t.cluster x = s.cluster x) ∧
      t.cluster cl = { s.cluster cl with rot := { r with
        phase := if s.rotFrozen cl then .frozen else .settle
        step := if s.rotFrozen cl then { r.step with meas := .done, waiting := true }
                else { r.step with meas := .done, waiting := false, settleAt := s.flt.rows.row } } } ∧
      (s.rotFrozen cl = false → t.chainMem sl = ChainMem.clear ∧ t.quadMem sl = ChainMem.clear)) ∧
  (∀ (cl : Nat) (s : State),
    let r := (s.cluster cl).rot
    let sl := s.spareSlice cl
    let c := calResult r.step.sums (s.measPhases cl = 3) (s.corrSet sl r.step.gain)
    s.calReady cl = true → corrOk c.offset c.gain c.phase = false →
    Completes (.rotCalDone cl) s fun t =>
      OnlyReports { s with flt := { s.flt with clusters := t.flt.clusters, ladders := t.flt.ladders, slices := t.flt.slices }
                           leases := { s.leases with faulty := t.leases.faulty } } t ∧
      (∀ x ≠ cl, t.cluster x = s.cluster x) ∧ (∀ x ≠ sl, t.slice x = s.slice x) ∧
      (t.cluster cl).slots = (s.cluster cl).slots ∧ (t.cluster cl).spare = (s.cluster cl).spare ∧
      (t.cluster cl).mapSeq = (s.cluster cl).mapSeq ∧ (t.cluster cl).drv = (s.cluster cl).drv ∧
      t.slice sl = { s.slice sl with fails := (s.slice sl).fails + 1
                                     suspect := (s.slice sl).suspect || decide (2 ≤ (s.slice sl).fails) } ∧
      (t.cluster cl).spareValid = ((s.cluster cl).spareValid && !decide (2 ≤ (s.slice sl).fails)))

/-- A passed test hands the target's channel to the spare: the live map changes at one boundary, MAP_SEQ counts, and the
channel's row carries HND (R23, R123). A failed test counts a failure for the spare and leaves the map alone (R125); one in a
region whose temperature moves too fast is abandoned (R127). An expired deferral leaves the map alone (R127), and
ROT_CLEAR_SUSPECT returns a slice at the next boundary (R126). -/
def Obligations.HandoverChangesMapOnce : Prop :=
  (∀ (cl dTdt : Nat) (s : State), (s.cluster cl).rot.phase = .shadow → s.rotReady cl = true → s.handoverLost cl = false →
    (s.cluster cl).rot.ended = false →
    (s.cluster cl).rot.step.window ≤ (s.cluster cl).rot.step.diffs.length →
    (testWindow (s.cluster cl).rot.step).2 = true → s.gateShut cl = false →
    Completes (.rotWindowEnd cl dTdt) s fun t =>
      let c := s.cluster cl
      let tgt := c.rot.target
      (t.cluster cl).slots = c.slots.set tgt c.spare ∧ (t.cluster cl).spare = c.slots.getD tgt 0 ∧
      (t.cluster cl).mapSeq = (c.mapSeq + 1) % 65536 ∧ (t.cluster cl).spareValid = c.spareValid ∧
      (t.cluster cl).rot.lastResult = 1 ∧ (t.cluster cl).rot.lastDiff = (testWindow c.rot.step).1 ∧
      (t.cluster cl).rot.hndRow = s.flt.rows.row ∧ (t.cluster cl).drv = c.drv ∧
      t.chan (8 * cl + tgt) = { s.chan (8 * cl + tgt) with hnd := true } ∧ (∀ ch ≠ 8 * cl + tgt, t.chan ch = s.chan ch) ∧
      t.slice (9 * cl + c.spare) = { s.slice (9 * cl + c.spare) with fails := 0 } ∧
      (∀ x ≠ 9 * cl + c.spare, t.slice x = s.slice x) ∧ (∀ x ≠ cl, t.cluster x = s.cluster x) ∧
      t = { s with flt := { s.flt with clusters := t.flt.clusters, ladders := t.flt.ladders, chans := t.flt.chans,
                                       slices := t.flt.slices }
                   leases := { s.leases with faulty := t.leases.faulty } }) ∧
  (∀ (cl dTdt : Nat) (s : State), (s.cluster cl).rot.phase = .shadow → s.rotReady cl = true → s.handoverLost cl = false →
    (s.cluster cl).rot.ended = false →
    (s.cluster cl).rot.step.window ≤ (s.cluster cl).rot.step.diffs.length →
    (testWindow (s.cluster cl).rot.step).2 = false →
    let slow := (s.cluster cl).rot.step.rateGate = 0 ∨ dTdt ≤ (s.cluster cl).rot.step.rateGate
    let sp := s.spareSlice cl
    Completes (.rotWindowEnd cl dTdt) s fun t =>
      OnlyReports { s with flt := { s.flt with clusters := t.flt.clusters, ladders := t.flt.ladders, slices := t.flt.slices }
                           leases := { s.leases with faulty := t.leases.faulty } } t ∧
      (t.cluster cl).slots = (s.cluster cl).slots ∧ (t.cluster cl).spare = (s.cluster cl).spare ∧
      (t.cluster cl).mapSeq = (s.cluster cl).mapSeq ∧ (t.cluster cl).drv = (s.cluster cl).drv ∧
      (slow → (t.cluster cl).rot.lastResult = 2 ∧
        t.slice sp = { s.slice sp with fails := (s.slice sp).fails + 1
                                       suspect := (s.slice sp).suspect || decide (2 ≤ (s.slice sp).fails) } ∧
        (t.cluster cl).spareValid = ((s.cluster cl).spareValid && !decide (2 ≤ (s.slice sp).fails))) ∧
      (¬slow → (t.cluster cl).rot.lastResult = 3 ∧ t.slice sp = s.slice sp ∧
        (t.cluster cl).spareValid = (s.cluster cl).spareValid) ∧
      (∀ x ≠ sp, t.slice x = s.slice x) ∧ (∀ x ≠ cl, t.cluster x = s.cluster x)) ∧
  (∀ (cl : Nat) (s : State), (s.cluster cl).rot.phase = .defer → s.handoverLost cl = false → (s.cluster cl).rot.ended = false →
    (s.cluster cl).rot.step.deferMax * (s.cluster cl).rot.step.window ≤ (s.cluster cl).rot.step.deferred →
    Completes (.rotDeferExpired cl) s fun t =>
      (t.cluster cl).slots = (s.cluster cl).slots ∧ (t.cluster cl).spare = (s.cluster cl).spare ∧
      (t.cluster cl).mapSeq = (s.cluster cl).mapSeq ∧ (t.cluster cl).drv = (s.cluster cl).drv ∧
      (t.cluster cl).rot.lastResult = 3 ∧ (t.cluster cl).rot.phase ≠ .defer ∧ (∀ x ≠ cl, t.cluster x = s.cluster x) ∧
      t = { s with flt := { s.flt with clusters := t.flt.clusters, ladders := t.flt.ladders }
                   leases := { s.leases with faulty := t.leases.faulty } }) ∧
  (∀ (h : CmdHdr) (p : Bytes) (s : State), p.length = 2 → fld p 0 2 < 288 → Accepted 0x0210 h p s 0 = true →
    (s.slice (fld p 0 2)).suspect = true →
    Completes (.rotClearSuspect h p) s fun t => Answers t 0x0210 h 0 0 [] ∧
      OnlyAnswers { s with flt := { s.flt with clusters := t.flt.clusters } } t ∧
      t.cluster (fld p 0 2 / 9) = { s.cluster (fld p 0 2 / 9) with rot := { (s.cluster (fld p 0 2 / 9)).rot with
        clears := if (s.cluster (fld p 0 2 / 9)).rot.clears.contains (fld p 0 2 % 9) then (s.cluster (fld p 0 2 / 9)).rot.clears
          else (s.cluster (fld p 0 2 / 9)).rot.clears ++ [fld p 0 2 % 9] } } ∧
      (∀ x ≠ fld p 0 2 / 9, t.cluster x = s.cluster x))

/-! ### Auxiliary converters and temperatures (R131–R139, R184, R185) -/

/-- AUX_RESULT puts the slot's result into AUXDATA and moves the scan on, marking a result that replaces an untaken one (R136,
R137); a conversion of the region sensors is what they read (R184); TEMP_STALE sets the channels of an entry whose STALE has
passed on a substitute (R185). -/
def Obligations.AuxiliaryResults : Prop :=
  (∀ (d : Die) (v : BitVec 24) (s : State), (s.aux d).running = true →
    let a := s.aux d
    let mode := s.pat.f sAuxScan d (5 + 4 * a.next) 1 % 16
    Completes (.auxResult d v) s fun t => OnlyReports { s with auxs := t.auxs } t ∧ (∀ x ≠ d, t.aux x = s.aux x) ∧
      t.aux d = { a with
        data := ⟨v.toNat, a.next, a.data.isNew, true, a.scanRow, mode ≠ 0 && decide (0x7D70A4 ≤ v.toInt)⟩
        lost := if a.data.isNew then a.data.entry else a.lost
        ovrLatch := a.ovrLatch || a.data.isNew
        ovrCount := if a.data.isNew then sat 65535 (a.ovrCount + 1) else a.ovrCount
        next := a.next + 1, running := decide (a.next + 1 < s.pat.auxCount d) }) ∧
  (∀ (temps : List Int) (s : State),
    Completes (.regionSensorConversion temps) s fun t =>
      t = { s with lin := { s.lin with region := t.lin.region } } ∧
      (∀ n v, temps[n]? = some v → Tbl.get 2560 t.lin.region n = v) ∧
      (∀ n, temps.length ≤ n → Tbl.get 2560 t.lin.region n = Tbl.get 2560 s.lin.region n)) ∧
  (∀ (d : Die) (e : Nat) (s : State), (∃ ch ∈ tempUsers s.pat d e, (s.tempCh ch).st ≠ 2 ∧ s.tempOld ch = true) →
    Completes (.tempStale d e) s fun t => OnlyReports { s with lin := { s.lin with temps := t.lin.temps } } t ∧
      (∀ ch, ch ∈ tempUsers s.pat d e → s.tempOld ch = true → t.tempCh ch = { s.tempCh ch with st := 2 }) ∧
      (∀ ch, ch ∉ tempUsers s.pat d e ∨ s.tempOld ch = false → t.tempCh ch = s.tempCh ch))
/-! ### SYNC and the FIR tables (R151, R165–R167) -/

/-- A SYNC is counted with its source; while rows run it waits for the next boundary, and the answer names that row; while the
stream waits for one it fixes B_(−1) on the f_MOD grid; in WATCH, in DOZE or with no field die powered it is only counted (R165,
R166). A SYNC_IN edge is one dated by its filter, and latches its offset from the nearest boundary (R166, R167); one dated to
the last boundary acts at that boundary. FIR_READ answers the taps of a set, of unit DC gain within 2^-30 and, for the half-band
stage, the same for every order (R151). -/
def Obligations.SyncActsAtNextBoundary : Prop :=
  (∀ (h : CmdHdr) (s : State), Accepted 0x0211 h [] s 6 = true →
    let sy := { s.flt.sync with count := sat 65535 (s.flt.sync.count + 1), lastSrc := 2 }
    Completes (.sync h []) s fun t =>
      (s.syncDeaf = true ∨ (s.flt.rows.phase ≠ .running ∧ s.flt.rows.phase ≠ .waitSync) →
        Answers t 0x0211 h 0 0 (le 6 0) ∧ OnlyAnswers { s with flt := { s.flt with sync := sy } } t) ∧
      (s.syncDeaf = false → s.flt.rows.phase = .running →
        Answers t 0x0211 h 0 0 (le 6 (s.flt.rows.row + 1)) ∧ OnlyAnswers { s with flt := { s.flt with
          sync := { sy with pending := if s.flt.sync.pending = 0 then 2 else s.flt.sync.pending } } } t) ∧
      (s.syncDeaf = false → s.flt.rows.phase = .waitSync →
        Answers t 0x0211 h 0 0 (le 6 0) ∧ OnlyAnswers { s with flt := { s.flt with
          rows := { s.flt.rows with
            phase := .waitStart, startAt := some (ceilDiv s.selBase.val (160 * nsF) * (160 * nsF)) }
          sync := { sy with pending := 2 } } } t)) ∧
  (∀ s : State,
    let sy := { s.flt.sync with count := sat 65535 (s.flt.sync.count + 1), lastSrc := 1 }
    Completes .syncIn s fun t =>
      (s.rowOpen = true → s.syncDeaf = true ∨ s.flt.rows.last < s.dated 16 → OnlyReports { s with flt := { s.flt with sync := { sy with
        phaseErr := clampI (-(2 ^ 31)) (2 ^ 31 - 1) (quot s.syncOffset (10 * nsF))
        offGrid := s.flt.sync.offGrid || decide (100 * nsF < s.syncOffset.natAbs)
        pending := if s.syncDeaf = false ∧ s.flt.sync.pending = 0 then 1 else s.flt.sync.pending } } } t) ∧
      (s.rowOpen = true → s.syncDeaf = false → s.dated 16 ≤ s.flt.rows.last → t.flt.rows = s.flt.rows ∧ t.flt.sync = { sy with
        phaseErr := clampI (-(2 ^ 31)) (2 ^ 31 - 1) (quot s.syncOffset (10 * nsF))
        offGrid := s.flt.sync.offGrid || decide (100 * nsF < s.syncOffset.natAbs)
        lastRow := if s.dated 16 < s.flt.rows.start then s.flt.sync.lastRow else s.flt.rows.row }) ∧
      (s.syncDeaf = false → s.flt.rows.phase = .waitSync → t = { s with flt := { s.flt with
        rows := { s.flt.rows with phase := .waitStart, startAt := some (ceilDiv (s.dated 16) (160 * nsF) * (160 * nsF)) }
        sync := { sy with pending := 1 } } }) ∧
      (s.rowOpen = false → (s.syncDeaf = true ∨ s.flt.rows.phase ≠ .waitSync) →
        t = { s with flt := { s.flt with sync := sy } })) ∧
  (∀ (h : CmdHdr) (set order : Byte) (s : State), set.toNat < 6 → 3 ≤ order.toNat → order.toNat ≤ 5 →
    Accepted 0x0212 h [set, order] s (if set.toNat = 5 then 92 else 256) = true →
    Completes (.firRead h [set, order]) s fun t => OnlyAnswers s t ∧
      Answers t 0x0212 h 0 0 ((romTaps set.toNat order.toNat).map fun c => le 4 c.toNat).flatten) ∧
  (∀ set order : Nat, tapsOk (romTaps set order) = true ∧
    (romTaps set order).length = (if set = 5 then 23 else 64) ∧ romTaps 5 order = romTaps 5 0)

/-! ### Calibration (chapter 06) -/

/-- A measurement starts with the row after the one in production, while no other runs (R204, R205); CAL_ABORT ends it at
once, and neither touches a result register or the row stream. -/
def Obligations.MeasurementsStartAndAbort : Prop :=
  (∀ (h : CmdHdr) (p : Bytes) (s : State), p.length = 40 → fld p 0 32 ≠ 0 → fld p 32 1 < 2 → allZero (slice p 33 3) = true →
    16 ≤ fld p 36 4 → fld p 36 4 ≤ 65536 → s.cal.running = none → Accepted 0x0300 h p s 0 = true →
    Completes (.calPoint h p) s fun t => Answers t 0x0300 h 0 0 [] ∧ OnlyAnswers { s with cal := { s.cal with
      running := some ⟨.point, fld p 0 32, fld p 32 1, fld p 36 4, s.flt.rows.row + 1, 0, 0, viaTag h.via, [], [], [], []⟩ } } t) ∧
  (∀ (h : CmdHdr) (p : Bytes) (s : State), p.length = 8 → fld p 0 4 ≠ 0 → 16 ≤ fld p 4 4 → fld p 4 4 ≤ 65536 →
    s.cal.running = none → Accepted 0x0303 h p s 0 = true →
    Completes (.phaseMeasure h p) s fun t => Answers t 0x0303 h 0 0 [] ∧ OnlyAnswers { s with cal := { s.cal with
      running := some ⟨.phase, chansOfClusters (fld p 0 4), 0, fld p 4 4, s.flt.rows.row + 1, 0, 0, viaTag h.via, [], [], [], []⟩ } } t) ∧
  (∀ (h : CmdHdr) (p : Bytes) (s : State), p.length = 40 → fld p 0 32 ≠ 0 → (fld p 0 32).testBit (fld p 32 2) = true →
    3 ≤ fld p 34 1 → fld p 34 1 ≤ 12 → allZero (slice p 35 1) = true → 4096 ≤ fld p 36 4 → fld p 36 4 ≤ 65536 →
    fld p 36 4 % 2 ^ fld p 34 1 = 0 → inPassband s.flt.chain.cur.firSet (fld p 34 1) = true → s.skewCommit = none →
    s.cal.running = none → Accepted 0x0304 h p s 0 = true →
    Completes (.skewMeasure h p) s fun t => Answers t 0x0304 h 0 0 [] ∧ OnlyAnswers { s with cal := { s.cal with
      running := some ⟨.skew, fld p 0 32, 0, fld p 36 4, s.flt.rows.row + 1, fld p 32 2, fld p 34 1, viaTag h.via, [], [], [], []⟩ } } t) ∧
  (∀ (h : CmdHdr) (p : Bytes) (s : State), p.length = 8 → fld p 0 1 < 32 → allZero (slice p 1 3) = true → 256 ≤ fld p 4 4 →
    fld p 4 4 ≤ 65536 → s.cal.running = none → Accepted 0x0305 h p s 0 = true →
    Completes (.fdtLearn h p) s fun t => Answers t 0x0305 h 0 0 [] ∧ OnlyAnswers { s with cal := { s.cal with
      running := some ⟨.fdt, chansOfClusters (2 ^ fld p 0 1), fld p 0 1, fld p 4 4, s.flt.rows.row + 1, 0, 0, viaTag h.via,
        [], [], [], []⟩ } } t) ∧
  (∀ (h : CmdHdr) (s : State), Accepted 0x0302 h [] s 0 = true →
    Completes (.calAbort h []) s fun t => Answers t 0x0302 h 0 0 [] ∧ OnlyAnswers { s with cal := { s.cal with running := none } } t)

/-- CAL_DONE, after the last row of the window, stores what every channel of a measurement gives and frees the engine (R205):
the mean of a point, its spread and its θ, or the reason of its refusal (R214, R215); the phase and the trim that it proposes (R220,
R221); the delay against the reference and the trim that it proposes (R225, R226); or the proposed thresholds of FDT_LEARN (R228;
a flagged row refuses them, the model's reading, notes/assumptions/48.md). No other channel changes. -/
def Obligations.MeasurementResults : Prop :=
  (∀ (m : Meas) (s : State), s.cal.running = some m → m.kind = .point → m.first + m.n ≤ s.flt.rows.row →
    Completes .calDone s fun t => OnlyReports { s with cal := { s.cal with running := none, res := t.cal.res } } t ∧
      (∀ ch, 256 ≤ ch ∨ m.mask.testBit ch = false → t.calRes ch = s.calRes ch) ∧
      (∀ ch < 256, m.mask.testBit ch = true →
        let a := Tbl.get MeasAcc.init m.acc ch
        let cond := Tbl.get 0 m.cond ch
        let mean := ((Fp.get64 a.sum.toNat).div (Fp.ofInt m.n 0)).toUnits (-31)
        let spr := (Fp.get64 a.hi.toNat).sub (Fp.get64 a.lo.toNat)
        let e := minI spr.e (-61)
        let den : Nat := 2 ^ (-e).toNat
        let r := { s.calRes ch with spread := sat 65535 (quot (spr.units e * 100000000) den).toNat }
        let theta := BitVec.ofNat 32 (s.thetaShown ch)
        t.calRes ch =
          if a.flagged then { r with reason := 1 }
          else if (s.pat.f sCalLim 0 8 2 : Int) * den < spr.units e * 100000000 then { r with reason := 2 }
          else if m.point == 1 && r.points.testBit 0 && !condSame r.cond0 cond then { r with reason := 3 }
          else if mean < -(2 ^ 31) ∨ 2 ^ 31 - 1 < mean then { r with reason := 11 }
          else if m.point = 0 then { r with mean0 := mean, cond0 := cond, points := bitSet r.points 0 true, theta := theta }
          else { r with mean1 := mean, cond1 := cond, points := bitSet r.points 1 true, theta := theta })) ∧
  (∀ (m : Meas) (s : State), s.cal.running = some m → m.kind = .phase → m.first + m.n ≤ s.flt.rows.row →
    Completes .calDone s fun t =>
      OnlyReports { s with cal := { s.cal with running := none, res := t.cal.res, trims := t.cal.trims } } t ∧
      (∀ ch, 256 ≤ ch ∨ m.mask.testBit ch = false ∨
          (carrierMode (Tbl.get 0 m.condEnd ch / 256 % 4) = false ∧ carrierMode (Tbl.get 0 m.cond ch / 256 % 4) = false) →
        t.calRes ch = s.calRes ch ∧ t.trimRes ch = s.trimRes ch) ∧
      (∀ ch < 256, m.mask.testBit ch = true →
        carrierMode (Tbl.get 0 m.condEnd ch / 256 % 4) = true ∨ carrierMode (Tbl.get 0 m.cond ch / 256 % 4) = true →
        let a := Tbl.get MeasAcc.init m.acc ch
        let d := atan2 a.quad a.inPhase
        let trim := Tbl.get 0 m.trim ch + d
        (t.calRes ch, t.trimRes ch) =
          if a.flagged then ({ s.calRes ch with reason := 1 }, s.trimRes ch)
          else if 20 * a.inPhase.natAbs < m.n * 2 ^ 31 then ({ s.calRes ch with reason := 8 }, s.trimRes ch)
          else if trim < -1023 ∨ 1023 < trim then ({ s.calRes ch with reason := 9 }, s.trimRes ch)
          else (s.calRes ch, { s.trimRes ch with delta := d, pTrim := trim, phValid := true }))) ∧
  (∀ (m : Meas) (s : State), s.cal.running = some m → m.kind = .skew → m.first + m.n ≤ s.flt.rows.row →
    Completes .calDone s fun t =>
      OnlyReports { s with cal := { s.cal with running := none, res := t.cal.res, trims := t.cal.trims } } t ∧
      (∀ ch, 256 ≤ ch ∨ m.mask.testBit ch = false → t.calRes ch = s.calRes ch ∧ t.trimRes ch = s.trimRes ch) ∧
      (∀ ch < 256, m.mask.testBit ch = true →
        let a := Tbl.get MeasAcc.init m.acc ch
        let d := delayBetween a (Tbl.get MeasAcc.init m.acc m.ref) s.flt.chain.k m.exp
        let trim := signed 16 (s.pat.f sSkw (ch / 8) (2 * (ch % 8)) 2) - d
        (t.calRes ch, t.trimRes ch) =
          if a.flagged then ({ s.calRes ch with reason := 1 }, s.trimRes ch)
          else if amplitudeOk a m.n = false then ({ s.calRes ch with reason := 8 }, s.trimRes ch)
          else if trim < -2048 ∨ 2047 < trim then ({ s.calRes ch with reason := 9 }, s.trimRes ch)
          else (s.calRes ch, { s.trimRes ch with dtau := sat16 d, pSkew := trim, skValid := true }))) ∧
  (∀ (m : Meas) (s : State), s.cal.running = some m → m.kind = .fdt → m.first + m.n ≤ s.flt.rows.row →
    let chs := (clChans m.point).filter s.fdtCounts
    let q := 4 * (chs.map fun ch => (Tbl.get MeasAcc.init m.acc ch).quadMax).foldl Nat.max 0
    let v := 4 * (chs.map fun ch => (Tbl.get MeasAcc.init m.acc ch).testMax).foldl Nat.max 0
    Completes .calDone s fun t =>
      OnlyReports { s with cal := { s.cal with running := none, res := t.cal.res, fdt := t.cal.fdt } } t ∧
      ((∀ ch ∈ chs, (Tbl.get MeasAcc.init m.acc ch).flagged = false) → q * 10000000 ≤ 5000 * 2 ^ 31 → v * 100000000 ≤ 1000 * 2 ^ 31 →
        t.cal.res = s.cal.res ∧
        Tbl.get 0 t.cal.fdt m.point = Nat.max 10 (quot (q * 10000000 : Nat) (2 ^ 31)).toNat +
          65536 * Nat.max 5 (quot (v * 100000000 : Nat) (2 ^ 31)).toNat ∧
        (∀ c ≠ m.point, Tbl.get 0 t.cal.fdt c = Tbl.get 0 s.cal.fdt c)) ∧
      ((∀ ch ∈ chs, (Tbl.get MeasAcc.init m.acc ch).flagged = false) →
        5000 * 2 ^ 31 < q * 10000000 ∨ 1000 * 2 ^ 31 < v * 100000000 →
        t.cal.fdt = s.cal.fdt ∧
        (∀ ch, t.calRes ch = if ch ∈ clChans m.point then { s.calRes ch with reason := 8 } else s.calRes ch)) ∧
      ((∃ ch ∈ chs, (Tbl.get MeasAcc.init m.acc ch).flagged = true) →
        t.cal.fdt = s.cal.fdt ∧
        (∀ ch, t.calRes ch =
          if ch ∈ chs ∧ (Tbl.get MeasAcc.init m.acc ch).flagged = true then { s.calRes ch with reason := 1 } else s.calRes ch)))

/-- CAL_SOLVE answers and keeps a plausible proposal, and refuses an implausible one with LIMIT (R216, R217); SWATCH_STAGE
puts the proposals of the channels it names into the staged pattern, and no other swatch (R217). -/
def Obligations.SolveAndStageSwatches : Prop :=
  (∀ (h : CmdHdr) (p : Bytes) (s : State), p.length = 12 → fld p 0 2 < 256 → fld p 2 1 < 2 → allZero (slice p 3 1) = true →
    Accepted 0x0301 h p s 10 = true →
    let v := solve s (fld p 0 2) (fld p 2 1 = 1) (signed 32 (fld p 4 4)) (signed 32 (fld p 8 4))
    Completes (.calSolve h p) s fun t => OnlyAnswers { s with cal := { s.cal with res := t.cal.res } } t ∧
      (∀ c ≠ fld p 0 2, t.calRes c = s.calRes c) ∧
      (v.reason ≠ 0 → Answers t 0x0301 h 7 v.reason [] ∧ t.calRes (fld p 0 2) = { s.calRes (fld p 0 2) with reason := v.reason }) ∧
      (v.reason = 0 → Answers t 0x0301 h 0 0 (le 4 (unsigned 32 v.offset) ++ le 4 v.gain ++ le 2 (unsigned 16 v.residual)) ∧
        t.calRes (fld p 0 2) = { s.calRes (fld p 0 2) with
          pOffset := v.offset, pGain := v.gain, residual := v.residual, proposal := true, zeroOnly := decide (fld p 2 1 = 1)
          pCond := if fld p 2 1 = 1 then (s.calRes (fld p 0 2)).cond0 else (s.calRes (fld p 0 2)).cond1
          pTheta := (s.calRes (fld p 0 2)).theta })) ∧
  (∀ (h : CmdHdr) (p : Bytes) (s : State), p.length = 32 → s.isSealed = false → MayStage h s = true →
    (∀ ch ∈ bitsOf 256 (fld p 0 32), (s.calRes ch).proposal = true) → Accepted 0x0306 h p s 0 = true →
    Completes (.swatchStage h p) s fun t => Answers t 0x0306 h 0 0 [] ∧
      ∃ q : Pat, Stages h q s t ∧
        (∀ ch < 256, q.str sSwatch ch =
          if (fld p 0 32).testBit ch then proposedSwatch (s.calRes ch) (s.stageBase.str sSwatch ch)
          else s.stageBase.str sSwatch ch) ∧
        (∀ sid idx, sid ≠ sSwatch → idx < 65536 → q.str sid idx = s.stageBase.str sid idx))

/-! ### The time unit (chapter 07) -/

/-- Writes of an increment and of a slew by the owner of a base (R235, R236), by register or by command, change that base
alone; a slew's end leaves no remainder and the base moved by its increments and the offset; the snapshot captures all four
bases at one instant with the row in production (R238); TIME_TOD announces the second of the next edge (R252). -/
def Obligations.BaseRegisterWrites : Prop :=
  (∀ (n : Nat) (byHost : Bool) (w : BitVec 48) (s : State), n < 4 → s.ownsBase n byHost = true → incrOk w.toNat = true →
    Completes (.tbIncrWrite n byHost w) s fun t => t = { s with time := t.time } ∧
      t.base n = { s.base n with incr := w.toNat } ∧ (∀ m < 4, m ≠ n → t.base m = s.base m)) ∧
  (∀ (n : Nat) (byHost : Bool) (o : BitVec 48) (r : BitVec 16) (s : State), n < 4 → s.ownsBase n byHost = true →
    (byHost = true ∨ s.servoMay n r.toNat = true) →
    o.toInt.natAbs ≤ 1000000000 * 65536 → 1 ≤ r.toNat → (r.toNat ≤ 100 ∨ s.followed n = false) →
    Completes (.tbSlewWrite n byHost o r) s fun t => t = { s with time := t.time } ∧
      t.base n = { s.base n with slewOfs := o.toInt, slewRate := r.toNat, slewRem := o.toInt * 65536, slewFrac := 0 } ∧
      (∀ m < 4, m ≠ n → t.base m = s.base m)) ∧
  (∀ (n : Nat) (s : State), n < 4 → Undisturbed s → 0 < (s.base n).incr * (s.base n).slewRate →
    s.rowFirst (s.base n).ticksToEnd false = false →
    Completes (.tbSlewDone n) s fun t =>
      t = { s with time := { s.time with b0 := t.base 0, b1 := t.base 1, b2 := t.base 2, b3 := t.base 3 } } ∧
      (t.base n).slewRem = 0 ∧
      (t.base n).val = (((s.base n).val + (s.base n).ticksToEnd * (s.base n).incr : Nat) + (s.base n).slewRem : Int).toNat ∧
      (∀ m < 4, t.base m = (s.base m).run (s.base n).ticksToEnd)) ∧
  (∀ (h : CmdHdr) (p : Bytes) (s : State), p.length = 8 → hostBase (fld p 0 1) = true → allZero (slice p 1 1) = true →
    s.ownsBase (fld p 0 1) true = true → incrOk (fld p 2 6) = true → Accepted 0x0400 h p s 0 = true →
    Completes (.timeIncr h p) s fun t => Answers t 0x0400 h 0 0 [] ∧ OnlyAnswers { s with time := t.time } t ∧
      t.time = s.time.setBase (fld p 0 1) { s.base (fld p 0 1) with incr := fld p 2 6 }) ∧
  (∀ (h : CmdHdr) (p : Bytes) (s : State), p.length = 12 → hostBase (fld p 0 1) = true → allZero (slice p 1 1) = true →
    allZero (slice p 10 2) = true → s.ownsBase (fld p 0 1) true = true → Accepted 0x0401 h p s 0 = true →
    (signed 48 (fld p 4 6)).natAbs ≤ 1000000000 * 65536 → 1 ≤ fld p 2 2 →
    (fld p 2 2 ≤ 100 ∨ s.followed (fld p 0 1) = false) →
    Completes (.timeSlew h p) s fun t => Answers t 0x0401 h 0 0 [] ∧ OnlyAnswers { s with time := t.time } t ∧
      t.time = s.time.setBase (fld p 0 1) { s.base (fld p 0 1) with
        slewOfs := signed 48 (fld p 4 6), slewRate := fld p 2 2, slewRem := signed 48 (fld p 4 6) * 65536, slewFrac := 0 }) ∧
  (∀ s : State, Completes .tbSnapshotCapture s fun t =>
    t = { s with time := { s.time with
      snap0 := s.time.b0.val, snap1 := s.time.b1.val, snap2 := s.time.b2.val, snap3 := s.time.b3.val
      snapRow := s.flt.rows.row } }) ∧
  (∀ (h : CmdHdr) (p : Bytes) (s : State), p.length = 8 → allZero (slice p 6 2) = true → Accepted 0x0403 h p s 0 = true →
    Completes (.timeTod h p) s fun t => Answers t 0x0403 h 0 0 [] ∧
      OnlyAnswers { s with time := { s.time with tod := some (fld p 0 6) } } t)

/-- TIME_STEP_TB3 sets TB3 while no row stream is open, once its audit record is accepted (R237); where it reaches no armed
event no other part of the time unit changes. ACQ_TIMEOUT loads the selected base from the real-time clock, in FREERUN, and a
stream that waited for it goes on (R244). -/
def Obligations.BaseLoads : Prop :=
  (∀ (h : CmdHdr) (p : Bytes) (s : State), p.length = 12 → fld p 2 4 < 1000000000 → s.rowOpen = false →
    Accepted 0x0402 h p s 0 = true →
    (auditGate (taken 0x0402 h p s) 0x3060 0 (s.time.b3.val / secF) (ofTime96 (fld p 0 12) / secF)).1 = .accepted →
    NoneDue (s.updBase 3 fun b => { b with val := ofTime96 (fld p 0 12) }) →
    Completes (.timeStepTb3 h p) s fun t => Answers t 0x0402 h 0 0 [] ∧
      OnlyAnswers { s with sec := { s.sec with buckets := t.sec.buckets }
                           time := { s.time with
                             b3 := { s.time.b3 with val := ofTime96 (fld p 0 12), slewRem := 0, slewFrac := 0 }
                             events := t.time.events } } t ∧
      ∀ n, t.tev n = s.tev n) ∧
  (∀ s : State, s.time.selected < 2 → s.selBase.st = .unset →
    NoneDue (s.updBase s.time.selected fun b => { b with val := s.pm.rtc * secF }) →
    Completes .acqTimeout s fun t => OnlyReports { s with time := t.time, flt := { s.flt with rows := t.flt.rows } } t ∧
      t.base s.time.selected = { s.selBase.unfollow with
        st := .freerun, val := s.pm.rtc * secF, slewRem := 0, slewFrac := 0 } ∧
      (∀ n < 4, n ≠ s.time.selected → t.base n = s.base n) ∧ (∀ n, t.tev n = s.tev n) ∧
      (s.flt.rows.phase ≠ .waitBase → t.flt.rows = s.flt.rows) ∧
      (s.flt.rows.phase = .waitBase → t.flt.rows =
        { s.flt.rows with phase := t.flt.rows.phase, readyAt := s.pm.rtc * secF } ∧ t.flt.rows.phase ≠ .waitBase))

/-- The first Sync loads an UNSET base, and the 16th consecutive one within LOCK_THR locks an ACQUIRING base (R240); a clockClass
above the one at the last lock, the loss of the domain's Syncs and of its Announces put a following base into HOLDOVER with its
domain failed (R241, R264); a lost copy passes steering to the other port (R249). -/
def Obligations.DomainDecidesBaseState : Prop :=
  (∀ (m : PtpSync) (n : Nat) (s : State), s.domainBase m.domain = some n → s.takesFrom n m.port = true →
    s.syncFrom n m = true → ((s.base n).setCopy m.port (some m.hops)).steerPort = some m.port →
    ((s.base n).gmId = 0 ∨ (s.base n).gmId = m.gmId) → (s.base n).st = .unset →
    let v := (((s.base n).val : Int) - s.syncOffsetOf n m).toNat
    NoneDue (s.updBase n fun b => { b with val := v }) →
    Completes (.ptpSyncRx m) s fun t =>
      OnlyReports { s with time := t.time, flt := { s.flt with rows := t.flt.rows } } t ∧
      (t.base n).st = .acquiring ∧ (t.base n).val = v ∧ (t.base n).gmId = m.gmId ∧ (t.base n).path = m.port + 1 ∧
      (t.base n).hops = m.hops ∧ (∀ k < 4, k ≠ n → t.base k = s.base k)) ∧
  (∀ (m : PtpSync) (n : Nat) (s : State), s.domainBase m.domain = some n → s.takesFrom n m.port = true →
    s.syncFrom n m = true → ((s.base n).setCopy m.port (some m.hops)).steerPort = some m.port →
    ((s.base n).gmId = 0 ∨ (s.base n).gmId = m.gmId) → (s.base n).st = .acquiring → (s.base n).reload = false →
    s.within 1 m.offset = true → s.jumps m.offset = false → m.offset.natAbs ≤ 256 * 1000000000 → 15 ≤ (s.base n).inLock →
    NoneDue s →
    Completes (.ptpSyncRx m) s fun t => OnlyReports { s with time := t.time, pm := t.pm } t ∧
      (t.base n).st = .locked ∧ (t.base n).path = m.port + 1 ∧ (t.base n).hops = m.hops ∧ (t.base n).offset = m.offset ∧
      (t.base n).gmId = m.gmId ∧ (t.base n).val = (s.base n).val ∧ (∀ k < 4, k ≠ n → t.base k = s.base k) ∧
      (s.isGm n = false → (t.base n).clsLock = (s.base n).cls) ∧
      t.pm = (if n = s.time.selected ∧ s.pm.castOn = true then { s.pm with castOnDone := true } else s.pm)) ∧
  (∀ (m : PtpAnnounce) (n : Nat) (s : State), s.domainBase m.domain = some n → s.takesFrom n m.port = true →
    s.follows n m = true → ((s.base n).gmId = 0 ∨ (s.base n).gmId = m.gmId) → (s.base n).st = .locked →
    (s.base n).failed = false → (s.base n).clsLock < m.cls →
    Completes (.ptpAnnounceRx m) s fun t => OnlyReports { s with time := t.time } t ∧
      (t.base n).st = .holdover ∧ (t.base n).failed = true ∧ (t.base n).cls = m.cls ∧
      (t.base n).val = (s.base n).val ∧ (t.base n).utc = some ⟨m.utc, m.leap61, m.leap59⟩ ∧
      (∀ k < 4, k ≠ n → t.base k = s.base k)) ∧
  (∀ (n : Nat) (s : State), n < 2 → (s.base n).failed = false →
    ((s.base n).st = .acquiring ∨ (s.base n).st = .locked ∨ (s.base n).st = .holdover) →
    Completes (.syncLossTimeout n) s (fun t =>
      if (s.base n).syncAt = some s.time.b2.val then t = s else OnlyReports { s with time := t.time } t ∧
        (t.base n).st = .holdover ∧ (t.base n).failed = true ∧ (t.base n).copyA = none ∧ (t.base n).copyB = none ∧
        (t.base n).val = (s.base n).val ∧ (∀ k < 4, k ≠ n → t.base k = s.base k)) ∧
    Completes (.announceReceiptTimeout n) s (fun t => OnlyReports { s with time := t.time } t ∧
      (t.base n).st = .holdover ∧ (t.base n).failed = true ∧ (t.base n).master = none ∧
      (t.base n).val = (s.base n).val ∧ (∀ k < 4, k ≠ n → t.base k = s.base k))) ∧
  (∀ (n p hops : Nat) (s : State), n < 2 → p < 2 → (s.base n).steerPort = some p → (s.base n).copy (1 - p) = some hops →
    Completes (.syncCopyLost n) s fun t => t = { s with time := t.time } ∧
      t.base n = { (s.base n).setCopy p none with path := 2 - p, hops := hops } ∧
      (∀ k < 4, k ≠ n → t.base k = s.base k))

/-- What the station sends and measures (R246–R249): a grandmaster's Sync, with its Follow_Up, and Announce leave by every RING
port that is up, under one sequence number; a path-delay exchange, its answer, and what the answer gives; a forwarded Sync
carries residence, link delay and ASYM in its correction; management messages are dropped and counted. The stamp of every event
message enters the transmit queue (R247, R274). -/
def Obligations.PtpMessages : Prop :=
  (∀ (n : Nat) (s : State), n < 2 → s.isGm n = true → (s.queue 6).level ≤ 56 →
    let dom := s.timeCfg (2 + n)
    let seq := s.time.ptpSeq
    let out := fun p => if s.ptpRing p then
      [(⟨8, p, dom, seq, 0, s.egressStamp p n, 0, none⟩ : PtpOut), ⟨0, p, dom, seq, 0, 0, 0, none⟩] else []
    let stamp := fun p => if s.ptpRing p then
      [(⟨txqEntry seq 0 p dom (s.egressStamp p (s.stampBase dom)), true, false⟩ : QItem)] else []
    Completes (.ptpSyncTx n) s fun t =>
      OnlyReports { s with time := { s.time with
        ptpSeq := (s.time.ptpSeq + 1) % 65536, sent := out 1 ++ out 0 ++ s.time.sent } } t ∧
      (t.queue 6).items = (s.queue 6).items ++ (stamp 0 ++ stamp 1)) ∧
  (∀ (n : Nat) (s : State), n < 2 → s.isGm n = true →
    let out := fun p => if s.ptpRing p then
      [(⟨11, p, s.timeCfg (2 + n), s.time.ptpSeq, 0, 0, s.ownClass n, s.sourceUtc n⟩ : PtpOut)] else []
    Completes (.ptpAnnounceTx n) s fun t => OnlyReports { s with time := t.time } t ∧
      t.time.ptpSeq = (s.time.ptpSeq + 1) % 65536 ∧ t.time.sent = out 1 ++ out 0 ++ s.time.sent ∧
      (t.base n).cls = s.ownClass n ∧ (t.base n).utc = s.sourceUtc n ∧ (t.base n).val = (s.base n).val ∧
      (∀ k < 4, k ≠ n → t.base k = s.base k)) ∧
  (∀ (port : Nat) (s : State), port < 2 → s.portRole port ≠ 2 → (s.queue 6).level ≤ 60 →
    let dom := s.delayDomain port
    let kind := if s.endToEnd port then 1 else 2
    let stamp := s.egressStamp port (s.stampBase dom)
    Completes (.ptpPdelayTx port) s fun t => OnlyReports { s with time := t.time } t ∧
      t.time = { s.time with
        ptpSeq := (s.time.ptpSeq + 1) % 65536
        sent := ⟨kind, port, dom, s.time.ptpSeq, 0, 0, 0, none⟩ :: s.time.sent, za := t.time.za, zb := t.time.zb } ∧
      t.tbPort port = { s.tbPort port with
        asked := some (s.time.ptpSeq, stamp)
        pdState := if (s.tbPort port).pdState = 0 then 1 else if (s.tbPort port).pdState = 1 then 3 else (s.tbPort port).pdState } ∧
      t.tbPort (1 - port) = s.tbPort (1 - port) ∧
      (t.queue 6).items = (s.queue 6).items ++ [⟨txqEntry s.time.ptpSeq kind port dom stamp, true, false⟩]) ∧
  (∀ (port id dom : Nat) (s : State), port < 2 → s.portRole port ≠ 2 → s.endToEnd port = false → (s.queue 6).level ≤ 60 →
    let n := s.stampBase dom
    Completes (.ptpPdelayRx port (.req id dom)) s fun t =>
      OnlyReports { s with time := { s.time with
        sent := ⟨10, port, dom, id, 0, s.egressStamp port n, 0, none⟩ ::
          ⟨3, port, dom, id, 0, (s.ingressStamp port n).toNat, 0, none⟩ :: s.time.sent } } t ∧
      (t.queue 6).items = (s.queue 6).items ++ [⟨txqEntry id 3 port dom (s.egressStamp port n), true, false⟩]) ∧
  (∀ (port id sent : Nat) (turnaround : Int) (s : State), port < 2 → (s.tbPort port).asked = some (id, sent) →
    s.endToEnd port = false →
    let twice := s.ingressStamp port (s.stampBase (s.delayDomain port)) - sent - turnaround * 2 ^ 16
    Completes (.ptpPdelayRx port (.resp id turnaround)) s fun t => t = { s with time := t.time } ∧
      t.tbPort port = { s.tbPort port with
        delays := ((twice / 2 ^ 25).toNat :: (s.tbPort port).delays).take 16, pdState := 2
        pdCount := sat 65535 ((s.tbPort port).pdCount + 1), asked := none } ∧
      t.tbPort (1 - port) = s.tbPort (1 - port)) ∧
  (∀ (port id sent received : Nat) (corr down : Int) (s : State), port < 2 → (s.tbPort port).asked = some (id, sent) →
    (s.tbPort port).down = some down → s.endToEnd port = true →
    let twice := down + received - sent - corr * 2 ^ 16
    Completes (.ptpPdelayRx port (.delayResp id received corr)) s fun t => t = { s with time := t.time } ∧
      t.tbPort port = { s.tbPort port with
        delays := ((twice / 2 ^ 25).toNat :: (s.tbPort port).delays).take 16, pdState := 2
        pdCount := sat 65535 ((s.tbPort port).pdCount + 1), asked := none } ∧
      t.tbPort (1 - port) = s.tbPort (1 - port)) ∧
  (∀ (port dom seq ingress : Nat) (c : Int) (s : State), port < 2 → s.portRole port = 0 → s.ptpRing (1 - port) = true →
    Completes (.ptpSyncForward port dom seq ingress c) s fun t =>
      t = if (s.domainBase dom).any s.isGm then s else { s with time := { s.time with
        sent := ⟨0, 1 - port, dom, seq,
          c + s.residence port ingress + 256 * (s.tbPort port).mean + signed 32 (s.pat.f sPortTime port 0 4), 0, 0, none⟩ ::
            s.time.sent } }) ∧
  (∀ (port : Nat) (s : State), Completes (.ptpMgmtDrop port) s fun t =>
    t = { s with time := { s.time with mgmtDrops := s.time.mgmtDrops + 1 } })

/-- PPS (R252, R275): an edge is stamped and counted, uses up the announced second, and steers the base of a PPS_TOD
grandmaster by its distance from that second less PPS_DELAY; without edges such a base goes to HOLDOVER; the output rises at a
whole second of its base and falls PPS_WIDTH · 10 ms of TB2 later. -/
def Obligations.PulsePerSecond : Prop :=
  (∀ (stamp : Nat) (s : State), (∀ n < 2, (s.isGm n && s.gmSrc n = 1) = false) →
    Completes (.ppsInEdge stamp) s fun t => OnlyReports { s with time := { s.time with
      ppsStamp := stamp, ppsCount := (s.time.ppsCount + 1) % 65536, ppsLost := false, tod := none
      ppsAt := some s.time.b2.val } } t) ∧
  (∀ (stamp sec : Nat) (s : State), s.isGm 0 = true → s.gmSrc 0 = 1 → (s.isGm 1 && s.gmSrc 1 = 1) = false →
    s.time.tod = some sec → ((s.base 0).st = .acquiring ∨ (s.base 0).st = .locked) → (s.base 0).reload = false → NoneDue s →
    let o := ((stamp : Int) + (s.base 0).val - s.selBase.val - s.pat.f sTime 0 18 2 * 2 ^ 28 - sec * secF) / 2 ^ 24
    o.natAbs ≤ 256 * 1000000000 →
    Completes (.ppsInEdge stamp) s fun t => OnlyReports { s with time := t.time, pm := t.pm } t ∧
      (t.base 0).offset = o ∧ (t.base 0).path = 3 ∧ (t.base 0).val = (s.base 0).val ∧ t.time.tod = none ∧
      t.time.ppsStamp = stamp ∧ t.time.ppsCount = (s.time.ppsCount + 1) % 65536 ∧ t.time.ppsLost = false ∧
      (∀ k < 4, k ≠ 0 → t.base k = s.base k)) ∧
  (∀ s : State, s.time.ppsLost = false → (∃ n < 2, s.isGm n = true ∧ s.gmSrc n = 1) → s.time.ppsAt ≠ some s.time.b2.val →
    Completes .ppsInLost s fun t => OnlyReports { s with time := { s.time with
      ppsLost := true
      b0 := if s.isGm 0 && s.gmSrc 0 = 1 then s.time.b0.hold else s.time.b0
      b1 := if s.isGm 1 && s.gmSrc 1 = 1 then s.time.b1.hold else s.time.b1 } } t) ∧
  (∀ s : State, s.timeCfg 20 ≠ 0xFF →
    let b := s.base (s.timeCfg 20)
    let second := b.wholeSecond s.time.ppsOut
    s.rowFirst (b.ticksTo second) false = false →
    let u := reach s (s.timeCfg 20) second
    Completes .ppsOutRise s fun t =>
      t = { u with time := { u.time with ppsOut := true, ppsEnd := u.time.b2.val + u.timeCfg 21 * 10 * msF } } ∧
      second % secF = 0) ∧
  (∀ s : State, s.time.ppsOut = true → s.rowFirst (s.time.b2.ticksTo s.time.ppsEnd) false = false →
    let u := reach s 2 s.time.ppsEnd
    Completes .ppsOutEnd s fun t => t = { u with time := { u.time with ppsOut := false } })

/-- Frequency along the ring (R255, R256) and the asymmetry procedure (R277): a lost source passes to the other port or to
holdover, and a station takes the ring's frequency source; a hop is measured in three phases, each the mean of the offsets taken
in its window, and the third gives ((OFS0 + OFS2)/2 − OFS1)/2 + ASYM as the proposal. The mean of a window without a Sync is a free
value (notes/assumptions/27.md). -/
def Obligations.FrequencyAndAsymmetry : Prop :=
  (∀ (p : Nat) (s : State), s.time.freq = .port p →
    let next := if (s.port (1 - p)).st = .up then FreqState.port (1 - p) else FreqState.holdover (1 - p)
    Completes .freqSourceLost s fun t => OnlyReports { s with time := { s.time with freq := next } } t) ∧
  (∀ (p : Nat) (s : State), s.time.freq = .holdover p →
    Completes .freqHoldoverEnd s fun t => OnlyReports { s with time := { s.time with freq := .ownRef } } t) ∧
  (∀ (st : Nat) (s : State), s.freqSource = some st → (s.time.freqSrc ≠ st ∨ s.time.freq = .ownRef) →
    let next := if s.ring.numbered && s.ring.station = st then FreqState.ownRef else FreqState.port (s.freqPort st)
    Completes .freqSourceChanged s fun t =>
      OnlyReports { s with time := { s.time with freqSrc := st, freq := next } } t) ∧
  (∀ (h : CmdHdr) (p : Bytes) (s : State), p.length = 4 → fld p 0 1 < 2 → fld p 1 1 < 3 → 10 ≤ fld p 2 2 → fld p 2 2 ≤ 300 →
    s.time.asym.any (·.ends.isSome) = false → s.selBase.path = fld p 0 1 + 1 → s.time.selected < 2 →
    Accepted 0x0404 h p s 0 = true →
    Completes (.asymMeasure h p) s fun t => Answers t 0x0404 h 0 0 [] ∧ OnlyAnswers { s with time := t.time } t ∧
      t.time.asym = some ⟨fld p 0 1, fld p 1 1,
        if fld p 1 1 = 0 then s.time.selected else ((s.time.asym.map (·.base)).getD s.time.selected),
        some (s.time.b2.val + fld p 2 2 * secF), 0, 0⟩ ∧
      t.base s.time.selected = (if fld p 1 1 = 0 then s.selBase.hold else s.selBase) ∧
      (∀ k < 4, k ≠ s.time.selected → t.base k = s.base k)) ∧
  (∀ (a : Asym) (e : Fns) (s : State), s.time.asym = some a → a.ends = some e → a.port < 2 → a.phase < 2 →
    s.rowFirst (s.time.b2.ticksTo e) false = false →
    let u := reach s 2 e
    Completes .asymPhaseDone s fun t => ∃ v, (a.count ≠ 0 → v = quot a.sum a.count ∧ t.fresh = u.fresh) ∧
      t = { u with fresh := t.fresh, time := { u.time with
        asym := some { a with ends := none }, za := t.time.za, zb := t.time.zb } } ∧
      t.tbPort a.port = (if a.phase = 0 then { u.tbPort a.port with ofs0 := v } else { u.tbPort a.port with ofs1 := v }) ∧
      t.tbPort (1 - a.port) = u.tbPort (1 - a.port)) ∧
  (∀ (a : Asym) (e : Fns) (s : State), s.time.asym = some a → a.ends = some e → a.port < 2 → a.phase = 2 →
    s.rowFirst (s.time.b2.ticksTo e) false = false →
    let u := reach s 2 e
    Completes .asymPhaseDone s fun t => ∃ v, (a.count ≠ 0 → v = quot a.sum a.count ∧ t.fresh = u.fresh) ∧
      OnlyReports { u with fresh := t.fresh, time := { u.time with asym := none, za := t.time.za, zb := t.time.zb } } t ∧
      t.tbPort a.port = { u.tbPort a.port with
        ofs2 := v, propValid := true
        proposal := 64 * ((u.tbPort a.port).ofs0 + v - 2 * (u.tbPort a.port).ofs1) + u.asymOf a.port } ∧
      t.tbPort (1 - a.port) = u.tbPort (1 - a.port))

/-- Time events (R270–R273): arming keeps the configuration and the time, or is refused LATE; disarming clears the event with
its output kept; an event fires in the first tick in which its base reads its time, or late where a step carried the base across
it; a firing with the OUTPUT action drives the output by OUT_MODE, and one with SYNC is a SYNC of source 3; the end of a pulse
lowers its output. -/
def Obligations.TimeEventsArmAndFire : Prop :=
  (∀ (h : CmdHdr) (p : Bytes) (s : State), p.length = 40 → firstBad (teArmChecks s p) = none → Accepted 0x0405 h p s 0 = true →
    let at_ := ofTime96 (fld p 16 12)
    let late := at_ ≤ (s.base (fld p 8 1)).val ∨
      ((fld p 9 1).testBit 0 = true ∧ at_ < s.instant + 2 * s.tRow + 10 * msF)
    Completes (.teArm h p) s fun t =>
      (late → Answers t 0x0405 h 2 0 [] ∧ OnlyAnswers s t) ∧
      (¬late → Answers t 0x0405 h 0 0 [] ∧ OnlyAnswers { s with time := { s.time with events := t.time.events } } t ∧
        t.tev (fld p 0 1) = { s.tev (fld p 0 1) with
          cfg := slice p 8 32, st := 1, result := 0, fires := 0, row := 0, next := at_, crossed := false } ∧
        (∀ m ≠ fld p 0 1, t.tev m = s.tev m))) ∧
  (∀ (h : CmdHdr) (n : Byte) (s : State), n.toNat < 16 → Accepted 0x0406 h [n] s 0 = true →
    Completes (.teDisarm h [n]) s fun t => Answers t 0x0406 h 0 0 [] ∧
      OnlyAnswers { s with time := { s.time with events := t.time.events } } t ∧
      t.tev n.toNat = { TimeEv.init with
        out := (s.tev n.toNat).out, pulse := (s.tev n.toNat).pulse, pulseEnd := (s.tev n.toNat).pulseEnd } ∧
      (∀ m ≠ n.toNat, t.tev m = s.tev m)) ∧
  (∀ (n : Nat) (s : State), n < 16 → s.timeRuns = true → (∀ m ≠ n, (s.tev m).st ≠ 1) → (s.tev n).st = 1 →
    s.timeCome (s.tev n) = true → s.boundaryFirst (s.tev n) = false → (s.tev n).period = 0 →
    (fld (s.tev n).cfg 1 1 = 8 ∨ fld (s.tev n).cfg 1 1 = 4 ∧ s.pm.st ≠ .watch) →
    Completes (.teFire n) s fun t =>
      let e := s.tev n
      let fired := { e with
        st := if e.crossed then 3 else 2, result := 0, fires := sat 65535 (e.fires + 1), row := s.rowAt (s.firedAt e)
        crossed := false }
      OnlyReports { s with
        time := { s.time with events := t.time.events }, fe := t.fe
        flt := { s.flt with recent := t.flt.recent, rows := t.flt.rows, sync := t.flt.sync } } t ∧
      (∀ m ≠ n, t.tev m = s.tev m) ∧
      (s.rowOpen = false ∨ s.flt.rows.row ≤ fired.row → t.ic.teFired.testBit n = true ∧ t.flt.recent = s.flt.recent) ∧
      (fld e.cfg 1 1 = 8 → t.flt.rows = s.flt.rows ∧ t.flt.sync = s.flt.sync ∧
        t.tev n = (match e.outMode with
          | 0 => { fired with out := true, pulse := false }
          | 1 => { fired with out := false, pulse := false }
          | 2 => { fired with out := !e.out, pulse := false }
          | _ => { fired with out := true, pulse := true, pulseEnd := s.time.b2.val + fld e.cfg 4 4 * 10 * nsF })) ∧
      (fld e.cfg 1 1 = 4 → t.tev n = fired ∧ t.flt.sync.lastSrc = 3 ∧
        t.flt.sync.count = sat 65535 (s.flt.sync.count + 1))) ∧
  (∀ (n : Nat) (s : State), n < 16 → s.timeRuns = true → (∀ x ∈ s.time.events, x.2.st = 1 → x.2 = s.tev n) →
    (∀ m ≠ n, (s.tev m).st ≠ 1) →
    (s.tev n).st = 1 → s.pm.st ≠ .watch → s.rowOpen = false → s.ring.egress = [] → (s.tev n).crossed = false → (s.tev n).period = 0 →
    fld (s.tev n).cfg 1 1 = 8 → (s.tev n).outMode = 0 →
    let b := s.base (s.tev n).base
    b.val < (s.tev n).next → b.slewRem = 0 → 0 < b.incr →
    Completes (.teFire n) s fun t => (t.tev n).st = 2 ∧ (t.tev n).out = true ∧ (t.tev n).fires = sat 65535 ((s.tev n).fires + 1) ∧
      (s.tev n).next ≤ (t.base (s.tev n).base).val ∧ (t.base (s.tev n).base).val < (s.tev n).next + b.incr ∧
      ∃ k, ∀ m < 4, t.base m = (s.base m).run k) ∧
  (∀ (n : Nat) (s : State), (s.tev n).pulse = true → (s.tev n).pulseEnd ≤ s.time.b2.val →
    Completes (.tePulseEnd n) s fun t => t = { s with time := { s.time with events := t.time.events }, fe := t.fe } ∧
      t.tev n = { s.tev n with out := false, pulse := false } ∧ (∀ m ≠ n, t.tev m = s.tev m))

/-- The transmit time-stamp queue Q6 (R274): its owner reads the oldest entry, which leaves it; the stamp of a delay request that
finds 64 words in it is dropped, counted and marked, and TXQ_OVERFLOW reports one such stamp. -/
def Obligations.TransmitStampQueue : Prop :=
  (∀ (byHost : Bool) (i : QItem) (r : List QItem) (s : State), byHost = s.servoExt → (s.queue 6).items = i :: r →
    i.complete = true → (s.queue 6).stalled = [] →
    Completes (.tbTxqRead byHost) s fun t => OnlyReports s t ∧ (t.queue 6).items = r ∧
      (byHost = true → t.host.readData = bytesOf i.words) ∧ (∀ q ≠ 6, t.queue q = s.queue q)) ∧
  (∀ (port : Nat) (s : State), port < 2 → s.portRole port ≠ 2 → 64 ≤ (s.queue 6).level →
    Completes (.ptpPdelayTx port) s fun t => t = { s with time := t.time } ∧ t.time.txqOvf = true ∧
      t.time.txqCount = sat 65535 (s.time.txqCount + 1) ∧ t.time.txqDue = s.time.txqDue + 1 ∧
      (t.tbPort port).asked = none) ∧
  (∀ s : State, 0 < s.time.txqDue →
    Completes .txqOverflow s fun t =>
      OnlyReports { s with time := { s.time with txqDue := s.time.txqDue - 1 } } t ∧ t.queue 6 = s.queue 6)
/-! ### Rows (chapters 01, 04, 07) -/

/-- With no commit and no base switch pending and no time event armed, time passes to the end of the row in production, which is
produced, newest of the rows held, and counted: the next row is in production on the same grid, under the same pattern and
epoch (R29, R142, R261). In an emergency bind-off the stream closes at the boundary that ends a frame cycle (R578). -/
def Obligations.BoundaryProducesOneRow : Prop :=
  ∀ (i : RowInput) (s : State), s.rowOpen = true → s.mbx.pending = none → s.time.switch = none → Undisturbed s →
    let ends := s.pm.emergency && (s.flt.rows.row + 1) % 2 ^ s.pat.cycleM = 0
    Completes (.rowBoundary i) s fun t =>
      t.flt.rows = { s.flt.rows with
        row := s.flt.rows.row + 1, last := s.rowEnd, phase := if ends then .closed else .running } ∧
      t.flt.recent.map (·.row) = (s.flt.rows.row :: s.flt.recent.map (·.row)).take 16640 ∧
      t.mbx.force = s.mbx.force ∧ t.time.selected = s.time.selected

/-- A stream that waits for its start begins with row 0 at B_(−1): the instant fixed by a START or a SYNC, else the first whole
multiple of 2^20 f_MOD periods at least 10 ms after it was ready (R165, R261, R271). A SYNC that started it has acted in row 0
(R167), B_(−1) gives a SYNC_OUT pulse where every boundary does (R149, R168), and a sequencer that is to be armed at row 0 runs
(R287). SYNC_OUT falls at the end of its pulse (R168). -/
def Obligations.StreamStartsOnItsGrid : Prop :=
  (∀ s : State, s.flt.rows.phase = .waitStart → Undisturbed s →
    Completes .rowStreamStart s fun t =>
      t.flt.rows = { s.flt.rows with
        phase := .running, row := 0, start := t.flt.rows.start, last := t.flt.rows.start, startAt := none } ∧
      t.mbx.force = s.mbx.force ∧
      (∀ b, s.flt.rows.startAt = some b → t.flt.rows.start = b) ∧
      (s.flt.rows.startAt = none → ∃ k, t.flt.rows.start = k * (2 ^ 20 * 160 * nsF) ∧
        s.flt.rows.readyAt + 10 * msF ≤ t.flt.rows.start ∧
        t.flt.rows.start < s.flt.rows.readyAt + 10 * msF + 2 ^ 20 * 160 * nsF) ∧
      t.flt.sync = { s.flt.sync with
        pending := 0, lastRow := if s.flt.sync.pending = 0 then s.flt.sync.lastRow else 0
        outHigh := s.flt.sync.outHigh || decide (s.pat.f sRow 0 2 1 = 0) } ∧
      (∀ n < 4, (s.seq n).armAt = some 0 → (t.seq n).run = .running ∧ (t.seq n).st = 0 ∧ (t.seq n).armAt = none)) ∧
  (∀ s : State, Completes .syncOutPulseEnd s fun t =>
    t = { s with flt := { s.flt with sync := { s.flt.sync with outHigh := false } } })

/-! ### Sequencers and capture (chapter 08) -/

/-- One step of a lone running sequencer outside hold-off. A transition that opens and closes nothing changes the state, one
counter, one timer and one output as its entry says, in the order of R283; MARK enters the row into its open skeins and EVENT
sends its record (R282, R284, R286, R310). An OPEN adds a skein with the next SKEIN_ID, the row as its trigger row and the
pre-trigger rows that its class buffer holds (R291, R298, R303). CLOSE of all its skeins ends them after their POST rows and
starts hold-off (R293, R296). -/
def Obligations.SequencerTakesOneTransition : Prop :=
  (∀ (n : Nat) (r : RowRec) (e : Bytes) (s : State), n < 4 → s.stepRow = some r → (s.seq n).run = .running →
    (∀ m < 4, m ≠ n → (s.seq m).run ≠ .running) → (s.seq n).disarmAt = none → (s.seq n).hold = none →
    (s.seq n).pendingOpen = none → (∀ k ∈ s.cap.skeins, k.isOpen = true → r.row < (endOf k none).1) →
    pick s n r = some e →
    let a := fld e 4 4
    let q := s.seq n
    let ci := a / 128 % 4
    let ti := a / 2048 % 4
    let c0 := if a.testBit 6 then q.cnt.set ci 0 else q.cnt
    let c1 := if a.testBit 5 then c0.set ci (sat (2 ^ 32 - 1) (c0.getD ci 0 + 1)) else c0
    let el := q.elapsed (s.pat.prog n) ti r.row r.ev.tb2
    let t0 := if a.testBit 10 then q.tmr.set ti { q.tmr.getD ti Tmr.init with running := false, value := el } else q.tmr
    let m : MarkEnt := ⟨r.row, q.st, a / 2 ^ 19 % 256, c1.getD ci 0, el⟩
    a % 4 = 0 → a.testBit 17 = false →
    Completes .tsStep s fun t =>
      t = { s with cap := { s.cap with seqs := t.cap.seqs, skeins := t.cap.skeins }, fe := t.fe, ic := t.ic, host := t.host
                   queues := t.queues } ∧
      (∀ k < 4, k ≠ n → t.seq k = { s.seq k with outPrev := (s.seq k).seen }) ∧
      t.seq n = { q with
        st := fld e 1 1, late := q.late - 1, first := false, cnt := c1
        tmr := if a.testBit 9 then t0.set ti ⟨true, 0, r.row, r.ev.tb2⟩ else t0
        out := if a.testBit 13 then bitSet q.out (a / 32768 % 4) (a.testBit 14) else q.out
        seen := if a.testBit 13 then bitSet q.out (a / 32768 % 4) (a.testBit 14) else q.out, outPrev := q.out } ∧
      t.cap.skeins = (if a.testBit 4 then (doMark s n m).cap.skeins else s.cap.skeins) ∧
      t.queues = (if a.testBit 18 then (tsEvent s n m).queues else s.queues) ∧
      (a.testBit 18 = false → t.ic = s.ic ∧ t.host = s.host)) ∧
  (∀ (n cls : Nat) (r : RowRec) (e : Bytes) (s : State), cls < 4 → n < 4 → s.stepRow = some r → (s.seq n).run = .running →
    (∀ m < 4, m ≠ n → (s.seq m).run ≠ .running) → (s.seq n).disarmAt = none → (s.seq n).hold = none →
    (s.seq n).pendingOpen = none → (∀ k ∈ s.cap.skeins, k.isOpen = true → r.row < (endOf k none).1) →
    pick s n r = some e →
    fld e 4 4 = 1 + 4 * cls → (s.openOf n).length < maxOpen (s.pat.prog n) → s.cap.skeins.length < 65536 →
    s.logFill + 13256 ≤ s.pat.logSize →
    let cfg := s.pat.skc n cls
    let first := Nat.max (r.row - fld cfg 4 2) ((s.oldestHeld (4 * n + cls) (fld cfg 4 2)).getD r.row)
    Completes .tsStep s fun t =>
      t = { s with cap := t.cap, fe := t.fe, leases := t.leases } ∧
      t.cap.skeins.length = s.cap.skeins.length + 1 ∧
      (∃ k, t.cap.skeins.getLast? = some k ∧ k.id = s.cap.nextId ∧ k.seq = n ∧ k.cls = cls ∧ k.cfg = cfg ∧ k.trig = r.row ∧
        k.first = first ∧ k.pre = r.row - first ∧ k.wpMask = s.pat.wpMask (fld cfg 48 8) ∧ k.chunks = [] ∧ k.marks = [] ∧
        k.headed = true ∧ k.closed = false ∧ k.isOpen = decide (r.row < (endOf k none).1)) ∧
      t.cap.nextId = (if s.cap.nextId = 2 ^ 32 - 1 then 1 else s.cap.nextId + 1) ∧ t.cap.newestId = s.cap.nextId ∧
      (t.seq n).lastTrig = r.row ∧ (t.seq n).lastSkein = s.cap.nextId ∧ (t.seq n).st = fld e 1 1) ∧
  (∀ (n : Nat) (r : RowRec) (e : Bytes) (s : State), n < 4 → s.stepRow = some r → (s.seq n).run = .running →
    (∀ m < 4, m ≠ n → (s.seq m).run ≠ .running) → (s.seq n).disarmAt = none → (s.seq n).hold = none →
    (s.seq n).pendingOpen = none → (∀ k ∈ s.cap.skeins, k.isOpen = true → r.row < (endOf k none).1) →
    pick s n r = some e →
    fld e 4 4 = 3 → (s.cap.skeins.map (·.id)).Nodup →
    let ends := fun k : Skein => lastOf k (some (r.row + fld k.cfg 6 2, 0))
    let mode := fld (s.pat.prog n) 2 1
    Completes .tsStep s fun t =>
      t = { s with cap := { s.cap with seqs := t.cap.seqs, skeins := t.cap.skeins }, fe := t.fe } ∧
      t.cap.skeins = s.cap.skeins.map (fun k => if k.isOpen && k.seq = n then
        { k with isOpen := false, last := some (ends k).1, endCause := (ends k).2 } else k) ∧
      (t.seq n).st = fld e 1 1 ∧ (t.seq n).out = (s.seq n).out ∧
      (t.seq n).hold = (if mode = 0 || (s.openOf n).isEmpty then none
        else some ⟨r.row, s.rowTb2 r.row, if mode = 3 then fld (s.pat.prog n) 4 4 else 0⟩))

/-- TS_ARM makes every sequencer it names that is not running step from the next row on, and TS_DISARM acts at the next row;
while no row is in production that is row 0 (R27, R287, R288). Nothing else changes but the answer. -/
def Obligations.ArmingActsAtNextRow : Prop :=
  let next := fun s : State => if s.rowOpen then s.flt.rows.row + 1 else 0
  (∀ (h : CmdHdr) (m : Byte) (s : State), m.toNat < 16 → Accepted 0x0500 h [m] s 0 = true →
    Completes (.tsArm h [m]) s fun t => Answers t 0x0500 h 0 0 [] ∧
      OnlyAnswers { s with cap := { s.cap with seqs := t.cap.seqs } } t ∧
      ∀ n, t.seq n = if n < 4 ∧ m.toNat.testBit n ∧ (s.seq n).run ≠ .running then
        { s.seq n with armAt := some (next s) } else s.seq n) ∧
  (∀ (h : CmdHdr) (m : Byte) (s : State), m.toNat < 16 → Accepted 0x0501 h [m] s 0 = true →
    Completes (.tsDisarm h [m]) s fun t => Answers t 0x0501 h 0 0 [] ∧
      OnlyAnswers { s with cap := { s.cap with seqs := t.cap.seqs } } t ∧
      ∀ n, t.seq n = if n < 4 ∧ m.toNat.testBit n then { s.seq n with disarmAt := some (next s) } else s.seq n)

/-- The log writer moves a row that is due into the log, with the header before the first, or ends the skein OVERFLOW where
the log cannot make room (R300, R301); a trailer that is due makes the skein resident, every row of it reduced (R305, R308). -/
def Obligations.LogWriterMovesRows : Prop :=
  (∀ (k : Skein) (s : State), s.cap.skeins = [k] → k.closed = false → k.seq < 4 → k.compressed = false →
    s.writeEnd k = k.moved + 1 → s.bufferFrom k ≤ k.moved →
    Completes .captureLogWrite s fun t =>
      let cs := appendRow k k.moved (rowOfSkein s k k.moved)
      let head := if k.headed then 0 else k.frameBytes
      let fits := s.logFill + ((cs.map Chunk.bytes).sum - k.chunkBytes + head) ≤ s.pat.logSize
      (fits → t = { s with cap := { s.cap with
        skeins := [{ k with headed := true, chunks := cs, moved := k.moved + 1, captured := k.captured + 1, lossEp := false }]
        blocked := false } }) ∧
      (¬fits → OnlyReports { s with cap := { s.cap with
          skeins := [{ k with isOpen := false, last := some (k.moved - 1), endCause := 3, flush := true }]
          overflows := sat 65535 (s.cap.overflows + 1), seqs := t.cap.seqs } } t ∧
        (∀ m ≠ k.seq, t.seq m = s.seq m) ∧ (k.isOpen = false → t.seq k.seq = s.seq k.seq))) ∧
  (∀ (id : Nat) (k : Skein) (s : State), s.skein? id = some k → Skein.trailerDue s k = true → k.headed = true →
    Completes (.skeinClosed id) s fun t => OnlyReports { s with cap := { s.cap with skeins := t.cap.skeins } } t ∧
      t.skein? id = some { reduceSkein s 65536 k with closed := true } ∧ ∀ x ≠ id, t.skein? x = s.skein? x)

/-- Rewind marks and readout (R306, R492): a mark names a resident skein; clearing it keeps LOST; a rewind puts the
transport's cursor before the marked skein; SKEIN_NEXT moves it to the next closed one, and answers zeros where there is none;
SKEIN_READ answers bytes of the image. -/
def Obligations.MarksAndReadout : Prop :=
  (∀ (h : CmdHdr) (p : Bytes) (k : Skein) (s : State), p.length = 8 → fld p 0 1 < 8 → fld p 1 1 < 2 →
    allZero (slice p 2 2) = true → (if fld p 4 4 = 0 then s.cap.skeins.getLast? else s.skein? (fld p 4 4)) = some k →
    Accepted 0x0502 h p s 4 = true →
    Completes (.capMarkSet h p) s fun t => Answers t 0x0502 h 0 0 (le 4 k.id) ∧
      OnlyAnswers { s with cap := { s.cap with marks := t.cap.marks } } t ∧
      t.capMark (fld p 0 1) = { s.capMark (fld p 0 1) with id := k.id, valid := true, protect := decide (fld p 1 1 = 1) } ∧
      (∀ m ≠ fld p 0 1, t.capMark m = s.capMark m)) ∧
  (∀ (h : CmdHdr) (m : Byte) (s : State), m.toNat < 8 → Accepted 0x0503 h [m] s 0 = true →
    Completes (.capMarkClear h [m]) s fun t => Answers t 0x0503 h 0 0 [] ∧
      OnlyAnswers { s with cap := { s.cap with marks := t.cap.marks } } t ∧
      t.capMark m.toNat = ⟨0, false, false, (s.capMark m.toNat).lost⟩ ∧ (∀ n ≠ m.toNat, t.capMark n = s.capMark n)) ∧
  (∀ (h : CmdHdr) (m : Byte) (s : State), m.toNat < 8 → (s.capMark m.toNat).valid = true → Accepted 0x0504 h [m] s 4 = true →
    Completes (.capRewind h [m]) s fun t => Answers t 0x0504 h 0 0 (le 4 (s.capMark m.toNat).id) ∧
      OnlyAnswers { s with cap := { s.cap with cursors := t.cap.cursors } } t ∧
      t.cursor h.via = idBefore s.cap.skeins (s.capMark m.toNat).id) ∧
  (∀ (h : CmdHdr) (k : Skein) (s : State), nextAfter s.cap.skeins (s.cursor h.via) = some k → k.closed = true →
    Accepted 0x0505 h [] s 8 = true →
    Completes (.skeinNext h []) s fun t => Answers t 0x0505 h 0 0 (le 4 k.id ++ le 4 k.imageBytes) ∧
      OnlyAnswers { s with cap := { s.cap with cursors := t.cap.cursors } } t ∧ t.cursor h.via = k.id) ∧
  (∀ (h : CmdHdr) (s : State), (∀ k, nextAfter s.cap.skeins (s.cursor h.via) = some k → k.closed = false) →
    Accepted 0x0505 h [] s 8 = true →
    Completes (.skeinNext h []) s fun t => Answers t 0x0505 h 0 0 (zeros 8) ∧ OnlyAnswers s t) ∧
  (∀ (h : CmdHdr) (p : Bytes) (k : Skein) (s : State), p.length = 24 → allZero (slice p 4 4) = true →
    allZero (slice p 21 3) = true → fld p 20 1 = 0 → 1 ≤ fld p 16 4 → fld p 16 4 ≤ 2032 → s.skein? (fld p 0 4) = some k →
    k.closed = true → Accepted 0x0506 h p s (fld p 16 4) = true →
    Completes (.skeinRead h p) s fun t => OnlyAnswers s t ∧
      Answers t 0x0506 h 0 0 (slice (skeinImage k) (fld p 8 8) (fld p 16 4)))

/-! ### Leases (chapter 01) -/

/-- An expired lease declares its holder faulty (R47). The revocation records resource, holder, cause and row in MG_LEASE_LAST
(R49), bars the holders that R48 names, and leaves the resource as R47 and R50 say: a sequencer HALTED with its skeins ended, a
descriptor channel STOPPED with REVOKED, a delivery channel with the active engine, the staged pattern and an update given up.
A release by the holder takes precedence: nothing is recorded, and the fault lapses (R41). -/
def Obligations.LeasesExpireAndAreRevoked : Prop :=
  let clears := fun (s : State) (r : LeaseRes) => { s.leases with faulty := s.leases.faulty.filter fun e => e.1 != r }
  (∀ (r : LeaseRes) (s : State), s.leaseExpires r = true → s.isFaulty r = false →
    Completes (.leaseExpiry r) s fun t =>
      t = { s with leases := { s.leases with faulty := s.leases.faulty ++ [(r, 0)] } } ∧ t.isFaulty r = true) ∧
  (∀ (r : LeaseRes) (s : State), s.leaseExpires r = false → Completes (.leaseExpiry r) s fun t => t = s) ∧
  (∀ (r : LeaseRes) (e : LeaseRes × Nat) (s : State), s.leases.faulty.find? (·.1 == r) = some e → s.leaseOwner r ≠ 0 →
    Completes (.leaseRevoked r) s fun t =>
      t.isFaulty r = false ∧ t.leases.tag = s.leaseOwner r ∧ t.leases.resource = LeaseRes.kindCode r ∧
      t.leases.cause = e.2 ∧ t.leases.valid = true ∧ t.leases.row = s.flt.rows.row ∧
      t.leases.count = sat 65535 (s.leases.count + 1) ∧ t.pending = s.pending ∧
      (barsHolder r e.2 = true → t.isBarred r (s.leaseOwner r) = true) ∧
      (r = .staging → t.mbx = { s.mbx with staged := none, stageOwner := 0 }) ∧
      (r = .fwUpdate → t.sec = { s.sec with
        updOwner := 0, chrysalis := if s.sec.chrysalis = .verified then .verified else .failed }) ∧
      (∀ n, r = .skein n → t.openOf n = [] ∧ (t.seq n).run = .halted) ∧
      (∀ n, r = .dma n → (s.dmaCh n).delivery = false → (t.dmaCh n).st = .stopped ∧ (t.dmaCh n).result = 11) ∧
      (∀ n, r = .dma n → (s.dmaCh n).delivery = true → (t.dmaCh n).owner = 0x20 + t.fe.active)) ∧
  (∀ (r : LeaseRes) (s : State), s.leaseOwner r = 0 →
    Completes (.leaseRevoked r) s fun t => t = { s with leases := clears s r }) ∧
  (∀ (r : LeaseRes) (s : State), s.isFaulty r = false → Completes (.leaseRevoked r) s fun t => t = s) ∧
  (∀ (r : LeaseRes) (s : State), s.leaseOwner r ≠ 0 →
    Completes (.resourceRelease r) s fun t => t.isFaulty r = false ∧
      t.leases.tag = s.leases.tag ∧ t.leases.count = s.leases.count ∧ t.leases.barred = s.leases.barred ∧
      (r = .staging → OnlyReports { s with
        mbx := { s.mbx with staged := none, stageOwner := 0 }, leases := clears s r } t) ∧
      (r = .fwUpdate → t = { s with sec := { s.sec with updOwner := 0 }, leases := clears s r }) ∧
      (∀ n, r = .skein n → t.openOf n = [] ∧ (t.seq n).run = (s.seq n).run) ∧
      (∀ n, r = .dma n → (s.dmaCh n).delivery = false →
        t = { s with dma := t.dma, leases := clears s r } ∧ (∀ m ≠ n, t.dmaCh m = s.dmaCh m) ∧
        t.dmaCh n = { s.dmaCh n with st := .idle, result := 0, aborting := false })) ∧
  (∀ (r : LeaseRes) (s : State), s.leaseOwner r = 0 → Completes (.resourceRelease r) s fun t => t = s)

/-! ### Power failure, resets and cast-on (chapter 16) -/

/-- PFW is filtered: a level counts from its fourth equal sample on (R578). Its assertion starts the emergency bind-off from
its cycle: it ends every other shutdown, the trail intake shuts and every driver parks, while an open row stream goes on to the
end of its frame cycle (R28, R543, R578); with no row stream open nothing is originated any more. Its end waits 100 ms, after
which cast-on follows with RESET_CAUSE 6. -/
def Obligations.PowerFailInput : Prop :=
  let fails := fun s : State => { s with
    pm := { s.pm with pfw := true, pfwWait := false, pfwCount := 0, emergency := true, binding := none, toDoze := false }
    sec := { s.sec with intakeShut := true, finishing := !(s.queue 4).items.isEmpty && s.sec.trailSt ≠ 2 && s.serialHolder = 2 } }
  (∀ (n : Nat) (s : State), s.pm.st ≠ .cocoon → s.pm.inReset = false → s.pm.pfw = false → s.pm.pfwCount + n < 4 →
    Completes (.pfwAsserted n) s fun t => t = { s with pm := { s.pm with pfwCount := s.pm.pfwCount + n } }) ∧
  (∀ (n : Nat) (s : State), s.pm.st ≠ .cocoon → s.pm.inReset = false → s.pm.pfw = true → s.pm.pfwCount + n < 4 →
    Completes (.pfwDeasserted n) s fun t => t = { s with pm := { s.pm with pfwCount := s.pm.pfwCount + n } }) ∧
  (∀ (n : Nat) (s : State), s.pm.st ≠ .cocoon → s.pm.inReset = false → s.pm.pfw = false → s.pm.emergency = false →
    4 ≤ s.pm.pfwCount + n → s.rowOpen = true →
    Completes (.pfwAsserted n) s fun t =>
      OnlyReports { fails s with flt := { s.flt with clusters := t.flt.clusters }, fe := t.fe } t ∧
      (∀ cl < 32, (t.cluster cl).drv.st = .parked ∧ (t.cluster cl).slots = (s.cluster cl).slots ∧
        (t.cluster cl).rot = (s.cluster cl).rot)) ∧
  (∀ (n : Nat) (s : State), s.pm.st ≠ .cocoon → s.pm.inReset = false → s.pm.pfw = false → s.pm.emergency = false →
    4 ≤ s.pm.pfwCount + n → s.rowOpen = false → NoneDue s →
    Completes (.pfwAsserted n) s fun t =>
      OnlyReports { fails s with
        flt := { s.flt with clusters := t.flt.clusters, rows := { s.flt.rows with phase := .closed } }
        fe := t.fe, ring := t.ring } t ∧
      (∀ cl < 32, (t.cluster cl).drv.st = .parked)) ∧
  (∀ (n : Nat) (s : State), s.pm.st ≠ .cocoon → s.pm.inReset = false → s.pm.pfw = true → 4 ≤ s.pm.pfwCount + n →
    Completes (.pfwDeasserted n) s fun t =>
      OnlyReports { s with pm := { s.pm with pfw := false, pfwWait := s.pm.emergency, pfwCount := 0 }
                           sec := { s.sec with intakeShut := s.pm.emergency && s.sec.intakeShut } } t) ∧
  (∀ s : State, s.pm.pfwWait = true → s.pm.railsOk = true →
    Completes .pfwRecoveryTimeout s fun t => t.pm.resetCause = 6 ∧ t.pm.castOn = false ∧ t.pm.emergency = false ∧
      t.sec.life = s.sec.life ∧ t.sec.trail = s.sec.trail ∧ t.mbx.store = s.mbx.store ∧ t.flt.rows.phase = .closed)

/-- A logic reset keeps the lifecycle, the fuses, the audit trail, the pattern and swatch stores, the health log, the node
cache and the straps, and takes everything else of LD and MD to its reset value (R561): by RESET_N or a lost rail and by the
RESET command; a field die keeps its supplies alone. The end of RESET_N reads the straps again (R560, R597). VAON's loss takes
the always-on copy to its defaults (R531, R568). -/
def Obligations.ResetsKeepWhatTheyMust : Prop :=
  let kept := fun s t : State =>
    t.sec.life = s.sec.life ∧ t.sec.breaks = s.sec.breaks ∧ t.sec.fuses = s.sec.fuses ∧ t.sec.secMin = s.sec.secMin ∧
    t.sec.keys = s.sec.keys ∧ t.sec.trail = s.sec.trail ∧ t.sec.recno = s.sec.recno ∧ t.sec.slots = s.sec.slots ∧
    t.mbx.store = s.mbx.store ∧ t.cal.store0 = s.cal.store0 ∧ t.cal.store1 = s.cal.store1 ∧ t.pm.hlog = s.pm.hlog ∧
    t.pm.hNext = s.pm.hNext ∧ t.pm.teds = s.pm.teds ∧ t.pm.straps = s.pm.straps ∧ t.ring.session = s.ring.session ∧
    t.hostMem = s.hostMem ∧ t.pending = s.pending
  let cleared := fun t : State =>
    t.mbx.force = [] ∧ t.mbx.staged = none ∧ t.mbx.out = [] ∧ t.flt.rows = State.reset.flt.rows ∧
    t.flt.clusters = State.reset.flt.clusters ∧ t.flt.corr = State.reset.flt.corr ∧ t.time = State.reset.time ∧
    t.cap = State.reset.cap ∧ t.fe = State.reset.fe ∧ t.leases = State.reset.leases ∧ t.kzC = State.reset.kzC ∧
    t.kzD = State.reset.kzD ∧ t.dma = [] ∧ t.queues = [] ∧ t.sec.debug = 0 ∧ t.sec.updOwner = 0
  let dies := fun s t : State => ∀ d < 2, t.die d = { FieldDie.init with
    railsOk := (s.die d).railsOk, reversed := (s.die d).reversed, outRange := (s.die d).outRange && !(s.die d).rangeBack }
  (∀ (rail : Bool) (s : State), s.pm.st ≠ .cocoon →
    Completes (.resetNAssert rail) s fun t => t.pm.inReset = true ∧ t.pm.resetCause = (if rail then 0 else 1) ∧
      t.pm.railsOk = !rail ∧ t.pm.castOn = false ∧ t.mbx.last = s.mbx.last ∧ kept s t ∧ cleared t ∧ dies s t) ∧
  (∀ s : State, s.pm.st ≠ .cocoon → s.pm.inReset = true → s.pm.held = false →
    Completes .logicPowerOnReset s fun t =>
      t = { s with fresh := s.fresh + 1
                   pm := { s.pm with inReset := false, railsOk := true, straps := Config.straps s.fresh } }) ∧
  (∀ (h : CmdHdr) (s : State), Accepted 0x0020 h [] s 0 = true →
    Completes (.reset h []) s fun t => t.pm.resetCause = 2 ∧ t.pm.castOn = false ∧
      t.mbx.last = some ⟨h.via, h.slot, 0x0020, 0, h.tag, s.flt.rows.epoch, 0, []⟩ ∧ kept s t ∧ cleared t ∧ dies s t) ∧
  (∀ s : State, Completes .vaonLost s fun t =>
    t = { s with
      pm := { s.pm with
        aonN := 4, aonInvert := false, aonEdge := 1, aonWake := true, rtc := 0, rtcAlarm := 0, cocoons := 0 }
      sec := { s.sec with aonLost := true, cocoonBreak := none, lostPower := 0 }
      ring := { s.ring with session := 0 } })

/-- CAST_ON counts a session and runs a slot that passes its checks: its security version raises the minimum, the mailbox opens,
every TEDS bus is due for its scan, and an engine that passes its test is active, the one that PREFER names where it does (R79,
R435, R553, R573). Without a usable memory or a slot the device is in recovery, with its mailbox closed (R575). -/
def Obligations.CastOnOpensMailbox : Prop :=
  (∀ (n : Nat) (a b : Bool) (s : State), s.pm.castOn = false → s.pm.inReset = false → s.pm.st = .active →
    s.sec.header.isSome = true → s.slotToRun = some n →
    Completes (.castOn true a b) s fun t => t.host.fwReady = true ∧ t.pm.castOn = true ∧ t.pm.st = .active ∧
      t.sec.fwSlot = n ∧ t.sec.secMin = Nat.max s.sec.secMin (Nat.min 64 (s.fwImage n).secVer) ∧
      t.ring.session = (s.ring.session + 1) % 65536 ∧ t.pm.tedsDue = 2 ^ 32 - 1 ∧
      ((a || b) = true → t.fe.eng t.fe.active = .active) ∧
      ((a && b) = true → t.fe.active = t.pat.f sFe 0 4 1 % 2 ∧ t.fe.eng (1 - t.fe.active) = .ready)) ∧
  (∀ (ok a b : Bool) (s : State), s.pm.castOn = false → s.pm.inReset = false → s.pm.st = .active →
    (ok = false ∨ s.sec.header = none ∨ s.slotToRun = none) →
    Completes (.castOn ok a b) s fun t =>
      OnlyReports { s with
        pm := { s.pm with castOn := true, recovery := true, noMem := !ok }, fe := t.fe
        ring := { s.ring with session := (s.ring.session + 1) % 65536 }
        sec := { s.sec with intakeShut := s.pm.pfw } } t ∧
      t.host.fwReady = s.host.fwReady ∧ t.ic.fatal = true ∧ t.fe.doHighZ = 65535)

/-- Field dies (R562, R564): the power manager starts a die that it may power; with its lanes locked the die is powered, its
factory trims are read once, its chains start from a cleared state, and it leaves PARKED at the next boundary; a data lane lost
and retrained is held per lane, and the loss of the clock or status lane takes the die down with its scan. -/
def Obligations.FieldDiesPowerUp : Prop :=
  (∀ (d : Die) (s : State), s.fieldOn = true → s.dieCan d = true → (s.die d).powered = false →
    Completes (.fieldDiePowerUp d) s fun t => t = { s with flt := { s.flt with dies := t.flt.dies } } ∧
      t.die d = { s.die d with starting := true } ∧ (∀ x ≠ d, t.die x = s.die x)) ∧
  (∀ (d : Die) (s : State), s.fieldOn = true → (s.die d).starting = true →
    Completes (.isoLanesLocked d) s fun t =>
      OnlyReports { s with flt := { s.flt with
        dies := t.flt.dies, corr := t.flt.corr, chainI := t.flt.chainI, chainQ := t.flt.chainQ } } t ∧
      t.die d = { s.die d with powered := true, starting := false, stopRow := none, trimmed := true, lanesLost := []
                               lanesBack := [], unpark := true } ∧
      (∀ x ≠ d, t.die x = s.die x) ∧ ((s.die d).trimmed = true → t.flt.corr = s.flt.corr) ∧
      (∀ sl, t.chainMem sl = (if sl ∈ dieSlices d then ChainMem.clear else s.chainMem sl) ∧
        t.quadMem sl = (if sl ∈ dieSlices d then ChainMem.clear else s.quadMem sl))) ∧
  (∀ (d : Die) (lane : Nat) (s : State), (s.die d).powered = true → (s.die d).lanesLost.contains lane = false → lane < 8 →
    Completes (.isoLaneLost d lane) s fun t => OnlyReports { s with flt := { s.flt with dies := t.flt.dies } } t ∧
      t.die d = { s.die d with lanesLost := lane :: (s.die d).lanesLost } ∧ (∀ x ≠ d, t.die x = s.die x)) ∧
  (∀ (d : Die) (lane : Nat) (s : State), (s.die d).powered = true → (s.die d).lanesLost.contains lane = false → 8 ≤ lane →
    Completes (.isoLaneLost d lane) s fun t => OnlyFault { s with auxs := t.auxs } t ∧
      t.die d = { (s.die d).down with lanesLost := [], lanesBack := [] } ∧ (t.die d).powered = false ∧
      (t.aux d).running = false ∧ (∀ cl ∈ dieClusters d, (t.cluster cl).drv.st = .parked) ∧
      (∀ x ≠ d, t.die x = s.die x ∧ t.aux x = s.aux x) ∧ (∀ cl, cl ∉ dieClusters d → t.cluster cl = s.cluster cl)) ∧
  (∀ (d : Die) (lane : Nat) (s : State), (s.die d).lanesLost.contains lane = true →
    Completes (.isoLaneRetrained d lane) s fun t => t = { s with flt := { s.flt with dies := t.flt.dies } } ∧
      t.die d = { s.die d with
        lanesLost := (s.die d).lanesLost.erase lane
        lanesBack := if s.rowOpen then lane :: (s.die d).lanesBack else (s.die d).lanesBack } ∧
      (∀ x ≠ d, t.die x = s.die x))

/-- Power states (R565, R566, R577): PWR_STATE starts the way to DOZE, to WATCH or to COCOON, or comes back from DOZE, and
BIND_OFF starts a bind-off, which closes the row stream, stops the sequencers and gives up staged and pending patterns; each
ends with its own event, once the channels have drained, in the state that was asked for. -/
def Obligations.PowerStatesAreEntered : Prop :=
  let begun := fun (t : State) (g : BindTarget) =>
    t.pm.binding = some g ∧ t.pm.toDoze = false ∧ t.flt.rows.phase = .closed ∧ t.mbx.pending = none ∧ t.mbx.staged = none ∧
      (∀ n < 4, (t.seq n).run = .idle) ∧ (∀ n < 16, (t.dmaCh n).st ≠ .running ∧ (t.dmaCh n).st ≠ .pausing)
  (∀ (h : CmdHdr) (p : Bytes) (s : State), p.length = 8 → fld p 0 1 = 2 → allZero (slice p 1 1) = true →
    s.powerBusy = false → s.pm.st = .active → Accepted 0x0700 h p s 0 = true →
    Completes (.pwrState h p) s fun t => Answers t 0x0700 h 0 0 [] ∧ t.pm.toDoze = true ∧ t.pm.st = .active ∧
      t.mbx.pending = none ∧ t.flt.rows = s.flt.rows ∧ (∀ d < 2, (t.aux d).running = false)) ∧
  (∀ (h : CmdHdr) (p : Bytes) (s : State), p.length = 8 → fld p 0 1 = 3 → allZero (slice p 1 1) = true →
    s.powerBusy = false → (s.pm.st = .active ∨ s.pm.st = .doze) → s.mbx.wait = none → Accepted 0x0700 h p s 0 = true →
    Completes (.pwrState h p) s fun t => Answers t 0x0700 h 0 0 [] ∧ begun t .cocoon ∧ t.pm.rtcAlarm = fld p 2 6) ∧
  (∀ (h : CmdHdr) (p : Bytes) (s : State), p.length = 8 → fld p 0 1 = 1 → allZero (slice p 1 1) = true →
    s.powerBusy = false → (s.pm.st = .active ∨ s.pm.st = .doze) → s.mbx.wait = none → s.noWayBack = false →
    Accepted 0x0700 h p s 0 = true →
    Completes (.pwrState h p) s fun t => Answers t 0x0700 h 0 0 [] ∧ begun t .watch) ∧
  (∀ (h : CmdHdr) (p : Bytes) (s : State), p.length = 8 → fld p 0 1 = 0 → allZero (slice p 1 1) = true →
    s.powerBusy = false → s.pm.st = .doze → Accepted 0x0700 h p s 0 = true →
    Completes (.pwrState h p) s fun t => Answers t 0x0700 h 0 0 [] ∧ t.pm.st = .active ∧ t.pm.lastWake = 8 ∧
      t.pm.wakeSubj = 0 ∧ t.flt.rows = s.flt.rows ∧
      (∀ d < 2, t.die d = { s.die d with starting := (s.die d).starting || (s.dieCan d && !(s.die d).powered) })) ∧
  (∀ (h : CmdHdr) (b : Byte) (s : State), b.toNat < 3 → s.powerBusy = false → s.mbx.wait = none →
    Accepted 0x0701 h [b, 0, 0, 0] s 0 = true →
    Completes (.bindOff h [b, 0, 0, 0]) s fun t => Answers t 0x0701 h 0 0 [] ∧ begun t (bindTargetOf b.toNat)) ∧
  (∀ (tg : BindTarget) (s : State), s.pm.binding = some tg → s.drained = true →
    Completes .bindOffDone s fun t => t.pm.binding = none ∧
      (tg = .watch → t.pm.st = .watch ∧ t.pm.sentInit = 0 ∧ t.mbx.force = s.mbx.force ∧ t.host.gen = 0) ∧
      (tg = .cocoon → t.pm.st = .cocoon ∧ t.pm.cocoons = (s.pm.cocoons + 1) % 65536 ∧
        t.pm.aonWake = (s.pat.f sPwr 0 7 1).testBit 0) ∧
      (tg = .holdReset → t.pm.inReset = true ∧ t.pm.held = true) ∧
      (tg = .castOn → t.pm.resetCause = 2 ∧ t.pm.castOn = false) ∧ t.sec.life = s.sec.life) ∧
  (∀ s : State, s.pm.toDoze = true → s.drained = true →
    Completes .powerStateChanged s fun t => t.pm.st = .doze ∧ t.pm.toDoze = false ∧
      (∀ d < 2, (t.die d).powered = false ∧ (t.aux d).running = false) ∧ t.mbx.force = s.mbx.force ∧
      t.flt.rows = s.flt.rows) ∧
  (∀ s : State, ((s.pm.binding = none ∨ s.drained = false) → Completes .bindOffDone s fun t => t = s) ∧
    ((s.pm.toDoze = false ∨ s.drained = false) → Completes .powerStateChanged s fun t => t = s))

/-- Waking (R567–R570, R572, R589): a source that takes part in the present state brings the device to ACTIVE and is named in
LAST_WAKE and WAKE_SUBJECT, of two in one cycle the lower (R591): the inputs and balls, the 2-wire port, the real-time clock,
and a sentinel that ASSERTs; from COCOON a cast-on follows. Out of reset WAKE_OUT is high from then on (R596). The code of the
real-time clock is the model's reading (notes/assumptions/39.md). -/
def Obligations.WakeSourcesBringActive : Prop :=
  (∀ (src : WakeSrc) (c n : Nat) (s : State), s.wakeCode src = some (c, n) → s.pm.binding = none → s.pm.emergency = false →
    s.pm.st ≠ .active →
    Completes (.wake src) s fun t => t.pm.st = .active ∧ t.pm.lastWake = c ∧ t.pm.wakeSubj = n ∧ t.mbx.force = s.mbx.force ∧
      t.sec = s.sec ∧ t.wakeOut = !t.pm.inReset ∧ t.ic.diCount = [] ∧
      (s.pm.st = .cocoon → t.pm.castOn = false ∧ t.pm.resetCause = 5) ∧
      (s.pm.st = .watch → t.flt.rows.row = 0 ∧ t.flt.rows.phase ≠ .running)) ∧
  (∀ (src : WakeSrc) (s : State),
    (s.wakeCode src = none ∨ s.pm.st = .active ∧ s.wokeFrom = none ∨ s.pm.binding ≠ none ∨ s.pm.emergency = true) →
    Completes (.wake src) s fun t => t = s) ∧
  (∀ (src : WakeSrc) (c n : Nat) (s : State), s.wakeCode src = some (c, n) → s.pm.binding = none → s.pm.emergency = false →
    s.pm.st = .active → s.wokeFrom.isSome = true →
    Completes (.wake src) s fun t =>
      t = if c < s.pm.lastWake then { s with pm := { s.pm with lastWake := c, wakeSubj := n } } else s) ∧
  (∀ s : State, (s.pm.st = .watch ∨ s.pm.st = .doze) → s.wokeFrom = none → s.wakeSrc 4 = true → s.pm.binding = none →
    s.pm.emergency = false →
    Completes .mgWake s fun t => t.pm.st = .active ∧ t.pm.lastWake = 5 ∧ t.pm.wakeSubj = 0 ∧ t.sec = s.sec) ∧
  (∀ s : State, s.pm.st = .cocoon → s.wokeFrom = none → s.pm.rtcAlarm ≠ 0 → s.pm.binding = none → s.pm.emergency = false →
    Completes .rtcAlarm s fun t => OnlyReports { s with pm := t.pm, fresh := t.fresh } t ∧ t.pm.st = .active ∧
      t.pm.lastWake = 7 ∧ t.pm.rtcAlarm = 0 ∧ t.pm.resetCause = 5 ∧ t.pm.castOn = false ∧ t.pm.inReset = !s.pm.railsOk) ∧
  (∀ (ch : Nat) (raw : Int) (s : State), s.pm.st = .watch → s.pm.binding = none → s.pm.emergency = false →
    s.wakeSrc 3 = true → (sentinelOne s ch raw).2 = true →
    Completes (.sentinelSample [(ch, raw)]) s fun t => t.pm.st = .active ∧ t.pm.lastWake = 4 ∧ t.pm.wakeSubj = ch) ∧
  (∀ (ch : Nat) (raw : Int) (s : State), s.pm.st = .watch → s.pm.binding = none → (sentinelOne s ch raw).2 = false →
    Completes (.sentinelSample [(ch, raw)]) s fun t =>
      t = { s with pm := { s.pm with sentInit := t.pm.sentInit, sentState := t.pm.sentState } } ∧
      ∀ c ≠ ch, t.pm.sentInit.testBit c = s.pm.sentInit.testBit c ∧ t.pm.sentState.testBit c = s.pm.sentState.testBit c)

/-- Sensors and their alarms (R582): a reading is kept with its state, peak and alarm count; a field die at or above 130 °C is
switched off, its drivers parked and its scan stopped, until every one of its sensors is below 110 °C again, when it powers up
where it may. -/
def Obligations.SensorsActOnAlarms : Prop :=
  let sensor := fun (s : State) (i : Nat) => Tbl.get Sensor.init s.pm.sensors i
  (∀ (v : Int) (e : Nat) (s : State), s.ldOn = true → v < 115 * 128 →
    Completes (.sensorUpdate [(v, e)]) s fun t => t = { s with pm := { s.pm with sensors := t.pm.sensors } } ∧
      sensor t 0 = { sensor s 0 with
        value := v, element := e % 256, st := 0, seen := true
        peak := if (sensor s 0).seen then max (sensor s 0).peak v else v } ∧
      (∀ i ≠ 0, sensor t i = sensor s i)) ∧
  (∀ (v : Int) (e : Nat) (s : State), s.ldOn = true → 130 * 128 ≤ v → (sensor s 0).st ≠ 2 →
    Completes (.sensorUpdate [(v, e)]) s fun t =>
      OnlyFault { s with auxs := t.auxs, pm := { s.pm with sensors := t.pm.sensors } } t ∧
      sensor t 0 = { sensor s 0 with
        value := v, element := e % 256, st := 2, seen := true
        peak := if (sensor s 0).seen then max (sensor s 0).peak v else v
        alarms := sat 65535 ((sensor s 0).alarms + 1) } ∧
      (∀ i ≠ 0, sensor t i = sensor s i) ∧
      (t.die 0).alarmed = true ∧ (t.die 0).powered = false ∧ t.die 1 = s.die 1 ∧ (t.aux 0).running = false ∧
      (∀ cl ∈ dieClusters 0, (t.cluster cl).drv.st = .parked) ∧ (∀ cl, cl ∉ dieClusters 0 → t.cluster cl = s.cluster cl)) ∧
  (∀ (d : Die) (s : State), (s.die d).alarmed = true → (∀ i ∈ dieSensors d, (sensor s i).value < 110 * 128) →
    Completes (.sensorAlarmClear d) s fun t => t = { s with flt := { s.flt with dies := t.flt.dies } } ∧
      t.die d = { s.die d with
        alarmed := false
        starting := (s.die d).starting ||
          (s.fieldOn && s.fieldEn d && (s.die d).railsOk && !(s.die d).reversed && !(s.die d).powered) } ∧
      (∀ x ≠ d, t.die x = s.die x))

/-- The scrubber, the 2-wire port, the core watchdogs and the health log (R576, R584–R586): a scrubber pass counts, and a bad
word in a row queue marks its row and alarms sensor 22; a read returns the register's bytes, in WATCH zeros but for the registers
of R586; a watchdog resets its core alone and lifts what barred it, unless it is the third within 10 s; a flush empties Q7 into
the region, and HLOG_READ answers from it. -/
def Obligations.ManagementServices : Prop :=
  let recent := fun s : State => s.pm.watchdogs.filter fun w => s.time.b2.val < w + 10 * secF
  (∀ (e : Bool) (s : State), s.ldOn = true →
    Completes (.mdScrub (.clean e)) s fun t =>
      t = { s with pm := { s.pm with
        scrubPasses := if e then (s.pm.scrubPasses + 1) % 2 ^ 32 else s.pm.scrubPasses } }) ∧
  (∀ (row addr : Nat) (s : State), s.ldOn = true →
    Completes (.mdScrub (.inRowQueue row addr)) s fun t =>
      OnlyReports { s with flt := { s.flt with recent := t.flt.recent }, pm := { s.pm with sensors := t.pm.sensors } } t ∧
      (Tbl.get Sensor.init t.pm.sensors 22).st = 2 ∧
      (∀ i ≠ 22, Tbl.get Sensor.init t.pm.sensors i = Tbl.get Sensor.init s.pm.sensors i) ∧
      t.flt.recent = s.flt.recent.map fun r => if r.row = row then { r with ev := { r.ev with mdFrame := true } } else r) ∧
  (∀ (b r i : Nat) (s : State), s.pm.st ≠ .cocoon → s.pm.inReset = false → i < regCount b r →
    (s.pm.st ≠ .watch ∨ watchReg b r = true) →
    Completes (.mgRead b r i) s fun t => t = { s with host := { s.host with readData := s.regBytes b r i } }) ∧
  (∀ (b r i : Nat) (s : State), s.pm.st = .watch → s.pm.inReset = false → i < regCount b r → watchReg b r = false →
    Completes (.mgRead b r i) s fun t =>
      t = { s with host := { s.host with readData := zeros (s.regBytes b r i).length } }) ∧
  (∀ (mgmt : Bool) (s : State), s.ldOn = true → (recent s).length < 2 →
    let tag := if mgmt then 2 else 1
    Completes (.coreWatchdog mgmt) s fun t =>
      t = { s with
        ic := t.ic
        leases := { s.leases with faulty := t.leases.faulty, barred := s.leases.barred.filter fun e => e.2 ≠ tag }
        pm := { s.pm with watchdogs := s.time.b2.val :: recent s, resetCause := 4 } } ∧
      (if mgmt then t.ic.activeM else t.ic.activeC) = 255 ∧
      (if mgmt then t.ic.activeC = s.ic.activeC else t.ic.activeM = s.ic.activeM) ∧ t.ic.fatal = s.ic.fatal ∧
      (s.serialHolder = tag → t.isFaulty .serialMem = true)) ∧
  (∀ (mgmt : Bool) (s : State), s.ldOn = true → 2 ≤ (recent s).length →
    Completes (.coreWatchdog mgmt) s fun t => t.ic.fatal = true ∧ t.fe.doHighZ = 65535) ∧
  (∀ s : State, s.ldOn = true → s.pm.emergency = false → s.pm.noMem = false → s.serialHolder ≠ 1 →
    (∀ i ∈ (s.queue 7).items, i.complete = true) →
    Completes .hlogFlush s fun t =>
      OnlyReports { s with pm := { s.pm with hlog := t.pm.hlog, hNext := t.pm.hNext } } t ∧
      (t.queue 7).items = [] ∧ (∀ q ≠ 7, t.queue q = s.queue q) ∧
      t.pm.hNext % 2 ^ 32 = (s.pm.hNext + (s.queue 7).items.length) % 2 ^ 32 ∧
      (s.pm.hlog.length ≤ hlogCap → t.pm.hlog.length = min hlogCap (s.pm.hlog.length + (s.queue 7).items.length))) ∧
  (∀ (h : CmdHdr) (p : Bytes) (s : State), p.length = 8 → 1 ≤ fld p 4 2 → fld p 4 2 ≤ 63 → allZero (slice p 6 2) = true →
    Accepted 0x0702 h p s (16 + 32 * fld p 4 2) = true →
    Completes (.hlogRead h p) s fun t => OnlyAnswers s t ∧
      let first := Nat.max (fld p 0 4) s.hlogOldest
      let rs := s.hlogFrom first (fld p 4 2)
      Answers t 0x0702 h 0 0 (le 4 first ++ le 2 rs.length ++ zeros 2 ++ le 4 s.hlogOldest ++ le 4 s.pm.hNext ++
        (rs.map HRec.bytes).flatten))


/-! ### Interrupts, inputs and queues (chapter 14) -/

/-- A claim returns the presented source with its count and makes it active, a completion ends it, and a mask word takes
effect at once (R497–R504). Both cores alike. -/
def Obligations.CoresClaimAndComplete : Prop :=
  (∀ (m : Bool) (s : State), let n := s.ic.present m
    Completes (.icClaim m) s fun t =>
      (s.ic.active m ≠ 255 → n = 255) ∧ (n = 255 → t = { s with ic := { s.ic with claim := 255 } }) ∧
      (n ≠ 255 →
        t = { s with ic := { s.ic with claim := t.ic.claim, activeC := t.ic.activeC, activeM := t.ic.activeM,
                                       pend := t.ic.pend, counts := t.ic.counts } } ∧
        t.ic.claim = n + 256 * (if srcCounted n then Tbl.get 0 s.ic.counts n else 1) ∧
        t.ic.active m = n ∧ t.ic.active (!m) = s.ic.active (!m) ∧
        (∀ k, t.ic.pend.testBit k = (s.ic.pend.testBit k && k ≠ n)) ∧
        (∀ k, Tbl.get 0 t.ic.counts k = if k = n ∧ srcCounted n = true then 0 else Tbl.get 0 s.ic.counts k))) ∧
  (∀ (m : Bool) (n : Nat) (s : State), n ≠ 255 → s.ic.active m = n →
    Completes (.icComplete m n) s fun t =>
      t = { s with ic := { s.ic with activeC := t.ic.activeC, activeM := t.ic.activeM, pend := t.ic.pend,
                                     actPend := t.ic.actPend } } ∧
      t.ic.active m = 255 ∧ t.ic.active (!m) = s.ic.active (!m) ∧ t.ic.actPend.testBit n = false ∧
      t.ic.pend.testBit n = (s.ic.pend.testBit n || s.ic.actPend.testBit n ||
        (srcCounted n && Tbl.get 0 s.ic.counts n ≠ 0)) ∧
      (∀ k ≠ n, t.ic.pend.testBit k = s.ic.pend.testBit k ∧ t.ic.actPend.testBit k = s.ic.actPend.testBit k)) ∧
  (∀ (m : Bool) (n : Nat) (s : State), s.ic.active m ≠ n →
    Completes (.icComplete m n) s fun t => t = { s with ic := { s.ic with bad := sat 65535 (s.ic.bad + 1) } }) ∧
  (∀ (m : Bool) (n : Nat) (w : BitVec 64) (s : State), n < 3 →
    Completes (.icMaskWrite m n w) s fun t =>
      t = { s with ic := { s.ic with cmask := t.ic.cmask, mmask := t.ic.mmask, withdrawn := t.ic.withdrawn } } ∧
      (let old := if m then s.ic.mmask else s.ic.cmask
       let new := if m then t.ic.mmask else t.ic.cmask
       ∀ k, new.testBit k = if 64 * n ≤ k ∧ k < 64 * n + 64 then w.getLsbD (k - 64 * n) else old.testBit k) ∧
      (if m then t.ic.cmask = s.ic.cmask else t.ic.mmask = s.ic.mmask))

/-- Doorbells and the edge sources fire; a level source follows its cause (R495, R503). An input's samples count while they
differ from its filtered level, and the N-th changes it: the edge belongs to the row of its date, and where EDGE selects it its
source fires (R508–R510, R512). RAW follows the samples, and an edge dated at or before the last boundary belongs to the newest
row while a sequencer has that row to step, as log entry 35 says. In the cycle of a wake it may still be named as its source
(R591). -/
def Obligations.CausesReachTheController : Prop :=
  (∀ (m : Bool) (s : State), Completes (.coreDoorbell m) s fun t => Fired s t (if m then 177 else 176)) ∧
  (∀ (n : Nat) (b : Bool) (s : State), srcUsed n = true → srcLevel n = false → ¬(128 ≤ n ∧ n ≤ 143) →
    Completes (.interruptSourcePend n b) s fun t => Fired s t n) ∧
  (∀ (n : Nat) (b : Bool) (s : State), 128 ≤ n → n ≤ 143 →
    Completes (.interruptSourcePend n b) s fun t => ∃ u : State, Fired u t n ∧ u = { s with host := u.host } ∧
      u.host.qsPend.testBit (n - 126) = true) ∧
  (∀ (n : Nat) (s : State), srcLevel n = true →
    Completes (.interruptSourcePend n (s.levelCause n)) s fun t =>
      t = { s with ic := { s.ic with level := t.ic.level, withdrawn := t.ic.withdrawn, hpend := t.ic.hpend }
                   host := t.host } ∧
      t.ic.level.testBit n = s.levelCause n ∧ (∀ k ≠ n, t.ic.level.testBit k = s.ic.level.testBit k)) ∧
  (∀ (n : Nat) (s : State), srcUsed n = false → ∀ b, Completes (.interruptSourcePend n b) s fun t => t = s) ∧
  (∀ (i n : Nat) (b : Bool) (s : State), (s.pm.st ≠ .cocoon ∨ i = 18) → s.pm.inReset = false →
    (s.ic.diLevel.testBit i = b ∨ Tbl.get 0 s.ic.diCount i + n < s.diN i) →
    Completes (.diEdge i b n) s fun t =>
      t = { s with ic := { s.ic with diRaw := t.ic.diRaw, diCount := t.ic.diCount } } ∧
      t.ic.diRaw.testBit i = (b != (s.diSetting i).1) ∧
      Tbl.get 0 t.ic.diCount i = (if s.ic.diLevel.testBit i = b then 0 else Tbl.get 0 s.ic.diCount i + n) ∧
      (∀ k ≠ i, t.ic.diRaw.testBit k = s.ic.diRaw.testBit k ∧ Tbl.get 0 t.ic.diCount k = Tbl.get 0 s.ic.diCount k)) ∧
  (∀ (i n : Nat) (b : Bool) (s : State), i < 19 → s.pm.st = .active → s.pm.inReset = false → s.ic.diLevel.testBit i ≠ b →
    s.diN i ≤ Tbl.get 0 s.ic.diCount i + n →
    let hit := edgeSel (s.diSetting i).2 b
    let early := s.rowOpen && s.dated i ≤ s.flt.rows.last && s.stepRow.isSome
    let mark := fun (m : Nat) (x : Bool) => if i < 16 && x then bitSet m i true else m
    Completes (.diEdge i b n) s fun t =>
      t = { s with ic := t.ic, host := t.host, fe := t.fe, flt := { s.flt with recent := t.flt.recent }
                   pm := { s.pm with lastWake := t.pm.lastWake, wakeSubj := t.pm.wakeSubj } } ∧
      (s.wokeFrom = none → t.pm = s.pm) ∧
      t.ic.diLevel.testBit i = b ∧ t.ic.diRaw.testBit i = (b != (s.diSetting i).1) ∧ Tbl.get 0 t.ic.diCount i = 0 ∧
      (∀ k ≠ i, t.ic.diLevel.testBit k = s.ic.diLevel.testBit k ∧ t.ic.diRaw.testBit k = s.ic.diRaw.testBit k) ∧
      (early = false → t.flt.recent = s.flt.recent ∧ t.ic.diRise = mark s.ic.diRise b ∧ t.ic.diFall = mark s.ic.diFall (!b)) ∧
      (∀ r l, early = true → s.flt.recent = r :: l → t.ic.diRise = s.ic.diRise ∧ t.ic.diFall = s.ic.diFall ∧
        t.flt.recent = { r with ev := { r.ev with diRise := mark r.ev.diRise b, diFall := mark r.ev.diFall (!b) } } :: l) ∧
      (i < 16 → Tbl.get 0 t.ic.counts (48 + i) =
        (let c := Tbl.get 0 s.ic.counts (48 + i); if hit then sat 255 (c + 1) else c)) ∧
      (i = 18 → hit = true → (t.ic.pend ||| t.ic.actPend).testBit 44 = true) ∧
      (hit = false → t.ic.pend = s.ic.pend ∧ t.ic.actPend = s.ic.actPend ∧ t.host = s.host))

/-- An item that fits enters whole; while the producer's rest is discarded nothing enters; an item that the audit-trail intake
cannot hold is lost and counted. DROP takes the current item, a flush leaves only the item that is being written, marked
TRUNCATED, and the stale timer latches STALE once, unless a read of the same cycle has rearmed it (R40, R516, R518–R520,
R541). -/
def Obligations.QueuesHoldItems : Prop :=
  (∀ (q : Nat) (ws : List (BitVec 32)) (s : State), q < 9 → qStall q = false → ws ≠ [] → (s.queue q).discard = false →
    (∀ i ∈ (s.queue q).items, i.complete = true) → (s.queue q).level + ws.length ≤ qDepth q →
    Completes (.qWrite q ws true) s fun t => OnlyReports s t ∧ (∀ r ≠ q, t.queue r = s.queue r) ∧
      (t.queue q).items = (s.queue q).items ++ [⟨ws, true, false⟩] ∧
      (t.queue q).high = Nat.max (s.queue q).high ((s.queue q).level + ws.length) ∧ (t.queue q).ovf = (s.queue q).ovf) ∧
  (∀ (q : Nat) (ws : List (BitVec 32)) (b : Bool) (s : State), q < 9 → ws ≠ [] → (s.queue q).discard = true →
    Completes (.qWrite q ws b) s fun t => OnlyReports s t ∧ (∀ r ≠ q, t.queue r = s.queue r) ∧
      (t.queue q).items = (s.queue q).items ∧ (t.queue q).discard = !b) ∧
  (∀ (ws : List (BitVec 32)) (s : State), (s.queue 4).discard = false → 512 < (s.queue 4).level + ws.length → ws ≠ [] →
    Completes (.qWrite 4 ws true) s fun t =>
      OnlyReports { s with sec := { s.sec with lostIntake := s.sec.lostIntake + 1,
                                               overflow := sat (2 ^ 32 - 1) (s.sec.overflow + 1) } } t ∧
      (t.queue 4).items = (s.queue 4).items.filter (·.complete)) ∧
  (∀ (q : Nat) (i : QItem) (r : List QItem) (s : State), q < 9 → (s.queue q).items = i :: r → (s.queue q).stalled = [] →
    Completes (.qDrop q) s fun t => OnlyReports { s with kzC := t.kzC, dma := t.dma } t ∧
      (q ≠ 8 → t.kzC = s.kzC ∧ t.dma = s.dma) ∧ (∀ k ≠ q, t.queue k = s.queue k) ∧ (t.queue q).items = r ∧
      (t.queue q).drops = sat 65535 ((s.queue q).drops + 1) ∧
      (i.complete = false → (qStall q = true → i.words.length < qItemWords q) → (t.queue q).discard = true)) ∧
  (∀ (q : Nat) (s : State), q < 9 → (s.queue q).stalled = [] → (∀ i ∈ (s.queue q).items, i.complete = true) →
    Completes (.qFlush q) s fun t => OnlyReports { s with kzC := t.kzC, dma := t.dma } t ∧
      (q ≠ 8 → t.kzC = s.kzC ∧ t.dma = s.dma) ∧ (∀ k ≠ q, t.queue k = s.queue k) ∧ (t.queue q).items = [] ∧
      (t.queue q).trunc = (s.queue q).trunc) ∧
  (∀ (q : Nat) (i : QItem) (s : State), q < 9 → (s.queue q).stalled = [] →
    (s.queue q).items.find? (fun x => !x.complete) = some i →
    Completes (.qFlush q) s fun t => OnlyReports { s with kzC := t.kzC, dma := t.dma } t ∧
      (q ≠ 8 → t.kzC = s.kzC ∧ t.dma = s.dma) ∧
      (t.queue q).items.head? = some { i with complete := true, truncated := true } ∧
      (t.queue q).trunc = sat 65535 ((s.queue q).trunc + 1)) ∧
  (∀ (q : Nat) (s : State), q < 9 → (s.queue q).items ≠ [] → (s.queue q).staleRun = true → (s.queue q).staleCfg ≠ 0 →
    (s.queue q).readAt ≠ some s.time.b2.val →
    Completes (.qStale q) s fun t => OnlyReports s t ∧ (t.queue q).stale = true ∧ (t.queue q).staleRun = false) ∧
  (∀ (q : Nat) (s : State), ((s.queue q).items = [] ∨ (s.queue q).staleRun = false ∨ (s.queue q).staleCfg = 0 ∨
      (s.queue q).readAt = some s.time.b2.val) →
    Completes (.qStale q) s fun t => t = s)

/-! ### Kilzar jobs (chapter 09) -/

/-- A job that passes R343 is posted, for the compressor with a word in Q8, and one that does not is refused with BAD_PARAM; a
free engine takes a posted job where no other holder's stream is open, and it waits while a job runs (R42, R338). A CONTINUE
without an open stream of its holder ends TRUNCATED. The end of a job sets the status register, goes to the DMA channel that
holds it while that is at work, and the engine takes the next one; a kept context is dropped after its time (R342–R346, R415).
-/
def Obligations.KilzarJobsRunAndEnd : Prop :=
  let toDma := fun (s : State) (tag : Nat) (e : KzEnd) (n : Nat) =>
    if tag = 0x30 + n ∧ ((s.dmaCh n).st = .running ∨ (s.dmaCh n).st = .pausing ∨ (s.dmaCh n).st = .draining) then
      { s.dmaCh n with kz := some e } else s.dmaCh n
  (∀ (tag : Nat) (j i : Bytes) (s : State), s.kzC.stat.busy = false → s.kzC.waiting = [] → jobOk j = true → jobOp j = 0 →
    (jobFlag j 0 = true → s.kzC.stat.isOpen = true → s.kzC.stat.holder = tag) → s.isBarred (.kilzar false) tag = false →
    Completes (.kzCompress tag j i) s fun t =>
      let r := runCompress s.kzC tag j i
      OnlyReports { s with
        kzC := { r.1 with job := some r.2, runner := tag, stat := s.kzC.stat.running ⟨tag, j, i⟩, waiting := []
                          arb := t.kzC.arb }
        leases := { s.leases with faulty := t.leases.faulty, renewed := t.leases.renewed } } t ∧
      t.kzC.stat.busy = true ∧
      (jobFlag j 0 = false → ¬(s.kzC.stat.isOpen = true ∧ s.kzC.stat.holder = tag) → r.2.result = 7 ∧ r.2.out = []) ∧
      (jobFlag j 0 = false → s.kzC.stat.isOpen = true → s.kzC.stat.holder = tag → s.kzC.headed = true → s.kzC.closing = false →
        i = [] → s.kzC.block = [] → jobFlag j 3 = false → r.2.result = 0 ∧ r.2.out = [])) ∧
  (∀ (tag : Nat) (j i : Bytes) (s : State), s.kzD.stat.busy = false → s.kzD.waiting = [] → jobOk j = true → jobOp j = 1 →
    (jobFlag j 0 = true → s.kzD.stat.isOpen = true → s.kzD.stat.holder = tag) → s.isBarred (.kilzar true) tag = false →
    Completes (.kzDecompress tag j i) s fun t =>
      let r := runDecompress s.kzD tag j i
      t = { s with
        kzD := { r.1 with job := some r.2, runner := tag, stat := s.kzD.stat.running ⟨tag, j, i⟩, kept := false, waiting := []
                          arb := t.kzD.arb }
        leases := { s.leases with faulty := t.leases.faulty, renewed := t.leases.renewed } } ∧
      t.kzD.stat.busy = true ∧
      (jobFlag j 0 = false → ¬(s.kzD.stat.isOpen = true ∧ s.kzD.stat.holder = tag) → r.2.result = 7 ∧ r.2.out = []) ∧
      (jobFlag j 0 = true → i.length < 16 → r.2.result = 1 ∧ r.2.isOpen = true ∧ r.2.inUsed = 0)) ∧
  (∀ (tag : Nat) (j i : Bytes) (s : State), s.kzC.stat.busy = true → jobOk j = true → jobOp j = 0 →
    s.isBarred (.kilzar false) tag = false →
    Completes (.kzCompress tag j i) s fun t =>
      OnlyReports { s with kzC := { s.kzC with waiting := s.kzC.waiting ++ [⟨tag, j, i⟩] } } t ∧
      ((s.queue 8).stalled = [] → (∀ x ∈ (s.queue 8).items, x.complete = true) → (s.queue 8).level < qDepth 8 →
        (t.queue 8).items = (s.queue 8).items ++ [⟨[BitVec.ofNat 32 tag], true, false⟩])) ∧
  (∀ (tag : Nat) (j i : Bytes) (s : State), s.kzD.stat.busy = true → jobOk j = true → jobOp j = 1 →
    s.isBarred (.kilzar true) tag = false →
    Completes (.kzDecompress tag j i) s fun t =>
      t = { s with kzD := { s.kzD with waiting := s.kzD.waiting ++ [⟨tag, j, i⟩] } }) ∧
  (∀ (e : KzEnd) (s : State), s.kzC.job = some e → s.kzC.waiting = [] →
    Completes (.kzJobDone false) s fun t =>
      OnlyReports { s with kzC := t.kzC, dma := t.dma } t ∧ t.kzC = { s.kzC with
        job := none, stat := t.kzC.stat, told := some (s.kzC.runner, kzStatus e.result) } ∧
      t.kzC.stat = ⟨e.result, e.holder, false, e.isOpen, e.inBit, e.inUsed, e.out.length, e.blockOut,
        if 4 ≤ e.result then sat 65535 (s.kzC.stat.errors + 1) else s.kzC.stat.errors, e.streamOut⟩ ∧
      (∀ n < 16, t.dmaCh n = toDma s s.kzC.runner e n)) ∧
  (∀ (e : KzEnd) (s : State), s.kzD.job = some e → s.kzD.waiting = [] →
    Completes (.kzJobDone true) s fun t =>
      OnlyReports { s with kzD := t.kzD, dma := t.dma } t ∧
      t.kzD = { s.kzD with
        job := none, stat := t.kzD.stat, kept := e.isOpen, told := some (s.kzD.runner, kzStatus e.result) } ∧
      t.kzD.stat = ⟨e.result, e.holder, false, e.isOpen, e.inBit, e.inUsed, e.out.length, e.blockOut,
        if 4 ≤ e.result then sat 65535 (s.kzD.stat.errors + 1) else s.kzD.stat.errors, e.streamOut⟩ ∧
      (∀ n < 16, t.dmaCh n = toDma s s.kzD.runner e n)) ∧
  (∀ (d : Bool) (e : KzEnd) (r : KzReq) (s : State),
    (if d then s.kzD.job else s.kzC.job) = some e → (if d then s.kzD.waiting else s.kzC.waiting) = [r] →
    (jobFlag r.job 0 = true → e.isOpen = true → e.holder = r.tag) →
    Completes (.kzJobDone d) s fun t =>
      (if d then t.kzD.runner else t.kzC.runner) = r.tag ∧ (if d then t.kzD.waiting else t.kzC.waiting) = [] ∧
      (if d then t.kzD.stat.busy else t.kzC.stat.busy) = true ∧ (if d then t.kzD.job else t.kzC.job).isSome = true) ∧
  (∀ s : State, s.kzD.kept = true →
    Completes .kzContextTimeout s fun t =>
      t = { s with kzD := { KzDec.init with
        stat := { s.kzD.stat with isOpen := false, holder := 0 }, told := s.kzD.told, waiting := s.kzD.waiting
        arb := s.kzD.arb } }) ∧
  (∀ (d : Bool) (tag : Nat) (j i : Bytes) (s : State),
    (jobOk j && jobOp j == b2n d) = false ∨ s.isBarred (.kilzar d) tag = true →
    let st := if (jobOk j && jobOp j == b2n d) = false then stBadParam else stTruncated
    Completes (if d then .kzDecompress tag j i else .kzCompress tag j i) s fun t =>
      t = if d then { s with kzD := { s.kzD with told := some (tag, st) } }
        else { s with kzC := { s.kzC with told := some (tag, st) } })


/-! ### Mailbox: transport, general commands, patterns (chapter 13) -/

/-- A POST takes its span and one word of Q0, or ends in a transport error with its code; writing READY frees the span; the
watchdog answers BUSY with DETAIL 0xFFFE and a transport error 5 (R458–R460, R467). -/
def Obligations.PostingAndWatchdog : Prop :=
  (∀ (port : HostPort) (slot : Nat) (s : State), slot < 8 →
    let v := portVia port
    let b := s.slotHeader v slot
    let len := fld b 4 4
    let span := spanOf (BitVec.ofNat 16 (fld b 2 2)) len
    opKnown (fld b 0 2) = true → (s.bank v).busy.testBit slot = false → len ≤ 2032 → slot + span ≤ 8 →
    (s.bank v).busy &&& spanMask slot span = 0 → s.mbxOpen = true → (s.queue 0).stalled = [] →
    (∀ i ∈ (s.queue 0).items, i.complete = true) → (s.queue 0).level < 8 →
    Completes (.mbxPost port (BitVec.ofNat 8 (2 ^ slot))) s fun t =>
      OnlyReports { s with mbx := { s.mbx with pcie := t.mbx.pcie, qspi := t.mbx.qspi, out := t.mbx.out } } t ∧
      t.bank v = { s.bank v with busy := (s.bank v).busy ||| spanMask slot span, spans := (t.bank v).spans } ∧
      t.mbx.out = s.mbx.out ++ [⟨v, slot, span, BitVec.ofNat 32 (fld b 8 4), false, false⟩] ∧
      (t.queue 0).items = (s.queue 0).items ++ [⟨[BitVec.ofNat 32 (256 * viaTag v + slot)], true, false⟩]) ∧
  (∀ (port : HostPort) (slot : Nat) (s : State), slot < 8 →
    let v := portVia port
    let b := s.slotHeader v slot
    let len := fld b 4 4
    let e := postError s v slot (spanOf (BitVec.ofNat 16 (fld b 2 2)) len) len
    e ≠ 0 →
    Completes (.mbxPost port (BitVec.ofNat 8 (2 ^ slot))) s fun t =>
      OnlyReports { s with mbx := { s.mbx with pcie := t.mbx.pcie, qspi := t.mbx.qspi } } t ∧
      t.bank v = { s.bank v with terr := bitSet (s.bank v).terr slot true, terrCode := e,
                                 terrCount := sat 65535 ((s.bank v).terrCount + 1) }) ∧
  (∀ (port : HostPort) (slot : Nat) (s : State), slot < 8 → (s.bank (portVia port)).ready.testBit slot = true →
    Completes (.mbxReadyClear port (BitVec.ofNat 8 (2 ^ slot))) s fun t =>
      let b := s.bank (portVia port)
      t = { s with mbx := { s.mbx with pcie := t.mbx.pcie, qspi := t.mbx.qspi } } ∧
      t.bank (portVia port) = { b with ready := bitSet b.ready slot false, spans := Tbl.set 0 b.spans slot 0,
                                       busy := clearBits b.busy (spanMask slot (Tbl.get 0 b.spans slot)) }) ∧
  (∀ (port : HostPort) (o : Outst) (s : State),
    s.mbx.out.find? (fun x => x.via == portVia port && x.slot == o.slot && !x.dead) = some o →
    Completes (.mbxTimeout port o.slot) s fun t =>
      let v := portVia port
      OnlyReports { s with mbx := { s.mbx with pcie := t.mbx.pcie, qspi := t.mbx.qspi, out := t.mbx.out, last := t.mbx.last } } t ∧
      t.mbx.last = some ⟨v, o.slot, fld (s.slotHeader v o.slot) 0 2, stBusy, o.tag, s.flt.rows.epoch, 0xFFFE, []⟩ ∧
      (t.bank v).ready.testBit o.slot = true ∧ (t.bank v).terr.testBit o.slot = true ∧ (t.bank v).terrCode = 5 ∧
      (t.bank v).terrCount = sat 65535 ((s.bank v).terrCount + 1))

/-- NOP, IDENT, REG_READ, REG_WRITE, the pattern store and RING_REPLAY (R489, R491, R493). A register is read as it stands
once the command is taken. -/
def Obligations.GeneralCommands : Prop :=
  (∀ (h : CmdHdr) (s : State), Accepted 0x0001 h [] s 0 = true →
    Completes (.nop h []) s fun t => Answers t 0x0001 h 0 0 [] ∧ OnlyAnswers s t) ∧
  (∀ (h : CmdHdr) (s : State), Accepted 0x0002 h [] s 24 = true →
    Completes (.ident h []) s fun t => Answers t 0x0002 h 0 0 (le 2 s.runningRelease ++ le 1 Config.stepping.toNat ++
      le 1 (lifeCode s.sec.life) ++ le 8 Config.uid.toNat ++ (digestBytes s.sec.metro).take 8 ++ le 1 s.srcNo ++
      le 1 s.ring.version ++ zeros 2) ∧ OnlyAnswers s t) ∧
  (∀ (h : CmdHdr) (p : Bytes) (b r i : Nat) (s : State), p.length = 8 → addrParts (fld p 0 4) = (b, r, i) →
    inR 1 64 (fld p 4 1) = true → allZero (slice p 5 3) = true → i < regCount b r → i + fld p 4 1 ≤ regCount b r →
    ¬(b = 4 ∧ r = 9) →
    let v := ((List.range (fld p 4 1)).map fun k => (taken 0x0010 h p s).regBytes b r (i + k)).flatten
    Accepted 0x0010 h p s v.length = true →
    Completes (.regRead h p) s fun t => Answers t 0x0010 h 0 0 v ∧ OnlyAnswers s t) ∧
  (∀ (h : CmdHdr) (p : Bytes) (b r i : Nat) (s : State), 8 ≤ p.length → addrParts (fld p 0 4) = (b, r, i) →
    allZero (slice p 4 4) = true → i < regCount b r → ¬(b = 4 ∧ (r = 3 ∨ r = 4)) →
    p.length = 8 + ((taken 0x0011 h p s).regBytes b r i).length → Accepted 0x0011 h p s 0 = true →
    Completes (.regWrite h p) s fun t => Answers t 0x0011 h 0 0 [] ∧
      ((b, r) ∉ [(1, 1), (1, 2), (1, 3), (1, 7), (1, 8), (2, 2), (3, 2), (4, 0), (4, 10), (6, 1), (13, 0), (13, 1), (16, 0),
        (16, 2), (16, 4)] → OnlyAnswers s t) ∧
      ((b, r) = (1, 8) → OnlyAnswers { s with flt := { s.flt with
        thrEvent := clearBits s.flt.thrEvent (fld p 12 4 * 2 ^ (32 * i)) } } t) ∧
      ((b, r) = (4, 0) → (fld p 8 1).testBit 0 = true → OnlyAnswers { s with time := { s.time with
        snap0 := s.time.b0.val, snap1 := s.time.b1.val, snap2 := s.time.b2.val, snap3 := s.time.b3.val,
        snapRow := t.time.snapRow } } t ∧ t.time.snapRow = s.flt.rows.row) ∧
      ((b, r) = (13, 1) → fld p 8 2 ≤ 65000 → OnlyAnswers s t ∧ (t.queue i).staleCfg = fld p 8 2)) ∧
  (∀ (h : CmdHdr) (p b : Bytes) (s : State), p.length = 4 → fld p 0 1 < 8 → allZero (slice p 1 3) = true → s.mbx.saving = none →
    s.serialShut 1 = false → patBlob s.mbx.force = some b → Accepted 0x0105 h p s 0 = true →
    Completes (.patSave h p) s fun t => Answers t 0x0105 h 0 0 [] ∧
      OnlyAnswers { s with mbx := { s.mbx with saving := some (fld p 0 1, viaTag h.via, b) }
                           leases := { s.leases with serial := t.leases.serial, serialArb := t.leases.serialArb } } t) ∧
  (∀ (h : CmdHdr) (p b : Bytes) (n o : Nat) (s : State), p.length = 4 → fld p 0 1 < 8 → allZero (slice p 1 3) = true →
    s.mbx.saving = some (n, o, b) → Accepted 0x0105 h p s 0 = true →
    Completes (.patSave h p) s fun t => Answers t 0x0105 h stBusy o [] ∧ OnlyAnswers s t) ∧
  (∀ (n o : Nat) (b : Bytes) (s : State), s.mbx.saving = some (n, o, b) → s.pm.emergency = false → s.serialHolder = 1 →
    Completes (.patSaved n) s fun t => Tbl.get [] t.mbx.store n = b ∧
      (∀ k ≠ n, Tbl.get [] t.mbx.store k = Tbl.get [] s.mbx.store k) ∧ (∀ e ∈ t.leases.faulty, e.1 ≠ .serialMem) ∧
      OnlyReports { s with mbx := { s.mbx with saving := none, store := t.mbx.store }
                           leases := { s.leases with
                             faulty := t.leases.faulty, serial := t.leases.serial, serialArb := t.leases.serialArb
                             renewed := t.leases.renewed } } t) ∧
  (∀ (h : CmdHdr) (p : Bytes) (q : Pat) (s : State), p.length = 4 → fld p 0 1 < 8 → allZero (slice p 1 3) = true →
    s.savedPat (fld p 0 1) = some q → MayStage h s = true →
    (s.isSealed = true → legalBytes q = legalBytes s.mbx.force) → Accepted 0x0106 h p s 0 = true →
    Completes (.patLoad h p) s fun t => Answers t 0x0106 h 0 0 [] ∧ Stages h q s t) ∧
  (∀ (h : CmdHdr) (p : Bytes) (s : State), p.length = 4 → fld p 0 1 < 8 → allZero (slice p 1 3) = true →
    s.savedPat (fld p 0 1) = none → Accepted 0x0106 h p s 0 = true →
    Completes (.patLoad h p) s fun t => Answers t 0x0106 h stNoResource 0 [] ∧ OnlyAnswers s t) ∧
  (∀ (h : CmdHdr) (p : Bytes) (s : State), p.length = 12 → fld p 0 1 < 64 → allZero (slice p 1 3) = true →
    inR 1 4096 (fld p 8 2) = true → allZero (slice p 10 2) = true → Accepted 0x0600 h p s 0 = true →
    Completes (.ringReplay h p) s fun t =>
      (s.isRoot = false → (∃ d, Answers t 0x0600 h stBadParam d []) ∧ OnlyAnswers s t) ∧
      (s.isRoot = true → (s.ring.enumerated && fld p 0 1 < s.ring.count) = false →
        Answers t 0x0600 h stNoResource 0 [] ∧ OnlyAnswers s t) ∧
      (s.isRoot = true → s.ring.enumerated = true → fld p 0 1 < s.ring.count → Answers t 0x0600 h 0 0 [] ∧
        OnlyAnswers s t ∧
        (let y := openGaps (s.rxSrc (fld p 0 1)) (fld p 4 4) (fld p 8 2)
         t.rxSrc (fld p 0 1) = if s.engineOn = true then { y with reqs := sat 65535 (y.reqs + 1) } else y) ∧
        ∀ n ≠ fld p 0 1, t.rxSrc n = s.rxSrc n))

/-- PAT_SET puts one checked structure into the staged pattern, which begins as the pending pattern or the one in force;
PAT_GET reads a structure of the pattern that WHICH names; PAT_DISCARD drops what the same transport has staged (R472–R476).
In SEALED a legally relevant structure is refused. -/
def Obligations.StagingCommands : Prop :=
  (∀ (h : CmdHdr) (p : Bytes) (d : StructDef) (s : State), structDef? (fld p 0 2) = some d → fld p 2 2 < d.count →
    p.length = 8 + d.size → allZero (slice p 4 4) = true → Accepted 0x0100 h p s 0 = true →
    let sid := fld p 0 2
    let b := p.drop 8
    let put := if sid = sSwatch then swatchSeal (b.take 12 ++ slice (s.stageBase.str sSwatch (fld p 2 2)) 12 10 ++ b.drop 22) else b
    let staged := s.stageBase.setStr sid (fld p 2 2) put
    Completes (.patSet h p) s fun t =>
      (s.isSealed = true → legalStruct sid = true → Answers t 0x0100 h stSealed 0 [] ∧ OnlyAnswers s t) ∧
      (¬(s.isSealed = true ∧ legalStruct sid = true) → s.mbx.staged.isSome = true → s.mbx.stageOwner ≠ viaTag h.via →
        Answers t 0x0100 h stBusy s.mbx.stageOwner [] ∧ OnlyAnswers s t) ∧
      (¬(s.isSealed = true ∧ legalStruct sid = true) → MayStage h s = true →
        (∀ o, checkStruct sid (fld p 2 2) b = some o → Answers t 0x0100 h stBadParam (8 + o) [] ∧ OnlyAnswers s t) ∧
        (checkStruct sid (fld p 2 2) b = none → Answers t 0x0100 h 0 0 [] ∧ Stages h staged s t))) ∧
  (∀ (h : CmdHdr) (p : Bytes) (d : StructDef) (q : Pat) (s : State), p.length = 8 → structDef? (fld p 0 2) = some d →
    fld p 2 2 < d.count → fld p 4 1 < 3 → allZero (slice p 5 3) = true → s.whichPat (fld p 4 1) = some q →
    Accepted 0x0101 h p s (q.str (fld p 0 2) (fld p 2 2)).length = true →
    Completes (.patGet h p) s fun t => Answers t 0x0101 h 0 0 (q.str (fld p 0 2) (fld p 2 2)) ∧ OnlyAnswers s t) ∧
  (∀ (h : CmdHdr) (s : State), Accepted 0x0102 h [] s 0 = true →
    Completes (.patDiscard h []) s fun t =>
      (s.mbx.staged.isSome = true → s.mbx.stageOwner = viaTag h.via → Answers t 0x0102 h 0 0 [] ∧
        OnlyAnswers { s with mbx := { s.mbx with staged := none, stageOwner := 0 } } t) ∧
      (s.mbx.staged = none → Answers t 0x0102 h stNotStaged 0 [] ∧ OnlyAnswers s t) ∧
      (s.mbx.staged.isSome = true → s.mbx.stageOwner ≠ viaTag h.via → Answers t 0x0102 h stBusy s.mbx.stageOwner [] ∧
        OnlyAnswers s t))

/-- COMMIT_AT of a staged pattern that passes every check becomes the pending commit, and the pattern in force does not change;
one that misses its lead is refused LATE and counted; without a row stream the commit acts at once (log entry 19).
COMMIT_CANCEL withdraws a commit while its row is far enough ahead; a swatch commit is accepted once its records are
written (R477, R478, R484, R486, R210). -/
def Obligations.CommitsArePendingUntilTheirRow : Prop :=
  (∀ (h : CmdHdr) (p : Bytes) (c : Commit) (s : State), p.length = 8 → allZero (slice p 6 2) = true →
    s.mbx.pending = none → s.mbx.wait = none → s.mbx.stageOwner = viaTag h.via →
    s.stagedCommit (viaTag h.via) (fld p 0 6) = some c →
    let s0 := { s with mbx := { s.mbx with last := none } }
    Accepted 0x0103 h p s0 16 = true →
    Completes (.commitAt h p) s fun t =>
      (s.leadOk c = false → Answers t 0x0103 h stLate 0 [] ∧ t.mbx.lateCount = sat 65535 (s.mbx.lateCount + 1) ∧
        OnlyAnswers { s with mbx := { s.mbx with lateCount := t.mbx.lateCount } } t) ∧
      (s.leadOk c = true → s.patternAns c.pat = none → touches sSkw c.keys = false → touches sSwatch c.keys = false →
        c.pat.gS ≤ s.admitted →
        (gateAll c.row (commitRecords s.pat c) (taken 0x0103 h p s0)).1 = .accepted →
        if memoryOk c.pat then
          t.mbx.staged = none ∧ t.mbx.stageOwner = 0 ∧ t.mbx.commits = sat 65535 (s.mbx.commits + 1) ∧
          (s.rowOpen = true →
            t.mbx.pending = some { c with row := Nat.max c.row (s.flt.rows.row + 1) } ∧ t.mbx.force = s.mbx.force ∧
            t.flt = s.flt ∧ Answers t 0x0103 h 0 0 (le 6 c.row ++ le 2 ((s.flt.rows.epoch + 1) % 65536) ++ le 1 c.cls ++
              zeros 1 ++ le 6 c.lastRow)) ∧
          (s.rowOpen = false → t.mbx.pending = none ∧ t.mbx.force = c.pat ∧
            t.flt.rows.epoch = (s.flt.rows.epoch + 1) % 65536)
        else Answers t 0x0103 h stNoResource 0 [] ∧ OnlyAnswers s t)) ∧
  (∀ (h : CmdHdr) (c : Commit) (s : State), s.mbx.pending = some c → Accepted 0x0104 h [] s 0 = true →
    Completes (.commitCancel h []) s fun t =>
      if s.instant + Nat.max (2 * s.tRow) msF ≤ s.startOf c.row ∧ s.flt.rows.row < c.row then
        Answers t 0x0104 h 0 0 [] ∧ t.mbx.pending = none ∧ t.mbx.force = s.mbx.force ∧ t.mbx.staged = s.mbx.staged ∧
          t.flt = s.flt ∧ (swatchKeys c.keys = [] → OnlyAnswers { s with mbx := { s.mbx with pending := none } } t)
      else Answers t 0x0104 h stLate 0 [] ∧ OnlyAnswers s t) ∧
  (∀ (w : CommitWait) (s : State), s.mbx.wait = some w → w.onRing = false → s.rowOpen = true → s.pm.emergency = false →
    s.serialHolder = 1 →
    Completes (.swatchStoreWritten true) s fun t =>
      t.mbx.pending = some { w.commit with row := Nat.max w.commit.row (s.flt.rows.row + 1) } ∧ t.mbx.staged = none ∧
      t.mbx.wait = none ∧ t.mbx.force = s.mbx.force ∧ t.flt = s.flt ∧
      ∀ ch ∈ swatchKeys w.commit.keys, Tbl.get [] t.cal.store0 ch = w.commit.pat.str sSwatch ch ∨
        Tbl.get [] t.cal.store1 ch = w.commit.pat.str sSwatch ch) ∧
  (∀ (w : CommitWait) (s : State), s.mbx.wait = some w → w.onRing = false → s.pm.emergency = false → s.serialHolder = 1 →
    Completes (.swatchStoreWritten false) s fun t =>
      t.mbx.pending = s.mbx.pending ∧ t.mbx.staged = s.mbx.staged ∧ t.mbx.wait = none ∧ t.mbx.force = s.mbx.force ∧
      t.flt = s.flt ∧ t.cal = s.cal)

/-! ### Links, enumeration and frames of the ring (chapter 10) -/

/-- A port finds its mode, locks, exchanges HELLOs and comes UP at the highest common version, or is HELD_OUT with its cause and
tries again; a root that has met one with a lower UID stays held out; BEATs are counted, and the fourth miss or a lost link
breaks the hop and wraps it (R351–R355, R374, R375, R380, R381). -/
def Obligations.LinksComeUpAndBreak : Prop :=
  (∀ (p : Nat) (s : State), p < 2 →
    Completes (.linkModeTimeout p) s fun t =>
      if ((s.port p).st = .down ∨ (s.port p).st = .negotiating) ∧ s.pm.backplane p = false then
        t = s.updPort p fun q => { q with
          st := .negotiating, tryMode := if s.pat.f sRing 0 1 1 = 1 ∨ q.tryMode = 1 then 2 else 1 }
      else t = s) ∧
  (∀ (p m : Nat) (s : State), p < 2 → (s.port p).st ≠ .off → m = 2 ∨ (m = 1 ∧ s.pat.f sRing 0 1 1 ≠ 1) →
    s.portRole p = 0 → s.ring.conflict = false →
    Completes (.blockLock p m) s fun t =>
      ((s.port p).st ≠ .up →
        HelloOut p { s.port p with st := .blockLock, mode := m, helloSeen := false, holdCause := 0 } s t) ∧
      ((s.port p).st = .up → OnlyReports { s with ring := t.ring } t ∧
        t.port p = { s.port p with st := .blockLock, mode := m, helloSeen := false, holdCause := 0, wrap := true,
                                   linkDowns := sat 65535 ((s.port p).linkDowns + 1), beatsMissed := 0, tryMode := s.firstMode } ∧
        t.port (1 - p) = s.port (1 - p))) ∧
  (∀ (p m : Nat) (s : State), p < 2 → (s.port p).st = .off ∨ (m ≠ 2 ∧ (m ≠ 1 ∨ s.pat.f sRing 0 1 1 = 1)) →
    Completes (.blockLock p m) s fun t => t = s) ∧
  (∀ (p m : Nat) (s : State), p < 2 → (s.port p).st ≠ .off → (s.port p).st ≠ .up → m = 2 ∨ (m = 1 ∧ s.pat.f sRing 0 1 1 ≠ 1) →
    s.ring.conflict = true →
    Completes (.blockLock p m) s fun t =>
      t = s.updPort p fun q => { q with st := .heldOut, mode := m, holdCause := 6 }) ∧
  (∀ (p : Nat) (s : State), p < 2 → s.portRole p = 0 →
    Completes (.helloTx p) s fun t =>
      if ((s.port p).st = .blockLock ∨ (s.port p).st = .hello) ∧ (s.port p).helloSeen = false then
        HelloOut p { s.port p with st := .hello } s t
      else t = s) ∧
  (∀ (p : Nat) (m : HelloMsg) (s : State), p < 2 → (s.port p).st = .blockLock ∨ (s.port p).st = .hello →
    ¬(m.root = true ∧ s.isRoot = true) →
    Completes (.hello p m) s fun t =>
      (s.helloCause p m = 0 →
        OnlyReports { s with ring := t.ring
                             time := { s.time with freq := t.time.freq, za := t.time.za, zb := t.time.zb } } t ∧
        linkVersion m.verMin m.verMax = some (t.port p).version ∧
        t.port p = { s.port p with
          st := .up, version := (t.port p).version, helloSeen := true, beatsMissed := 0, leaving := 0, holdCause := 0
          nbUid := m.uid, neighbour := if m.station < 64 then m.station else 0, nbValid := m.station < 64
          wrap := (s.port p).wrap && s.ring.enumerated } ∧
        t.port (1 - p) = s.port (1 - p) ∧ Tbl.get 0 t.ring.sessions m.uid.toNat = m.session + 1 ∧
        (∀ q, s.time.freq = .holdover q → t.time.freq = .port p) ∧
        ((∀ q, s.time.freq ≠ .holdover q) → t.time.freq = s.time.freq)) ∧
      (s.helloCause p m ≠ 0 → s.portRole p = 0 →
        OnlyReports (s.updPort p fun q =>
          { q with st := .heldOut, helloSeen := false, holdCause := s.helloCause p m, wrap := true }) t)) ∧
  (∀ (p : Nat) (m : HelloMsg) (s : State), p < 2 → (s.port p).st = .blockLock ∨ (s.port p).st = .hello →
    m.root = true → s.isRoot = true → s.portRole 0 = 0 → s.portRole 1 = 0 →
    Completes (.hello p m) s fun t =>
      (m.uid.toNat < Config.uid.toNat → OnlyReports { s with ring := t.ring } t ∧ t.ring.conflict = true ∧
        ∀ n < 2, (t.port n).st = .heldOut ∧ (t.port n).holdCause = 6) ∧
      (Config.uid.toNat ≤ m.uid.toNat → OnlyReports s t)) ∧
  (∀ (p : Nat) (m : HelloMsg) (s : State), p < 2 → (s.port p).st = .up → s.portRole p = 0 →
    Completes (.hello p m) s fun t =>
      if m.digest.toNat = s.pat.ringDigest then t = s
      else OnlyReports { s with ring := t.ring } t ∧ (t.port p).st = .heldOut ∧ (t.port p).holdCause = 2 ∧
        (t.port p).wrap = true ∧ t.port (1 - p) = s.port (1 - p)) ∧
  (∀ (p : Nat) (s : State), p < 2 → s.portRole p = 0 →
    Completes (.helloTimeout p) s fun t =>
      if (s.port p).st = .blockLock ∨ (s.port p).st = .hello then
        OnlyReports (s.updPort p fun q => { q with st := .heldOut, helloSeen := false, holdCause := 0, wrap := true }) t
      else t = s) ∧
  (∀ (p : Nat) (s : State), p < 2 → s.portRole p = 0 → s.ring.conflict = false →
    Completes (.heldOutRetry p) s fun t =>
      if (s.port p).st = .heldOut then
        HelloOut p { s.port p with st := .blockLock, helloSeen := false, holdCause := 0 } s t
      else t = s) ∧
  (∀ (p : Nat) (s : State), p < 2 → (s.port p).st = .heldOut → s.ring.conflict = true →
    Completes (.heldOutRetry p) s fun t => t = s.updPort p fun q => { q with holdCause := 6 }) ∧
  (∀ (p : Nat) (s : State), p < 2 → (s.port p).st = .up →
    Completes (.linkDown p) s fun t =>
      OnlyReports { s with ring := t.ring, time := { s.time with za := t.time.za, zb := t.time.zb } } t ∧
      t.port p = { s.port p with
        st := .down, mode := 0, wrap := true, linkDowns := sat 65535 ((s.port p).linkDowns + 1), helloSeen := false
        beatsMissed := 0, tryMode := if s.pat.f sRing 0 1 1 = 1 then 2 else 1 } ∧
      t.port (1 - p) = s.port (1 - p) ∧ ∀ e ∈ t.ring.egress, e.port ≠ p) ∧
  (∀ (p : Nat) (s : State), p < 2 →
    Completes (.beatTx p) s fun t =>
      if (s.port p).st = .up ∧ s.portRole p = 0 then
        ∃ f, f.kind = 7 ∧ f.seq = 0 ∧ f.dst = 0xFE ∧ f.payload = beatBytes s p 0 ∧
          t = { s with ring := { s.ring with egress := ⟨p, f, true⟩ :: s.ring.egress } }
      else t = s) ∧
  (∀ (p : Nat) (m : BeatMsg) (s : State), p < 2 →
    Completes (.beatRx p m) s fun t =>
      if (s.port p).st = .up then t = s.updPort p fun q => { q with
        beatsMissed := 0, leaving := if m.leaving = true then m.reason else 0, nbUid := m.uid
        neighbour := if m.station < 64 then m.station else q.neighbour, nbValid := q.nbValid || m.station < 64 }
      else t = s) ∧
  (∀ (p : Nat) (s : State), p < 2 → (s.port p).st = .up →
    Completes (.beatMissed p) s fun t =>
      if 3 ≤ (s.port p).beatsMissed then OnlyReports { s with ring := t.ring } t ∧
        t.port p = { s.port p with
          st := .down, mode := 0, wrap := true, linkDowns := sat 65535 ((s.port p).linkDowns + 1), helloSeen := false
          beatsMissed := 0, tryMode := s.firstMode } ∧ t.port (1 - p) = s.port (1 - p)
      else t = s.updPort p fun q => { q with beatsMissed := q.beatsMissed + 1 }) ∧
  (∀ (p : Nat) (s : State), p < 2 →
    Completes (.beDropped p) s fun t =>
      OnlyReports { s with ring := { s.ring with egress := t.ring.egress, za := t.ring.za, zb := t.ring.zb } } t ∧
      t.port p = { s.port p with beDropped := sat 65535 ((s.port p).beDropped + 1),
                                 beSecond := some (s.time.b2.val / secF) } ∧
      t.port (1 - p) = s.port (1 - p) ∧
      t.ring.egress = (match s.ring.egress.find? fun e => e.port = p && !kindGuaranteed e.frame.kind with
        | some e => s.ring.egress.erase e
        | none => s.ring.egress) ∧
      ((s.port p).beSecond = some (s.time.b2.val / secF) → t = { s with ring := t.ring }))

/-- Enumeration numbers the stations and ends with version, order and hops; TOPOLOGY waits for the frame cycle; the root's
ledger admits a rate where it fits, and a refused rate closes the row stream or refuses the commit that asked for it
(R359–R362, R376, R378, R379, R382). The requests that follow an enumeration are decided in the order of the stations, and a lower
rate takes effect at its row. The number after a gap and the modes of the links are what the rows bring (log entry 28). -/
def Obligations.EnumerationAndAdmission : Prop :=
  (∀ (p n v : Nat) (u w : BitVec 64) (s : State), p < 2 → s.isRoot = false → s.portRole p = 0 →
    ¬(s.ring.enumSent = true ∧ s.ring.enumerated = false) →
    let d := 1 - p
    Completes (.enum p n v u w) s fun t => OnlyReports { s with ring := t.ring } t ∧
      (n = 64 → ∀ k < 2, s.portRole k = 0 → (t.port k).st = .heldOut ∧ (t.port k).holdCause = 5) ∧
      (n < 64 → t.ring.station = n ∧ t.ring.numbered = true ∧ t.ring.crossed = decide (p = 1) ∧
        t.ring.enumerated = false ∧ t.ring.state = 4 ∧ t.ring.enumSent = true ∧
        ((s.port d).st = .up → s.portRole d = 0 → ∃ f, t.ring.egress = ⟨d, f, true⟩ :: s.ring.egress ∧
          f.kind = 6 ∧ f.subtype = 2 ∧
          f.payload = le 1 (n + 1) ++ le 1 (Nat.min v (s.port d).version) ++ zeros 2 ++ le 8 u.toNat) ∧
        ((s.port d).st ≠ .up → t.ring.egress = s.ring.egress))) ∧
  (∀ (p n v : Nat) (u w : BitVec 64) (s : State),
    s.portRole p ≠ 0 ∨ (s.isRoot = false ∧ s.ring.enumSent = true ∧ s.ring.enumerated = false) →
    Completes (.enum p n v u w) s fun t => t = s) ∧
  (∀ (n v : Nat) (w : BitVec 64) (s : State), 2 ≤ n → n ≤ 64 → s.isRoot = true → s.portRole 0 = 0 → s.ring.state = 4 →
    s.ring.enumSent = false → (n - 1) * 20000 + s.pat.gS ≤ s.ledgerAfter w.toNat (List.range n) (2 ^ n - 1) →
    Completes (.enum 0 n v Config.uid w) s fun t => OnlyReports { s with ring := t.ring } t ∧
      t.ring.enumerated = true ∧ t.ring.numbered = true ∧ t.ring.station = 0 ∧
      t.ring.count = n ∧ t.ring.order = List.range n ∧ t.ring.linkUp = 2 ^ n - 1 ∧ t.ring.state = 1 ∧
      t.ring.version = Nat.min v s.ring.enumVer ∧ t.ring.topoEpoch = (s.ring.topoEpoch + 1) % 65536 ∧
      ∀ k, Tbl.get 0 t.ring.ledger k = if k = 0 then s.pat.gS else if k < n then 20000 else 0) ∧
  (∀ (n v : Nat) (w : BitVec 64) (s : State), 2 ≤ n → n ≤ 64 → s.isRoot = true → s.portRole 0 = 0 → s.ring.state = 4 →
    s.ring.enumSent = false → s.ledgerAfter w.toNat (List.range n) (2 ^ n - 1) < (n - 1) * 20000 + s.pat.gS →
    s.rowOpen = false → NoneDue s →
    Completes (.enum 0 n v Config.uid w) s fun t => t.ring.enumerated = true ∧ t.ring.count = n ∧
      t.flt = { s.flt with rows := { s.flt.rows with phase := .closed, refused := true } } ∧
      ∀ k, Tbl.get 0 t.ring.ledger k = if k < n then 20000 else 0) ∧
  (∀ (next : Nat) (s : State), Completes (.enumTimeout next) s fun t =>
    if s.isRoot = true ∧ s.ring.state = 4 ∧ s.ring.enumSent = false then
      t = { s with ring := { s.ring with
        enumSent := true, count := next, beSeq := t.ring.beSeq, egress := t.ring.egress } } ∧
      (s.portRole 0 = 0 → ∃ f, t.ring.egress = ⟨0, f, true⟩ :: s.ring.egress ∧ f.kind = 6 ∧ f.subtype = 2 ∧
        f.payload = le 1 next ++ le 1 s.ring.enumVer ++ zeros 2 ++ le 8 Config.uid.toNat)
    else t = s) ∧
  (∀ (c v topo : Nat) (us : List (BitVec 64)) (w : BitVec 64) (s : State), s.isRoot = false →
    let own := us.findIdx? (· == Config.uid)
    Completes (.enumDone c v topo us w) s fun t => OnlyReports { s with ring := t.ring } t ∧
      t.ring.enumerated = (own.isSome || s.ring.numbered) ∧ t.ring.numbered = (own.isSome || s.ring.numbered) ∧
      t.ring.station = own.getD s.ring.station ∧ t.ring.count = c ∧ t.ring.version = v ∧ t.ring.uids = us ∧
      t.ring.topoEpoch = s.ring.topoEpoch ∧ t.ring.state = (if s.ring.state = 2 ∨ s.ring.state = 3 then s.ring.state else 1) ∧
      (s.bothWays = true → (s.port 0).st = .up → (s.port 1).st = .up → s.engineOn = true →
        SendsMgmt s t 0 5 (le 4 s.pat.gS ++ le 6 s.flt.rows.row ++ zeros 2))) ∧
  (∀ (c v topo : Nat) (us : List (BitVec 64)) (w : BitVec 64) (s : State), s.isRoot = true → s.ring.state = 4 →
    s.ring.enumSent = true → 2 ≤ c →
    let n := Nat.min c 64
    (n - 1) * 20000 + s.pat.gS ≤
      s.ledgerAfter w.toNat (ringOrder s.ring.count n) (2 ^ n - 1 - 2 ^ (Nat.min s.ring.count n - 1)) →
    Completes (.enumDone c v topo us w) s fun t => OnlyReports { s with ring := t.ring } t ∧
      t.ring.enumerated = true ∧ t.ring.numbered = true ∧ t.ring.station = 0 ∧ t.ring.count = n ∧
      t.ring.version = v ∧ t.ring.uids = us.take n ∧ t.ring.order = ringOrder s.ring.count n ∧
      t.ring.linkUp = 2 ^ n - 1 - 2 ^ (Nat.min s.ring.count n - 1) ∧
      t.ring.topoEpoch = (s.ring.topoEpoch + 1) % 65536) ∧
  (∀ (topo c : Nat) (l w : BitVec 64) (o : List Nat) (z : List (Nat × Nat)) (s : State), s.ring.enumerated = true →
    s.isRoot = false →
    Completes (.topology topo c l o w z) s fun t =>
      t = { s with ring := t.ring, time := { s.time with freq := t.time.freq } } ∧
      (s.rowOpen = true → t.time = s.time ∧
        t.ring = { s.ring with nextTopo := some (topo, l.toNat, o.take c), slow := t.ring.slow }) ∧
      (s.rowOpen = false → t.ring.topoEpoch = topo ∧ t.ring.linkUp = l.toNat ∧ t.ring.order = o.take c ∧
        t.ring.nextTopo = none)) ∧
  (∀ (topo c : Nat) (l w : BitVec 64) (o : List Nat) (z : List (Nat × Nat)) (s : State), s.ring.enumerated = true →
    s.isRoot = true → s.ring.nextTopo = none → s.ring.admitWait = [] →
    let up := l.toNat % 2 ^ s.ring.order.length
    Completes (.topology topo c l o w z) s fun t =>
      if up = s.ring.linkUp then
        t = { s with ring := { s.ring with left := z, slow := t.ring.slow, admitNext := t.ring.admitNext } }
      else OnlyReports { s with ring := t.ring } t ∧
        t.ring.nextTopo = some ((s.ring.topoEpoch + 1) % 65536, up, s.ring.order) ∧
        t.ring.state = ringStateOf up s.ring.order.length) ∧
  (∀ (topo c : Nat) (l w : BitVec 64) (o : List Nat) (z : List (Nat × Nat)) (s : State), s.ring.enumerated = false →
    Completes (.topology topo c l o w z) s fun t => t = s) ∧
  (∀ (st g r : Nat) (s : State), s.isRoot = true → s.ring.enumerated = true → s.ring.admitNext < st → st < s.ring.count →
    (∀ a ∈ s.ring.admitWait, a.1 ≠ s.ring.admitNext) →
    reachable s.hopsNow s.ring.order.length ((indexIn s.ring.order s.ring.admitNext).getD 0) = true →
    Completes (.admitReq st g r) s fun t => t = { s with ring := { s.ring with
      admitWait := s.ring.admitWait.filter (·.1 ≠ st) ++ [(st, g, r)] } }) ∧
  (∀ (st g r : Nat) (s : State), s.isRoot = true → s.ring.enumerated = true → st < s.ring.admitNext ∨ s.ring.count ≤ st →
    let later := g < Tbl.get 0 s.ring.ledger st ∧ s.rowOpen = true ∧ s.flt.rows.row < r
    Completes (.admitReq st g r) s fun t => t = { s with ring := t.ring } ∧
      (∀ k, Tbl.get 0 t.ring.ledger k =
        if k = st ∧ s.ledgerRoom st g = true ∧ ¬later then g else Tbl.get 0 s.ring.ledger k) ∧
      (s.ledgerRoom st g = true → later → (st, g, r) ∈ t.ring.lowering) ∧
      (s.bothWays = true → s.engineOn = true → st ≠ 0xFF → SendsMgmt s t st 6
        (le 1 (if s.ledgerRoom st g = true then 0 else 1) ++ zeros 3 ++ le 4 (t.ledgerLimit - ledgerSum t.ring.ledger)))) ∧
  (∀ (st g r : Nat) (s : State), s.isRoot = false ∨ s.ring.enumerated = false →
    Completes (.admitReq st g r) s fun t => t = s) ∧
  (∀ (n : Nat) (s : State), s.mbx.wait = none →
    Completes (.admitRsp true n) s fun t => t.ring.admitted = s.capacity * 1000 - n ∧
      (s.flt.rows.refused = false → t = { s with ring := { s.ring with admitted := t.ring.admitted } }) ∧
      (s.flt.rows.refused = true → t.flt.rows.refused = false ∧ t.flt.rows.row = 0 ∧ t.flt.rows.epoch = s.flt.rows.epoch ∧
        t.fe.nextRow = 0 ∧ (s.pm.binding = none → s.pm.emergency = false → t.flt.rows.phase ≠ .closed))) ∧
  (∀ (n : Nat) (s : State), s.mbx.wait = none →
    Completes (.admitRsp false n) s fun t => t.ring.admitted = s.capacity * 1000 - n ∧
      (s.flt.rows.refused = true → t = { s with ring := { s.ring with admitted := t.ring.admitted } }) ∧
      (s.flt.rows.refused = false → s.rowOpen = false → NoneDue s →
        OnlyReports { s with flt := { s.flt with rows := { s.flt.rows with phase := .closed, refused := true } }
                             ring := { s.ring with admitted := t.ring.admitted } } t) ∧
      (s.rowOpen = true → NoneDue s → (s.base 0).reload = false → (s.base 1).reload = false →
        s.flt.rows.refused = false → t.flt.rows.refused = true ∧ t.flt.rows.phase = .closed)) ∧
  (∀ (w : CommitWait) (n : Nat) (s : State), s.mbx.wait = some w → w.onRing = true →
    (Completes (.admitRsp false n) s fun t => t.mbx.wait = none ∧ t.mbx.pending = s.mbx.pending ∧
      t.mbx.staged = s.mbx.staged ∧ t.mbx.force = s.mbx.force ∧ t.flt = s.flt ∧
      ∀ h, w.hdr = some h → s.answerable h 0 = true → Answers t 0x0103 h 5 0 []) ∧
    (Completes .admitRspTimeout s fun t => t.mbx.wait = none ∧ t.mbx.pending = s.mbx.pending ∧
      t.mbx.staged = s.mbx.staged ∧ t.mbx.force = s.mbx.force ∧ t.flt = s.flt ∧
      ∀ h, w.hdr = some h → s.answerable h 0 = true → Answers t 0x0103 h 5 0 []) ∧
    (s.rowOpen = true → touches sSwatch w.commit.keys = false → s.sec.life = .blank →
      Completes (.admitRsp true n) s fun t => t.mbx.wait = none ∧ t.mbx.staged = none ∧ t.mbx.force = s.mbx.force ∧
        t.mbx.pending = some { w.commit with row := Nat.max w.commit.row (s.flt.rows.row + 1) })) ∧
  (∀ s : State, s.mbx.wait.any (·.onRing) = false → Completes .admitRspTimeout s fun t => t = s)

/-- Frames pass by the other port with HOPS counted, damaged or returning ones are dropped and counted; the SEQ series of an
originator is followed, its gaps are asked for, closed by replay or counted as lost; CMD frames wait for the gaps below them
(R365, R366, R371, R372, R383–R386, R461, R462). -/
def Obligations.FramesAreSequenced : Prop :=
  (∀ (p et u : Nat) (ok : Bool) (f : ZFrame) (s : State), p < 2 →
    Completes (.zimirFrameRx p et u ok f) s fun t =>
      let good := ok && zCheckOk f
      let vers := !(s.ring.enumerated && f.version ≠ s.ring.version)
      let own := s.ring.numbered && f.src = s.ring.station
      let mine := f.dst = 0xFE || (s.ring.numbered && f.dst = s.ring.station)
      let others := vers && !own && !mine && (s.port p).st = .up && f.hops < 63
      let met := s.updPort p fun q => { q with fecUncorr := sat 65535 (q.fecUncorr + u) }
      let counted := met.updPort p fun q => { q with fcsErr := sat 65535 (q.fcsErr + 1) }
      let drop := fun n => { met with ring := { met.ring with drops := Tbl.upd 0 s.ring.drops n (· + 1) } }
      if (s.port p).st = .off then t = met
      else if et = 0x8100 ∨ et = 0x88A8 then t = counted
      else if et ≠ s.pat.f sRing 0 2 2 then t = met
      else if good = false then
        if zCheckOk f = true ∧ others = true ∧ (kindGuaranteed f.kind = true ∨ f.kind = 6) then
          GoesOut (1 - p) (zSeal { f with hops := f.hops + 1 }) false counted t
        else t = counted
      else if vers = false then t = drop 3
      else if own = true then t = drop 0
      else if mine = true ∨ (s.port p).st ≠ .up then t = met
      else if 63 ≤ f.hops then t = drop 1
      else GoesOut (1 - p) (zSeal { f with hops := f.hops + 1 }) true met t) ∧
  (∀ (f : ZFrame) (s : State), kindGuaranteed f.kind = false ∨ 64 ≤ f.src ∨ s.accepts f = false →
    Completes (.guaranteedFrameRx f) s fun t => t = s) ∧
  (∀ (f : ZFrame) (s : State), kindGuaranteed f.kind = true → f.src < 64 → s.accepts f = true → s.deliveryCh f.kind = none →
    (s.rxSrc f.src).gaps = [] → s.ring.heldCmds = [] →
    let x := s.rxSrc f.src
    let d := seqDist f.seq x.high
    let b := seqDist x.high f.seq
    Completes (.guaranteedFrameRx f) s fun t => (∀ n ≠ f.src, t.rxSrc n = s.rxSrc n) ∧
      (x.started = false → OnlyReports { s with ring := t.ring } t ∧
        t.rxSrc f.src = { x with
          started := true, high := f.seq, map := 0, spans := [], recovered := (x.recovered + b2n (f.flags.getLsbD 0)) % 2 ^ 32 }) ∧
      (x.started = true → d = 1 → OnlyReports { s with ring := t.ring } t ∧ (t.rxSrc f.src).high = f.seq ∧
        (t.rxSrc f.src).gaps = [] ∧
        t.ring.accepted = s.ring.accepted ++ (if f.kind = 3 ∨ f.kind = 4 then [f] else [])) ∧
      (x.started = true → 1 < d → d ≤ 65536 → OnlyReports { s with ring := t.ring } t ∧ (t.rxSrc f.src).high = f.seq ∧
        (t.rxSrc f.src).gaps = [⟨(x.high + 1) % 2 ^ 32, d - 1⟩]) ∧
      (x.started = true → d = 0 ∨ (2 ^ 31 ≤ d ∧ (65535 < b ∨ x.map.testBit (b - 1) = true)) →
        t = { s with ring := { s.ring with rx := t.ring.rx } } ∧ t.rxSrc f.src = { x with dups := (x.dups + 1) % 2 ^ 32 })) ∧
  (∀ (f : ZFrame) (s : State), kindGuaranteed f.kind = true → f.src < 64 → s.accepts f = true → s.deliveryCh f.kind = none →
    (s.rxSrc f.src).started = true → (s.rxSrc f.src).gaps = [⟨f.seq, 1⟩] → s.ring.heldCmds = [] →
    let x := s.rxSrc f.src
    let b := seqDist x.high f.seq
    0 < b → b ≤ 65535 → x.map.testBit (b - 1) = false → f.flags.getLsbD 0 = true →
    Completes (.guaranteedFrameRx f) s fun t => OnlyReports { s with ring := t.ring } t ∧
      t.rxSrc f.src = { x with gaps := [], spans := [], map := bitSet x.map (b - 1) true, recovered := (x.recovered + 1) % 2 ^ 32 } ∧
      ∀ n ≠ f.src, t.rxSrc n = s.rxSrc n) ∧
  (∀ (f : ZFrame) (s : State), Completes (.skeinFrameRx f) s fun t =>
    t = if f.kind = 2 ∧ s.accepts f = true then { s with ring := { s.ring with skeinRx := s.ring.skeinRx ++ [f] } } else s) ∧
  (∀ (f : ZFrame) (s : State), f.kind ≠ 3 ∨ (f ∉ s.ring.accepted ∧ s.accepts f = false) →
    Completes (.cmdFrameRx f) s fun t => t = s) ∧
  (∀ (f : ZFrame) (s : State), f.kind ≠ 4 ∨ (f ∉ s.ring.accepted ∧ s.accepts f = false) →
    Completes (.rspFrameRx f) s fun t => t = s) ∧
  (∀ (f : ZFrame) (s : State), f.kind = 3 ∨ f.kind = 4 → f ∉ s.ring.accepted → f.src < 64 → s.accepts f = true →
    ((s.rxSrc f.src).take f.seq).1 = .duplicate →
    Completes (if f.kind = 3 then .cmdFrameRx f else .rspFrameRx f) s fun t =>
      t = { s with ring := { s.ring with rx := t.ring.rx } } ∧
      t.rxSrc f.src = { s.rxSrc f.src with dups := ((s.rxSrc f.src).dups + 1) % 2 ^ 32 } ∧ ∀ n ≠ f.src, t.rxSrc n = s.rxSrc n) ∧
  (∀ (f : ZFrame) (s : State), f.kind = 3 → f ∈ s.ring.accepted →
    let u := { s with ring := { s.ring with accepted := s.ring.accepted.erase f } }
    Completes (.cmdFrameRx f) s fun t =>
      (f.payload.length < 16 ∨ s.mbxOpen = false → t = u) ∧
      (16 ≤ f.payload.length → s.mbxOpen = true → s.gapBelow f = true →
        t = { u with ring := { u.ring with heldCmds := holdFrame s.ring.heldCmds f } }) ∧
      (16 ≤ f.payload.length → s.mbxOpen = true → s.gapBelow f = false → s.ring.heldCmds = [] →
        opKnown (fld f.payload 0 2) = true → fld f.payload 4 4 + 16 = f.payload.length →
        (∀ o ∈ s.mbx.out, o.via = .ring f.src → o.tag ≠ (frameHdr f).tag) →
        (s.mbx.out.filter fun o => o.via == .ring f.src).length < 8 →
        OnlyReports { u with mbx := { s.mbx with
          out := s.mbx.out ++ [⟨.ring f.src, 0, 8, (frameHdr f).tag, false, false⟩] } } t)) ∧
  (∀ (f : ZFrame) (o : Outst) (s : State), f.kind = 4 → f ∈ s.ring.accepted → 16 ≤ f.payload.length →
    o.via = .pcie ∨ o.via = .qspi →
    s.mbx.out.find? (fun x => x.remote && x.tag.toNat = fld f.payload 8 4) = some o → f.payload.length ≤ 256 * o.span →
    Completes (.rspFrameRx f) s fun t =>
      OnlyReports { s with mbx := { s.mbx with out := s.mbx.out.erase o, pcie := t.mbx.pcie, qspi := t.mbx.qspi,
                                               last := t.mbx.last }
                           ring := { s.ring with accepted := s.ring.accepted.erase f } } t ∧
      t.mbx.last = some ⟨o.via, o.slot, fld f.payload 0 2, fld f.payload 2 2, o.tag, fld f.payload 12 2,
        fld f.payload 14 2, f.payload.drop 16⟩ ∧
      (t.bank o.via).ready.testBit o.slot = true) ∧
  (∀ (f : ZFrame) (s : State), f.kind = 4 → f ∈ s.ring.accepted → f.payload.length < 16 ∨
    s.mbx.out.find? (fun x => x.remote && x.tag.toNat = fld f.payload 8 4) = none →
    Completes (.rspFrameRx f) s fun t =>
      t = { s with ring := { s.ring with accepted := s.ring.accepted.erase f } }) ∧
  (∀ (r first c : Nat) (s : State),
    let held := s.ring.replay.filter fun f => seqDist f.seq first < c
    let runs := seqRuns (fun q => !held.any (·.seq = q)) first c
    Completes (.replayReq r first c) s fun t =>
      if 1 ≤ c ∧ c ≤ 4096 ∧ s.engineOn = true then
        t = { s with ring := t.ring } ∧ t.ring.replay = s.ring.replay ∧ t.ring.gSeq = s.ring.gSeq ∧
        (held ≠ [] → t.ring.served = (s.ring.served + held.length) % 2 ^ 32) ∧
        t.ring.naks = (if runs = [] then s.ring.naks else sat 65535 (s.ring.naks + runs.length)) ∧
        (s.bothWays = true → s.ring.away = false →
          (∀ f ∈ held, ∃ e ∈ t.ring.egress, e.frame = zSeal { f with flags := f.flags ||| 1 } ∧ e.fcsOk = true) ∧
          ∀ n ∈ runs, ∃ e ∈ t.ring.egress, e.frame.kind = 6 ∧ e.frame.dst = r ∧ e.frame.subtype = 8 ∧
            e.frame.payload = le 4 n.1 ++ le 2 n.2 ++ zeros 2 ++ le 4 s.oldestSeq)
      else t = s) ∧
  (∀ (o old : Nat) (g : Gap) (s : State), (s.rxSrc o).gaps = [g] → 0 < g.count → g.count < 2 ^ 32 →
    Completes (.replayNak o g.first g.count old) s fun t => (t.rxSrc o).gaps = [] ∧
      (t.rxSrc o).expired = ((s.rxSrc o).expired + g.count) % 2 ^ 32 ∧ (∀ n ≠ o, t.rxSrc n = s.rxSrc n) ∧
      (s.ring.heldCmds = [] → OnlyReports { s with ring := { s.ring with rx := t.ring.rx, asked := t.ring.asked } } t)) ∧
  (∀ (o q : Nat) (g : Gap) (s : State), (s.rxSrc o).gaps = [g] → g.has q = true → g.count < 2 ^ 32 →
    Completes (.replayExpired o q) s fun t => (t.rxSrc o).gaps = [] ∧
      (t.rxSrc o).expired = ((s.rxSrc o).expired + g.count) % 2 ^ 32 ∧ (∀ n ≠ o, t.rxSrc n = s.rxSrc n) ∧
      (s.ring.heldCmds = [] → OnlyReports { s with ring := { s.ring with rx := t.ring.rx, asked := t.ring.asked } } t)) ∧
  (∀ (o q : Nat) (s : State), (∀ g ∈ (s.rxSrc o).gaps, g.has q = false) →
    Completes (.replayExpired o q) s (fun t => t = s) ∧ Completes (.gapWaitExpiry o q) s fun t => t = s) ∧
  (∀ (o q : Nat) (g : Gap) (s : State), (s.rxSrc o).gaps.find? (fun x => x.has q) = some g →
    (s.engineOn = false → Completes (.gapWaitExpiry o q) s fun t => t = s) ∧
    (s.engineOn = true → Completes (.gapWaitExpiry o q) s fun t => t = { s with ring := t.ring } ∧
      (o, g.first, Nat.min 4096 g.count) ∈ t.ring.asked ∧
      t.rxSrc o = { s.rxSrc o with reqs := sat 65535 ((s.rxSrc o).reqs + 1) } ∧ (∀ n ≠ o, t.rxSrc n = s.rxSrc n) ∧
      (s.bothWays = true → o ≠ 0xFF → SendsMgmt s t o 7 (le 4 g.first ++ le 2 (Nat.min 4096 g.count) ++ zeros 2)))) ∧
  (∀ (q : Nat) (s : State), Completes (.replayWindowExpiry q) s fun t =>
    t = if s.ring.replay.any (fun f => f.seq = q) = true then
        { s with ring := { s.ring with replay := s.ring.replay.filter fun f => seqAbove f.seq q } }
      else s)

/-! ### Frame engines (chapter 12) -/

/-- The active engine sends its record at the end of a frame cycle, where FE_SWITCH acts and a TOPOLOGY received is applied; a
good heartbeat is kept; a missed deadline holds the outputs and a second one hands over to a standby whose takeover check holds;
reset, copy and self-test bring an engine back (R376, R438–R450). A heartbeat and its missed deadline in one cycle count as a
heartbeat (R40). -/
def Obligations.FrameEnginesFailOver : Prop :=
  (∀ s : State, s.rowOpen = true → 0 < s.flt.rows.row → s.flt.rows.row % 2 ^ s.pat.cycleM = 0 → s.fe.active < 2 →
    Completes .frameCycleEnd s fun t => t.mbx = s.mbx ∧ t.flt.rows = s.flt.rows ∧
      (∀ topo l o, s.ring.nextTopo = some (topo, l, o) → t.ring.topoEpoch = topo ∧ t.ring.linkUp = l ∧ t.ring.order = o) ∧
      t.ring.nextTopo = none ∧
      (s.engineOn = true → s.fe.switchReq = false → t.fe.active = s.fe.active ∧ t.fe.sentRec.isSome = true ∧
        t.fe.a = s.fe.a ∧ t.fe.b = s.fe.b) ∧
      (s.engineOn = true → s.fe.switchReq = true → s.fe.eng (1 - s.fe.active) = .ready → s.fe.misses = 0 →
        t.fe.active = 1 - s.fe.active ∧ t.fe.eng (1 - s.fe.active) = .active ∧ t.fe.eng s.fe.active = .ready ∧
        t.fe.cause = 2 ∧ t.fe.switches = sat 65535 (s.fe.switches + 1) ∧ t.fe.switchReq = false)) ∧
  (∀ s : State, ¬(s.rowOpen = true ∧ 0 < s.flt.rows.row ∧ s.flt.rows.row % 2 ^ s.pat.cycleM = 0) →
    Completes .frameCycleEnd s fun t => t = s) ∧
  (∀ (r : FeRec) (s : State), s.fe.sentRec = some r →
    (Completes (.feHeartbeat true) s fun t =>
      t = { s with fe := t.fe, leases := { s.leases with renewed := t.leases.renewed } } ∧ t.fe.lastRec = some r ∧
      t.fe.sentRec = none ∧ t.fe.misses = 0 ∧ t.fe.hold = false ∧ t.fe.beatAt = some s.time.b2.val ∧
      t.fe.active = s.fe.active ∧ t.fe.a = s.fe.a ∧ t.fe.b = s.fe.b) ∧
    (Completes (.feHeartbeat false) s fun t =>
      t = { s with fe := { s.fe with sentRec := none, copyErr := sat 65535 (s.fe.copyErr + 1) } })) ∧
  (∀ (b : Bool) (s : State), s.fe.sentRec = none → Completes (.feHeartbeat b) s fun t => t = s) ∧
  (∀ (b : Bool) (s : State), s.fe.beatAt = some s.time.b2.val ∨ s.engineOn = false ∨ s.pm.binding.isSome = true ∨
    s.pm.emergency = true → Completes (.feHeartbeatMissed b) s fun t => t = s) ∧
  (∀ (b : Bool) (s : State), s.engineOn = true → s.pm.binding = none → s.pm.emergency = false →
    s.fe.beatAt ≠ some s.time.b2.val → s.fe.misses = 0 →
    Completes (.feHeartbeatMissed b) s fun t => OnlyReports { s with fe := t.fe, ring := t.ring } t ∧
      t.fe = { s.fe with misses := 1, hold := true, sentRec := none }) ∧
  (∀ s : State, s.engineOn = true → s.pm.binding = none → s.pm.emergency = false → s.fe.beatAt ≠ some s.time.b2.val →
    s.fe.misses ≠ 0 → s.fe.active < 2 →
    let agrees := s.takeoverAgrees ((s.fe.lastRec.map FeRec.gSeq).getD 0)
    (s.fe.eng s.standby = .ready →
      (agrees = true → Completes (.feHeartbeatMissed true) s fun t => t.fe.active = s.standby ∧ t.fe.eng s.standby = .active ∧
        t.fe.eng s.fe.active = .faulty ∧ t.fe.fence = some s.fe.active ∧ t.fe.cause = 1 ∧ t.fe.hold = false ∧
        t.fe.misses = 0 ∧ t.fe.switches = sat 65535 (s.fe.switches + 1) ∧
        t.fe.lastRow = (match s.fe.lastRec with | some r => r.nextRow | none => 0)) ∧
      (∀ b, b = false ∨ agrees = false → Completes (.feHeartbeatMissed b) s fun t => t.fe.bothFailed = true ∧ t.ic.fatal = true ∧
        t.fe.active = s.fe.active ∧ t.fe.eng s.fe.active = .faulty ∧
        t.fe.eng s.standby = if (s.pat.f sFe 0 5 1).testBit 0 = true ∧ s.fe.autoUsed.testBit s.standby = false then .selftest
          else .faulty)) ∧
    (s.fe.eng s.standby ≠ .ready → ∀ b,
      Completes (.feHeartbeatMissed b) s fun t => t.fe.bothFailed = true ∧ t.ic.fatal = true ∧
        t.fe.eng s.fe.active = .faulty ∧ t.fe.eng s.standby = s.fe.eng s.standby)) ∧
  (∀ (e : Nat) (s : State), e < 2 → s.fe.fence = some e →
    Completes .feFence s fun t => t = { s with fe := t.fe } ∧ t.fe.fence = none ∧
      t.fe.eng e = (if (s.pat.f sFe 0 5 1).testBit 0 ∧ s.fe.autoUsed.testBit e = false ∧ s.fe.eng e = .faulty then .selftest
        else s.fe.eng e) ∧ t.fe.eng (1 - e) = s.fe.eng (1 - e)) ∧
  (∀ s : State, s.fe.fence = none → Completes .feFence s fun t => t = s) ∧
  (∀ (h : CmdHdr) (s : State), Accepted 0x0601 h [] s 0 = true →
    Completes (.feSwitch h []) s fun t =>
      if s.engineOn = true ∧ s.fe.eng s.standby = .ready ∧ s.fe.misses = 0 then
        Answers t 0x0601 h 0 0 [] ∧ OnlyAnswers { s with fe := { s.fe with switchReq := true } } t
      else Answers t 0x0601 h stBusy 0 [] ∧ OnlyAnswers s t) ∧
  (∀ (h : CmdHdr) (p : Bytes) (s : State), p.length = 1 → fld p 0 1 < 2 → Accepted 0x0602 h p s 0 = true →
    Completes (.feReset h p) s fun t =>
      if s.fe.eng (fld p 0 1) = .active then Answers t 0x0602 h stBusy 0 [] ∧ OnlyAnswers s t
      else Answers t 0x0602 h 0 0 [] ∧ OnlyAnswers { s with fe := t.fe } t ∧ t.fe.eng (fld p 0 1) = .selftest ∧
        t.fe.eng (1 - fld p 0 1) = s.fe.eng (1 - fld p 0 1) ∧ t.fe.active = s.fe.active ∧ t.fe.switchReq = false) ∧
  (∀ (e : Nat) (pass : Bool) (s : State), e < 2 → s.fe.eng e = .selftest →
    Completes (.feResetDone e pass) s fun t =>
      (pass = false → t.fe.eng e = .faulty ∧ OnlyReports { s with fe := t.fe } t) ∧
      (pass = true → s.engineOn = true → t.fe.eng e = .resync ∧ OnlyReports { s with fe := t.fe } t) ∧
      (pass = true → s.engineOn = false → t.fe.eng e = .active ∧ t.fe.active = e ∧ t.fe.bothFailed = false ∧
        t.fe.hold = false ∧ t.fe.misses = 0)) ∧
  (∀ (e : Nat) (s : State), e < 2 → s.fe.eng e = .resync → s.engineOn = true →
    Completes (.feResyncDone e) s fun t => OnlyReports { s with fe := t.fe } t ∧ t.fe.eng e = .ready ∧
      t.fe.copy = some s.fullCopy ∧ t.fe.eng (1 - e) = s.fe.eng (1 - e) ∧ t.fe.passes = 0 ∧ t.fe.active = s.fe.active ∧
      t.fe.autoUsed.testBit e = false) ∧
  (∀ (e : Nat) (s : State), (s.fe.eng e ≠ .selftest → ∀ b, Completes (.feResetDone e b) s fun t => t = s) ∧
    (s.fe.eng e ≠ .resync → Completes (.feResyncDone e) s fun t => t = s)) ∧
  (∀ (pct : Nat) (s : State), s.fe.eng s.standby = .ready →
    (Completes (.feSelftestStep false pct) s fun t =>
      let n := if 100 ≤ pct ∧ s.fe.passPct < 100 then sat 65535 (s.fe.passes + 1) else s.fe.passes
      t = { s with fe := { s.fe with recheck := false, passPct := Nat.min 100 pct, passes := n } }) ∧
    (s.fe.recheck = false → Completes (.feSelftestStep true pct) s fun t =>
      OnlyReports { s with fe := { s.fe with recheck := true, mismatch := sat 65535 (s.fe.mismatch + 1) } } t) ∧
    (s.fe.recheck = true → s.fe.active < 2 → Completes (.feSelftestStep true pct) s fun t =>
      OnlyReports { s with fe := t.fe } t ∧ t.fe.mismatch = sat 65535 (s.fe.mismatch + 1) ∧ t.fe.active = s.fe.active ∧
      t.fe.eng s.standby = if (s.pat.f sFe 0 5 1).testBit 0 = true ∧ s.fe.autoUsed.testBit s.standby = false then .selftest
        else .faulty)) ∧
  (∀ (m : Bool) (pct : Nat) (s : State), s.fe.eng s.standby ≠ .ready → Completes (.feSelftestStep m pct) s fun t => t = s)

/-! ### Host ports and DMA (chapter 11) -/

/-- The link comes up, degrades and is lost; configuration requests are answered once the firmware is ready; a link loss or a
Function Level Reset ends the channels at work and the PCIe transport. The ports write and read the map of R401 in aligned
words, a wide register is latched, and refused accesses are counted (R395, R396, R398–R407, R469). -/
def Obligations.HostPortsServeTheMap : Prop :=
  (∀ (g w m : Nat) (r : Bool) (s : State),
    Completes (.hostLinkUp g w m r) s fun t => OnlyReports s t ∧ t.host.gen = g ∧ t.host.width = w ∧ t.host.mps = m ∧
      t.host.reversed = r ∧ t.host.cameUp = true ∧ t.host.inReset = false ∧
      (s.linkOk = true → s.hCap ≤ hostCap g w m → t = { s with host := { s.host with
        gen := g, width := w, mps := m, reversed := r, cameUp := true, inReset := false } })) ∧
  (∀ (g w : Nat) (s : State), Completes (.hostLinkDegraded g w) s fun t =>
    if s.linkOk = true ∧ hostCap g w s.host.mps < s.hCap then OnlyReports s t ∧ t.host.gen = g ∧ t.host.width = w
    else t = s) ∧
  (∀ (c : Instr) (s : State), s.linkOk = true → c = .hostLinkDown ∨ c = .pciePerst ∨ c = .hostFlr →
    Completes c s fun t =>
      let result := if c = .hostFlr then 11 else 6
      t.flt = s.flt ∧ t.cap = s.cap ∧ t.ring = s.ring ∧ t.mbx.qspi = s.mbx.qspi ∧ t.mbx.pcie.busy = 0 ∧ t.mbx.pcie.ready = 0 ∧
      (∀ o ∈ t.mbx.out, o.via ≠ .pcie) ∧
      (∀ n < 16, let st := (s.dmaCh n).st
        if st = .running ∨ st = .pausing ∨ st = .draining then (t.dmaCh n).st = .stopped ∧ (t.dmaCh n).result = result
        else t.dmaCh n = s.dmaCh n) ∧
      (c ≠ .hostFlr → t.host.gen = 0 ∧ t.host.linkDowns = sat 65535 (s.host.linkDowns + 1)) ∧
      (c = .pciePerst → t.host.inReset = true ∧ t.host.msixTbl = [] ∧ t.host.msixPend = 0)) ∧
  (∀ s : State, s.linkOk = false →
    (Completes .hostLinkDown s fun t => t = s) ∧ (Completes .hostFlr s fun t => t = s) ∧
    Completes .pciePerst s fun t => t = { s with host := { s.host with inReset := true, msixTbl := [], msixPend := 0 } }) ∧
  (∀ (o : Nat) (s : State), Completes (.pcieConfigRequest o) s fun t =>
    if s.host.fwReady = true ∨ s.pm.recovery = true then
      t = { s with fresh := s.fresh + 1
                   host := { s.host with cfgDone := s.host.cfgDone + 1, readData := t.host.readData } } ∧
      (o < 4 → t.host.readData = [0x7C, 0x1F, 0x56, 0x02]) ∧
      (8 ≤ o → o < 12 → t.host.readData = [Config.stepping, 0x00, 0x80, 0x11]) ∧
      (16 ≤ o → o < 20 → leVal t.host.readData % 2 ^ 14 = 4)
    else t = { s with host := { s.host with cfgRetry := s.host.cfgRetry + 1 } }) ∧
  (∀ (port : HostPort) (o : Nat) (d : Bytes) (m : List (Nat × Bytes)) (s : State), s.portOn port = false ∨ s.pm.recovery = true →
    Completes (.registerWrite port o d m) s fun t => t = hostHolds s m) ∧
  (∀ (port : HostPort) (o : Nat) (d : Bytes) (m : List (Nat × Bytes)) (u : State), u.portOn port = true → u.pm.recovery = false →
    let s := hostHolds u m
    let v := portVia port
    let bad := { s with host := { s.host with badacc := sat 65535 (s.host.badacc + 1) } }
    Completes (.registerWrite port o d m) u fun t =>
      ((d.length ≠ 4 ∧ d.length ≠ 8) ∨ o % d.length ≠ 0 ∨ 0x4000 ≤ o → t = bad) ∧
      (d.length = 4 → o % 4 = 0 →
        (o < 0x800 → (s.bank v).busy.testBit (o / 256) = true → t = bad) ∧
        (o < 0x800 → (s.bank v).busy.testBit (o / 256) = false →
          t = s.updBank v fun b => { b with cmd := Tbl.setRun 0 b.cmd o d }) ∧
        (0x800 ≤ o → o < 0x1000 → t = s) ∧
        (o = 0x1004 → t = s.updBank v fun b => { b with terr := clearBits b.terr (leVal d % 256) }) ∧
        (o = 0x1050 → t = { s with host := { s.host with qsMask := leVal d } }) ∧
        (o = 0x1054 → t = { s with host := { s.host with qsPend := clearBits s.host.qsPend (leVal d) } }) ∧
        (o = 0x1100 → t = { s with ic := { s.ic with hpend := clearBits s.ic.hpend (leVal d) } }) ∧
        (0x1200 ≤ o → o < 0x2000 → t = bad))) ∧
  (∀ (port : HostPort) (o : Nat) (s : State), s.portOn port = true → o % 4 = 0 → o < 0x4000 →
    Completes (.wideRegisterLowRead port o 4) s fun t => t = { s with host := t.host } ∧
      (s.mapAt (portVia port) o = .cmd → t.host.readData = Tbl.run 0 (s.bank (portVia port)).cmd o 4) ∧
      (s.mapAt (portVia port) o = .rsp → t.host.readData = Tbl.run 0 (s.bank (portVia port)).rsp (o - 0x800) 4) ∧
      (∀ base b, s.mapAt (portVia port) o = .reg base b → b.length ≤ 4 → t.host.readData = slice b (o - base) 4) ∧
      (∀ b, s.mapAt (portVia port) o = .reg o b → 4 < b.length → t.host.readData = b.take 4 ∧
        Tbl.get [] t.host.latch (latchKey (portVia port) o) = b) ∧
      (∀ base b, s.mapAt (portVia port) o = .reg base b → o ≠ base → 4 < b.length →
        Tbl.get [] s.host.latch (latchKey (portVia port) base) ≠ [] →
        t.host.readData = slice (Tbl.get [] s.host.latch (latchKey (portVia port) base)) (o - base) 4) ∧
      (s.mapAt (portVia port) o = .hole ∨ s.mapAt (portVia port) o = .blank → t.host.readData = zeros 4)) ∧
  (∀ (port : HostPort) (o : Nat) (s : State), s.portOn port = true → o % 8 = 0 → o < 0x4000 →
    Completes (.wideRegisterLowRead port o 8) s fun t => t = { s with host := t.host } ∧
      (o < 0x800 → t.host.readData = Tbl.run 0 (s.bank (portVia port)).cmd o 4 ++ Tbl.run 0 (s.bank (portVia port)).cmd (o + 4) 4) ∧
      (∀ b, s.mapAt (portVia port) o = .reg o b → s.mapAt (portVia port) (o + 4) = .reg o b → b.length = 8 →
        t.host.readData = b)) ∧
  (∀ (port : HostPort) (o z : Nat) (s : State),
    (s.portOn port = false → Completes (.wideRegisterLowRead port o z) s fun t => t = s) ∧
    (s.portOn port = true → (z ≠ 4 ∧ z ≠ 8) ∨ o % z ≠ 0 ∨ 0x4000 ≤ o → Completes (.wideRegisterLowRead port o z) s fun t =>
      t = { s with fresh := t.fresh
                   host := { s.host with badacc := sat 65535 (s.host.badacc + 1), readData := t.host.readData } })) ∧
  (∀ (v : Nat) (s : State), v < 32 →
    Completes (.msixUnmask v) s fun t => t = { s with host := t.host } ∧ t.msixMasked v = false ∧
      t.host.msixPend.testBit v = false ∧
      Tbl.get 0 t.host.msgs v = Tbl.get 0 s.host.msgs v + b2n (s.host.msixPend.testBit v)) ∧
  (∀ (o n : Nat) (s : State), s.portOn .qspi = true → o % 4 = 0 → o + 4 * n ≤ 0x800 →
    Completes (.qspiRead o n) s fun t =>
      t = { s with host := { s.host with readData := Tbl.run 0 s.mbx.qspi.cmd o (4 * n) } }) ∧
  (∀ (o : Nat) (d : Bytes) (m : List (Nat × Bytes)) (s : State), s.portOn .qspi = true → s.pm.recovery = false → o % 4 = 0 →
    o < 0x800 → d.length = 4 → s.mbx.qspi.busy.testBit (o / 256) = false →
    Completes (.qspiWrite o d m) s fun t =>
      t = { hostHolds s m with mbx := { s.mbx with qspi := { s.mbx.qspi with cmd := Tbl.setRun 0 s.mbx.qspi.cmd o d } } }) ∧
  (∀ s : State, Completes .qspiStatus s fun t =>
    if s.portOn .qspi = true then
      t = { s with host := { s.host with lastBad := s.host.badacc, readData := t.host.readData } } ∧
      t.host.readData = le 1 (b2n s.host.fwReady + 2 * b2n (s.host.qsMask &&& s.host.qsPend ≠ 0) +
        4 * b2n (decide (s.host.lastBad < s.host.badacc)))
    else t = s)

/-- Channels start, pause, resume, abort, drain and end with their RESULT; a MOVE writes its bytes at the addresses of its
destination lines; delivery writes an entry at WR where it has room and counts the frame where it has not, and a guaranteed frame
counts as received with its entry (R411–R429). The bytes
that a command carries stand at the source lines in host memory (log entry 33). -/
def Obligations.DmaChannelsRun : Prop :=
  (∀ (n : Nat) (via : Via) (d : Bytes) (s : State), n < 16 →
    let c := s.dmaCh n
    Completes (.dmaStart n via d) s fun t => (∀ m ≠ n, t.dmaCh m = s.dmaCh m) ∧
      (c.st ≠ .idle → c.st ≠ .stopped → t = { s with host := { s.host with badacc := sat 65535 (s.host.badacc + 1) } }) ∧
      (c.st = .idle ∨ c.st = .stopped →
        OnlyReports { s with dma := t.dma, leases := t.leases, kzC := t.kzC, kzD := t.kzD } t ∧
        (t.dmaCh n).bytes = 0 ∧ (t.dmaCh n).doneDesc = 0 ∧ (t.dmaCh n).posDesc = c.desc ∧
        (t.dmaCh n).posLine = 0 ∧ (t.dmaCh n).posIn = 0 ∧ ∀ e ∈ t.leases.barred, e.2 ≠ 0x30 + n) ∧
      (c.st = .idle ∨ c.st = .stopped → c.rsvSet = true → (t.dmaCh n).st = .stopped ∧ (t.dmaCh n).result = 5) ∧
      (c.st = .idle ∨ c.st = .stopped → c.rsvSet = false → s.linkOk = true →
        (c.delivery = true → s.kindTwice n = true → (t.dmaCh n).st = .stopped ∧ (t.dmaCh n).result = 5) ∧
        (c.delivery = true → s.kindTwice n = false → (t.dmaCh n).st = .running ∧ (t.dmaCh n).owner = 0x20 + s.fe.active) ∧
        (c.delivery = false → c.px64 = false → c.desc % 64 = 0 →
          (nativeOk d = false → (t.dmaCh n).st = .stopped ∧ (t.dmaCh n).result = 5) ∧
          (nativeOk d = true → fld d 0 1 ≠ 2 → (t.dmaCh n).st = .running ∧ (t.dmaCh n).cur = d)))) ∧
  (∀ (n : Nat) (s : State), n < 16 →
    Completes (.dmaPause n) s fun t =>
      if (s.dmaCh n).st = .running then t = s.updDma n fun c => { c with st := .pausing }
      else t = { s with host := { s.host with badacc := sat 65535 (s.host.badacc + 1) } }) ∧
  (∀ (n : Nat) (d : Bytes) (s : State), n < 16 →
    let c := s.dmaCh n
    Completes (.dmaResume n d) s fun t =>
      (c.st ≠ .paused → c.st ≠ .pausedPower → t = { s with host := { s.host with badacc := sat 65535 (s.host.badacc + 1) } }) ∧
      (c.st = .paused ∨ c.st = .pausedPower →
        (s.linkOk = false → DmaStops n 6 s.hostMem s t) ∧
        (s.linkOk = true → c.delivery = true → t = s.updDma n fun c => { c with st := .running }) ∧
        (s.linkOk = true → c.delivery = false → c.px64 = false →
          (nativeOk d = false → DmaStops n 5 s.hostMem s t) ∧
          (nativeOk d = true → fld d 0 1 ≠ 2 →
            t = s.updDma n fun c => { c with st := .running, cur := d, kz := none })))) ∧
  (∀ (n : Nat) (s : State), n < 16 →
    let st := (s.dmaCh n).st
    Completes (.dmaAbort n) s fun t =>
      (st = .running ∨ st = .pausing → t = s.updDma n fun c => { c with st := .pausing, aborting := true }) ∧
      (st = .paused ∨ st = .pausedPower → DmaStops n 4 s.hostMem s t) ∧
      (st = .idle ∨ st = .stopped ∨ st = .draining → t = s)) ∧
  (∀ (n : Nat) (b : Bytes) (s : State), n < 16 →
    let st := (s.dmaCh n).st
    (Completes (.dmaPaused n b) s fun t => if st = .pausing then
        (if (s.dmaCh n).aborting = true then (t.dmaCh n).st = .stopped ∧ (t.dmaCh n).result = 4
          else (t.dmaCh n).st = .paused ∧ (t.dmaCh n).result = 1)
      else t = s) ∧
    (Completes (.dmaPausedPower n b) s fun t =>
      if st = .draining then (t.dmaCh n).st = .pausedPower ∧ (t.dmaCh n).result = 2 else t = s) ∧
    (Completes (.dmaAbortPower n b) s fun t =>
      if st = .draining then (t.dmaCh n).st = .stopped ∧ (t.dmaCh n).result = 3 else t = s) ∧
    (Completes (.dmaReadError n b) s fun t =>
      if (s.dmaCh n).delivery = false ∧ (st = .running ∨ st = .pausing ∨ st = .draining) then
        let r := if (s.dmaCh n).op = 2 ∧ (s.dmaCh n).cur ≠ [] then s.skeinResult (s.dmaCh n).skeinId else 0
        DmaStops n (if r = 0 then 7 else r) (if (s.dmaCh n).cur = [] ∨ r = 9 then s.hostMem else (progress s n b).hostMem) s t
      else t = s)) ∧
  (∀ (n : Nat) (b : Bytes) (s : State), n < 16 → (s.dmaCh n).delivery = false → (s.dmaCh n).px64 = false →
    (s.dmaCh n).op = 0 →
    let c := s.dmaCh n
    let mem := fun d => (placeBytes (sourceHolds s c d) c ((sourceHolds s c d).gather c (Nat.min d.length c.total))).hostMem
    (c.st = .pausing → Completes (.dmaPaused n b) s fun t =>
      if c.aborting = true then DmaStops n 4 (mem b) s t else OnlyDma n (mem b) s t) ∧
    (c.st = .draining →
      (Completes (.dmaPausedPower n b) s fun t => OnlyDma n (mem (c.wholeLines b)) s t) ∧
      (Completes (.dmaAbortPower n b) s fun t => OnlyDma n (mem b) s t)) ∧
    (c.cur ≠ [] → c.st = .running → ∀ next, Completes (.dmaDescriptorDone n b next) s fun t =>
      (c.isLast = true → OnlyDma n (mem b) s t ∧ (t.dmaCh n).st = .idle ∧ (t.dmaCh n).result = 0) ∧
      (c.isLast = false → c.pauseAfter = true → OnlyDma n (mem b) s t ∧ (t.dmaCh n).st = .paused ∧
        (t.dmaCh n).posDesc = c.next) ∧
      (c.isLast = false → c.pauseAfter = false → nativeOk next = true → fld next 0 1 ≠ 2 →
        OnlyDma n (mem b) s t ∧ (t.dmaCh n).st = .running ∧ (t.dmaCh n).cur = next ∧ (t.dmaCh n).posDesc = c.next) ∧
      (c.isLast = false → c.pauseAfter = false → nativeOk next = false → (t.dmaCh n).st = .stopped ∧
        (t.dmaCh n).result = 5) ∧
      (t.dmaCh n).doneDesc = (c.doneDesc + 1) % 2 ^ 32 ∧
      (t.dmaCh n).bytes = c.bytes + (Nat.min b.length c.total - c.posBytes))) ∧
  (∀ (n : Nat) (b next : Bytes) (e : KzEnd) (s : State), n < 16 → (s.dmaCh n).delivery = false → (s.dmaCh n).px64 = false →
    (s.dmaCh n).op = 1 → (s.dmaCh n).cur ≠ [] → (s.dmaCh n).st = .running → (s.dmaCh n).kz = some e →
    let c := s.dmaCh n
    let mem := (hostWrite (sourceHolds s c b) (fld c.cur 16 8) e.out).hostMem
    Completes (.dmaDescriptorDone n b next) s fun t => (t.dmaCh n).bytes = c.bytes + e.out.length ∧
      (e.result ≤ 1 → c.isLast = true → OnlyDma n mem s t ∧ (t.dmaCh n).st = .idle ∧ (t.dmaCh n).result = 0) ∧
      (1 < e.result → DmaStops n 10 mem s t)) ∧
  (∀ (n : Nat) (v : BitVec 32) (s : State), n < 16 →
    let c := s.dmaCh n
    let m := 2 * c.ringSize
    Completes (.dmaRrdWrite n v) s fun t =>
      if v.toNat % 64 ≠ 0 ∨ m ≤ v.toNat ∨ c.fill < (v.toNat + m - c.rd % m) % m then
        t = { s with host := { s.host with badacc := sat 65535 (s.host.badacc + 1) } }
      else t = s.updDma n fun c => { c with rd := v.toNat }) ∧
  (∀ (f : ZFrame) (s : State), (match s.deliveryCh f.kind with
      | none => true
      | some n => s.ring.numbered && f.src = s.ring.station && !s.wantsOwn n) = true →
    Completes (.deliveryEntry f) s fun t => t = s) ∧
  (∀ (f : ZFrame) (n : Nat) (s : State), s.deliveryCh f.kind = some n → s.takesEntry n f = true →
    kindGuaranteed f.kind = false ∨ 64 ≤ f.src ∨ (s.ring.numbered = true ∧ f.src = s.ring.station ∧ s.isRoot = false) →
    let c := s.dmaCh n
    let e := entryBytes f
    let w := (c.rbase + c.wr % c.ringSize) % 2 ^ 64
    Completes (.deliveryEntry f) s fun t =>
      (c.room e.length = true → c.padFor e.length = 0 →
        OnlyDma n (Tbl.setRun 0 s.hostMem w e) s t ∧
        (t.dmaCh n).wr = (c.wr + e.length) % (2 * c.ringSize) ∧ (t.dmaCh n).bytes = c.bytes + e.length ∧
        (t.dmaCh n).thrCount = if c.thr ≤ c.thrCount + 1 then 0 else c.thrCount + 1) ∧
      (c.room e.length = true → c.padFor e.length ≠ 0 →
        let p := padBytes (c.padFor e.length)
        let wr := (c.wr + p.length) % (2 * c.ringSize)
        OnlyDma n (Tbl.setRun 0 (Tbl.setRun 0 s.hostMem w p) ((c.rbase + wr % c.ringSize) % 2 ^ 64) e) s t ∧
        (t.dmaCh n).wr = (wr + e.length) % (2 * c.ringSize) ∧ (t.dmaCh n).bytes = c.bytes + p.length + e.length ∧
        (t.dmaCh n).thrCount = (let k := if c.thr ≤ c.thrCount + 1 then 0 else c.thrCount + 1
          if c.thr ≤ k + 1 then 0 else k + 1)) ∧
      (c.room e.length = false → OnlyDma n s.hostMem s t ∧
        (t.dmaCh n).fullDrops = (c.fullDrops + 1) % 2 ^ 32 ∧ (t.dmaCh n).wr = c.wr)) ∧
  (∀ (i : Instr) (f : ZFrame) (n : Nat) (s : State), i = .deliveryEntry f ∨ (i = .guaranteedFrameRx f ∧ s.accepts f = true) →
    s.deliveryCh f.kind = some n → s.takesEntry n f = true → kindGuaranteed f.kind = true → f.src < 64 →
    ¬(s.ring.numbered = true ∧ f.src = s.ring.station ∧ s.isRoot = false) →
    (((s.rxSrc f.src).take f.seq).1 = .duplicate → Completes i s fun t => t = { s with ring := { s.ring with rx := t.ring.rx } } ∧
      t.rxSrc f.src = { s.rxSrc f.src with dups := ((s.rxSrc f.src).dups + 1) % 2 ^ 32 }) ∧
    (((s.rxSrc f.src).take f.seq).1 ≠ .duplicate → s.canDeliver f = false → Completes i s fun t =>
      OnlyDma n s.hostMem s t ∧ (t.dmaCh n).fullDrops = ((s.dmaCh n).fullDrops + 1) % 2 ^ 32) ∧
    (s.canDeliver f = true → (s.dmaCh n).padFor (entryBytes f).length = 0 → (s.rxSrc f.src).started = true →
      (s.rxSrc f.src).gaps = [] → seqDist f.seq (s.rxSrc f.src).high = 1 → Completes i s fun t => (t.rxSrc f.src).high = f.seq ∧
        (t.dmaCh n).wr = ((s.dmaCh n).wr + (entryBytes f).length) % (2 * (s.dmaCh n).ringSize))) ∧
  (∀ (n : Nat) (s : State), n < 16 → (s.dmaCh n).delivery = true → 0 < (s.dmaCh n).thrCount →
    Completes (.dmaThresholdTimeout n) s fun t => OnlyDma n s.hostMem s t ∧
      t.dmaCh n = { s.dmaCh n with thrCount := 0 } ∧ t.host.qsPend.testBit (2 + n) = true) ∧
  (∀ s : State, Completes .dmaDrainRequest s fun t => t = { s with dma := t.dma } ∧
    ∀ n < 16, t.dmaCh n = if (s.dmaCh n).st = .running ∨ (s.dmaCh n).st = .pausing then
      { s.dmaCh n with st := .draining, aborting := false } else s.dmaCh n)

/-! ### Seal, audit trail and firmware update (chapter 15) -/

/-- The seal switch breaks a sealed device at once, at the 33rd equal sample; sealing, unsealing and the keys follow LIFECYCLE_SET
with its token and its audit record; a refused token counts and uses up the nonce; debug levels and the metrology identity
(R525–R534, R547, R548). Whether a token is valid is left to `tokenOk`: a witness of a valid one would need the device's own UID. -/
def Obligations.SealKeepsTheLifecycle : Prop :=
  (∀ (b : Bool) (n : Nat) (s : State), s.sec.swOpen = b ∨ s.sec.swCount + n < 33 →
    Completes (.sealSwChange b n) s fun t =>
      t = { s with sec := { s.sec with swCount := if s.sec.swOpen = b then 0 else s.sec.swCount + n } }) ∧
  (∀ (b : Bool) (n : Nat) (s : State), s.sec.swOpen ≠ b → 33 ≤ s.sec.swCount + n → s.pm.st ≠ .cocoon → s.pm.inReset = false →
    Completes (.sealSwChange b n) s fun t => t.sec.swOpen = b ∧ t.sec.swCount = 0 ∧ t.sec.nonce = s.sec.nonce ∧
      (if s.sec.life = .sealed ∧ b = true then
        t.sec.life = .service ∧ t.sec.breaks = sat 65535 (s.sec.breaks + 1) ∧ t.sec.fuses = sat 4096 (s.sec.fuses + 1) ∧
          t.sec.record = some (.service, sat 65535 (s.sec.breaks + 1)) ∧ t.sec.record2 = t.sec.record
      else t.sec.life = s.sec.life ∧ t.sec.breaks = s.sec.breaks ∧ t.sec.fuses = s.sec.fuses ∧ t.sec.record = s.sec.record) ∧
      (b = false → OnlyAudit { s with sec := { s.sec with swOpen := false, swCount := 0 } } t)) ∧
  (∀ (n : Nat) (s : State), s.sec.swOpen = false → 33 ≤ s.sec.swCount + n → s.pm.st = .cocoon ∨ s.pm.inReset = true →
    Completes (.sealSwChange true n) s fun t =>
      if s.sec.life = .sealed ∧ s.sec.cocoonBreak = none then t = { s with sec := { s.sec with
        swOpen := true, swCount := 0, breaks := sat 65535 (s.sec.breaks + 1), cocoonBreak := some s.pm.rtc } }
      else t = { s with sec := { s.sec with swOpen := true, swCount := 0 } }) ∧
  (∀ (h : CmdHdr) (p : Bytes) (s : State), p.length = 200 → fld p 0 4 = 2 → allZero (slice p 4 64) = true →
    allZero (slice p 68 132) = true → s.sec.life = .opened → s.anyKey = true → s.sec.swOpen = false →
    s.mbx.pending = none → s.mbx.wait = none → s.sec.fullSeen = false →
    (auditGate (setLife (taken 0x0800 h p s) .sealed) 0x7001 0 1 2).1 = .accepted → Accepted 0x0800 h p s 4 = true →
    Completes (.lifecycleSet h p) s fun t => Answers t 0x0800 h 0 0 (le 1 2 ++ zeros 1 ++ le 2 s.sec.breaks) ∧
      t.sec.life = .sealed ∧ t.sec.record = some (.sealed, s.sec.breaks) ∧ t.sec.record2 = some (.sealed, s.sec.breaks) ∧
      t.sec.fuses = s.sec.fuses ∧ t.sec.keys = s.sec.keys ∧ t.sec.debug = 0 ∧ t.sec.granted = 0 ∧
      t.mbx.staged = none ∧ t.mbx.force = s.mbx.force ∧ t.flt = s.flt) ∧
  (∀ (h : CmdHdr) (p : Bytes) (s : State), p.length = 200 → fld p 0 4 = 3 → allZero (slice p 4 64) = true →
    allZero (slice p 69 3) = true → s.sec.life = .sealed → s.sec.authLock = false → Accepted 0x0800 h p s 4 = true →
    Completes (.lifecycleSet h p) s fun t =>
      let u := taken 0x0800 h p s
      let v := { u with sec := { u.sec with nonce := none, refusals := 0 } }
      if tokenOk u false 0x0800 3 (slice p 68 132) then t.sec.nonce = none ∧
        ((auditGate (countBreak v) 0x7002 0 1 0).1 = .accepted →
          t.sec.life = .service ∧ t.sec.breaks = sat 65535 (s.sec.breaks + 1) ∧ t.sec.fuses = sat 4096 (s.sec.fuses + 1)) ∧
        ((auditGate (countBreak v) 0x7002 0 1 0).1 ≠ .accepted → t.sec.life = .sealed ∧ t.sec.breaks = s.sec.breaks)
      else Answers t 0x0800 h stAuth 0 [] ∧ t.sec.life = .sealed ∧ t.sec.nonce = none ∧
        t.sec.refusals = s.sec.refusals + 1 ∧ t.sec.breaks = s.sec.breaks ∧
        t.sec.authLock = decide (16 ≤ s.sec.refusals + 1)) ∧
  (∀ (h : CmdHdr) (p : Bytes) (s : State), p.length = 200 → fld p 0 4 = 1 → allZero (slice p 4 64) = true →
    allZero (slice p 69 3) = true → s.sec.life = .blank → s.sec.authLock = false → Accepted 0x0800 h p s 4 = true →
    Completes (.lifecycleSet h p) s fun t =>
      if tokenOk (taken 0x0800 h p s) true 0x0800 1 (slice p 68 132) then
        Answers t 0x0800 h 0 0 (le 1 1 ++ zeros 1 ++ le 2 s.sec.breaks) ∧ t.sec.life = .opened ∧ t.sec.blankFuse = true ∧
        t.sec.record = some (.opened, s.sec.breaks)
      else Answers t 0x0800 h stAuth 0 [] ∧ t.sec.life = .blank ∧ t.sec.refusals = s.sec.refusals + 1) ∧
  (∀ (h : CmdHdr) (p : Bytes) (s : State), p.length = 200 → fld p 1 3 = 0 → fld p 0 1 < 4 → allZero (slice p 4 64) = true →
    allZero (slice p 69 3) = true → Accepted 0x0800 h p s 4 = true →
    ¬((s.sec.life = .blank ∧ fld p 0 1 = 1) ∨ (s.sec.life = .opened ∧ fld p 0 1 = 2) ∨ (s.sec.life = .sealed ∧ fld p 0 1 = 3) ∨
      (s.sec.life = .service ∧ (fld p 0 1 = 1 ∨ fld p 0 1 = 2))) →
    Completes (.lifecycleSet h p) s fun t => Answers t 0x0800 h stBadParam 0 [] ∧ OnlyAnswers s t) ∧
  (∀ (h : CmdHdr) (p : Bytes) (s : State), p.length = 200 → fld p 1 1 = 1 → fld p 2 1 < 4 → fld p 3 1 = 0 →
    allZero (slice p 69 3) = true → fld p 0 1 = lifeCode s.sec.life → Accepted 0x0800 h p s 4 = true →
    let n := fld p 2 1
    let new : KeySlot := { s.key n with hash := keyHash (slice p 4 64), filled := true }
    Completes (.keyInstall h p) s fun t => t.sec.life = s.sec.life ∧
      (s.sec.life = .sealed → Answers t 0x0800 h stSealed 0 [] ∧ OnlyAnswers s t) ∧
      (s.sec.life ≠ .sealed → (s.key n).filled = true → Answers t 0x0800 h stBadParam 2 [] ∧ OnlyAnswers s t) ∧
      (s.sec.life = .blank ∨ s.sec.life = .opened → (s.key n).filled = false → allZero (slice p 68 132) = true →
        (auditGate (setKey (taken 0x0800 h p s) n fun _ => new) 0x7012 n 0 (head8 new.hash)).1 = .accepted →
        Answers t 0x0800 h 0 0 (le 1 (lifeCode s.sec.life) ++ zeros 1 ++ le 2 s.sec.breaks) ∧
        (∀ k, t.key k = if k = n then new else s.key k)) ∧
      (s.sec.life = .service → (s.key n).filled = false → s.sec.authLock = false →
        ¬(fld p 68 1 ≠ n ∧ tokenOk (taken 0x0800 h p s) false 0x0800 (keyArg p) (slice p 68 132) = true) →
        Answers t 0x0800 h stAuth 0 [] ∧ t.sec.keys = s.sec.keys ∧ t.sec.refusals = s.sec.refusals + 1)) ∧
  (∀ (h : CmdHdr) (p : Bytes) (s : State), p.length = 200 → fld p 1 1 = 2 → fld p 2 1 < 4 → fld p 3 1 = 0 →
    allZero (slice p 4 64) = true → allZero (slice p 69 3) = true →
    fld p 0 1 = lifeCode s.sec.life → fld p 0 1 ≠ 2 → s.sec.authLock = false →
    (s.key (fld p 2 1)).live = true → 1 < ((List.range 4).filter fun i => (s.key i).live).length →
    Accepted 0x0800 h p s 4 = true →
    Completes (.keyRevoke h p) s fun t =>
      let n := fld p 2 1
      let u := taken 0x0800 h p s
      let v := { u with sec := { u.sec with nonce := none, refusals := 0 } }
      t.sec.life = s.sec.life ∧ t.sec.nonce = none ∧ (∀ k ≠ n, t.key k = s.key k) ∧
      if fld p 68 1 ≠ n ∧ tokenOk u false 0x0800 (keyArg p) (slice p 68 132) = true then
        ((auditGate (setKey v n fun k => { k with revoked := true }) 0x7013 n (head8 (s.key n).hash) 0).1 = .accepted →
          t.key n = { s.key n with revoked := true })
      else Answers t 0x0800 h stAuth 0 [] ∧ t.key n = s.key n ∧ t.sec.refusals = s.sec.refusals + 1) ∧
  (∀ (h : CmdHdr) (s : State), Accepted 0x0801 h [] s 28 = true →
    Completes (.authChallenge h []) s fun t => let n := Config.freeNonce s.fresh
      Answers t 0x0801 h 0 0 (be 16 n.toNat ++ le 8 Config.uid.toNat ++ le 2 s.sec.breaks ++ zeros 2) ∧
      OnlyAnswers { s with fresh := s.fresh + 1, sec := { s.sec with nonce := some n } } t) ∧
  (∀ s : State, (Completes .nonceExpiry s fun t => t = { s with sec := { s.sec with nonce := none } }) ∧
    Completes .authLockoutEnd s fun t =>
      t = if s.sec.authLock = true then { s with sec := { s.sec with authLock := false, refusals := 0 } } else s) ∧
  (∀ (h : CmdHdr) (p : Bytes) (s : State), p.length = 136 → fld p 0 4 < 3 → allZero (slice p 5 3) = true →
    Accepted 0x0808 h p s 0 = true →
    Completes (.debugSet h p) s fun t => t.sec.life = s.sec.life ∧
      (s.sec.life = .sealed → fld p 0 1 = 2 → Answers t 0x0808 h stSealed 0 [] ∧ OnlyAnswers s t) ∧
      (needsToken s.sec.life (fld p 0 1) = false → allZero (slice p 4 132) = true →
        Answers t 0x0808 h 0 0 [] ∧ t.sec.granted = fld p 0 1 ∧
        t.sec.debug = (if fld p 0 1 < s.sec.debug then 0 else s.sec.debug)) ∧
      (needsToken s.sec.life (fld p 0 1) = true → ¬(s.sec.life = .sealed ∧ fld p 0 1 = 2) → s.sec.authLock = false →
        if tokenOk (taken 0x0808 h p s) false 0x0808 (fld p 0 1) (slice p 4 132) then
          Answers t 0x0808 h 0 0 [] ∧ t.sec.granted = fld p 0 1 ∧ t.sec.nonce = none
        else Answers t 0x0808 h stAuth 0 [] ∧ t.sec.granted = s.sec.granted ∧ t.sec.debug = s.sec.debug)) ∧
  (∀ s : State, s.sec.granted ≠ 0 → s.sec.debug ≠ s.sec.granted → s.pm.st ≠ .cocoon → s.pm.inReset = false →
    Completes .debugAttached s fun t =>
      if (auditGate s 0x7020 s.sec.granted 0 s.sec.granted).1 = .accepted then
        OnlyAudit { s with sec := { s.sec with
          debug := s.sec.granted, fullSeen := s.sec.fullSeen || decide (s.sec.granted = 2) } } t
      else t = s) ∧
  (∀ s : State, s.sec.granted = 0 ∨ s.sec.debug = s.sec.granted ∨ s.pm.st = .cocoon ∨ s.pm.inReset = true →
    Completes .debugAttached s fun t => t = s) ∧
  (∀ (h : CmdHdr) (s : State), Accepted 0x0809 h [] s 108 = true →
    Completes (.metroId h []) s fun t => OnlyAnswers s t ∧
      Answers t 0x0809 h 0 0 (digestBytes s.runningFwId ++ digestBytes s.sec.param ++ digestBytes s.sec.metro ++
        (digestBytes s.sec.metro).take 8 ++ le 1 (b2n (decide (s.sec.debug = 2))) ++ zeros 3))

/-- A record becomes durable at NEXT and chains to the one before; a failed read-back leaves a position without its mark; tokens of
an event code come back one by one; the trail is read, cleared under a token and starts again at position 0 (R535–R546). A
firmware image is begun, written, verified by the checks of R551 and activated with its record and a reset (R549–R552). -/
def Obligations.TrailAndUpdate : Prop :=
  (∀ (i : QItem) (r : List QItem) (s : State), s.sec.trailSt = 0 → (s.queue 4).items = i :: r → i.complete = true →
    (s.queue 4).stalled = [] → s.serialHolder = 2 → s.sec.intakeShut = false → s.sec.lostIntake = 0 →
    let b := sealRecord (bytesOf i.words) s.sec.recno s.prevMac
    (s.sec.next ≠ 8189 →
      (Completes (.auditRecordWrite true) s fun t => OnlyReports { s with leases := t.leases, sec := { s.sec with
        trail := Tbl.set [] s.sec.trail s.sec.next b, next := s.sec.next + 1, recno := (s.sec.recno + 1) % 2 ^ 32,
        lastMac := BitVec.ofNat 128 (beVal (b.drop 48)), finishing := false } } t ∧ (t.queue 4).items = r) ∧
      (Completes (.auditRecordWrite false) s fun t => markValid (t.trailAt s.sec.next) = false ∧
        t = { s with leases := t.leases, sec := { s.sec with
          trail := t.sec.trail, next := s.sec.next + 1, torn := s.sec.torn + 1, finishing := false } } ∧
        ∀ p ≠ s.sec.next, t.trailAt p = s.trailAt p)) ∧
    (s.sec.next = 8189 → Completes (.auditRecordWrite true) s fun t => t.sec.trailSt = 1 ∧ t.sec.next = 8191 ∧
      t.sec.recno = (s.sec.recno + 2) % 2 ^ 32 ∧ t.trailAt 8189 = b ∧ fld (t.trailAt 8190) 2 2 = 0x7041)) ∧
  (∀ (ok : Bool) (i : QItem) (r : List QItem) (s : State), s.sec.trailSt = 1 → s.sec.next ≠ 8191 →
    (s.queue 4).items = i :: r → i.complete = true → (s.queue 4).stalled = [] → s.serialHolder = 2 →
    s.sec.intakeShut = false → s.sec.lostIntake = 0 →
    Completes (.auditRecordWrite ok) s fun t => OnlyReports { s with leases := t.leases, sec := { s.sec with
      lostFull := sat (2 ^ 32 - 1) (s.sec.lostFull + 1), finishing := false } } t ∧ (t.queue 4).items = r) ∧
  (∀ (ok : Bool) (s : State), s.sec.trailSt = 2 ∨ s.serialHolder ≠ 2 ∨
    (s.sec.intakeShut = true ∧ s.sec.finishing = false) → Completes (.auditRecordWrite ok) s fun t => t = s) ∧
  (∀ (code : Nat) (s : State),
    Completes (.auditTokenRefill code) s fun t => t = { s with sec := { s.sec with buckets := t.sec.buckets } } ∧
      ∀ k, Tbl.get Bucket.init t.sec.buckets k = (let b := Tbl.get Bucket.init s.sec.buckets k
        if k = code then { b with missing := b.missing - 1 } else b)) ∧
  (∀ (h : CmdHdr) (p : Bytes) (s : State), p.length = 4 → fld p 0 2 < 8192 → 1 ≤ fld p 2 2 → fld p 2 2 ≤ 31 →
    let a := fld p 0 2
    let n := Nat.min (fld p 2 2) (8192 - a)
    let v := (List.range n).foldl (fun m i => bitSet m i (s.recordOk (a + i))) 0
    let img := le 2 a ++ le 2 n ++ le 2 s.sec.next ++ le 1 s.sec.trailSt ++ zeros 1 ++ le 4 v ++ zeros 4 ++
      ((List.range n).map fun i => s.trailAt (a + i)).flatten
    Accepted 0x0802 h p s img.length = true →
    Completes (.trailRead h p) s fun t => Answers t 0x0802 h 0 0 img ∧
      OnlyAnswers { s with sec := { s.sec with readMark := Nat.max s.sec.readMark (a + n) } } t) ∧
  (∀ (h : CmdHdr) (p : Bytes) (s : State), p.length = 132 → allZero (slice p 1 3) = true → s.sec.authLock = false →
    Accepted 0x0803 h p s 0 = true →
    Completes (.trailClear h p) s fun t => t.sec.trail = s.sec.trail ∧ t.sec.life = s.sec.life ∧
      if s.sec.readMark < s.sec.next ∨ s.sec.trailSt = 2 ∨ s.serialShut 2 = true then
        Answers t 0x0803 h stBusy 0 [] ∧ OnlyAnswers s t
      else if tokenOk (taken 0x0803 h p s) false 0x0803 ((s.sec.recno + 2 ^ 32 - 1) % 2 ^ 32) p then
        (if s.sec.life = .blank ∨ (s.sec.intakeShut = false ∧ bucketEmpty s 0x7040 = false ∧ 2 ≤ auditFree s) then
          Answers t 0x0803 h 0 0 [] ∧ t.sec.trailSt = 2
        else Answers t 0x0803 h stBusy 0 [] ∧ t.sec.trailSt = s.sec.trailSt)
      else Answers t 0x0803 h stAuth 0 [] ∧ t.sec.trailSt = s.sec.trailSt ∧ t.sec.nonce = none) ∧
  (∀ s : State, s.sec.trailSt = 2 → s.serialHolder = 2 → s.pm.emergency = false →
    Completes .trailCleared s fun t => OnlyReports { s with leases := t.leases, sec := t.sec } t ∧ t.sec.trailSt = 0 ∧
      t.sec.readMark = 0 ∧
      (s.sec.life = .blank → t.sec.trail = [] ∧ t.sec.next = 0 ∧ t.sec.recno = s.sec.recno) ∧
      (s.sec.life ≠ .blank → t.sec.next = 1 ∧ t.sec.recno = (s.sec.recno + 1) % 2 ^ 32 ∧ (∀ p ≠ 0, Tbl.get [] t.sec.trail p = []))) ∧
  (∀ s : State, s.sec.trailSt ≠ 2 ∨ s.serialHolder ≠ 2 ∨ s.pm.emergency = true → Completes .trailCleared s fun t => t = s) ∧
  (∀ (h : CmdHdr) (p : Bytes) (s : State), p.length = 8 → 256 ≤ fld p 0 4 → fld p 0 4 ≤ 8 * 2 ^ 20 → allZero (slice p 4 4) = true →
    Accepted 0x0804 h p s 0 = true →
    Completes (.updateBegin h p) s fun t =>
      if s.sec.updOwner ≠ 0 ∧ s.sec.updOwner ≠ viaTag h.via then Answers t 0x0804 h stBusy s.sec.updOwner [] ∧ OnlyAnswers s t
      else if s.serialShut 2 = true then Answers t 0x0804 h stBusy 0 [] ∧ OnlyAnswers s t
      else Answers t 0x0804 h 0 0 [] ∧
        OnlyAnswers { s with leases := t.leases
                             sec := { s.sec with updOwner := viaTag h.via, chrysalis := .erasing, slots := t.sec.slots } } t ∧
        t.chImage = some ⟨[], fld p 0 4, 0, 0, 0⟩) ∧
  (∀ s : State, Completes .fwChrysalisReady s fun t =>
    if s.sec.chrysalis = .erasing ∧ s.serialHolder = 2 ∧ s.pm.emergency = false then
      OnlyReports { s with leases := t.leases, sec := { s.sec with chrysalis := .writing } } t
    else t = s) ∧
  (∀ (h : CmdHdr) (p : Bytes) (x : FwSlot) (s : State), 9 ≤ p.length → p.length ≤ 2032 → allZero (slice p 4 4) = true →
    s.sec.updOwner = viaTag h.via → s.chImage = some x → Accepted 0x0805 h p s 0 = true →
    Completes (.updateWrite h p) s fun t =>
      if s.sec.chrysalis = .erasing ∨ s.sec.chrysalis = .verifying then
        Answers t 0x0805 h stBusy s.sec.updOwner [] ∧ t.sec = s.sec
      else if s.serialShut 2 = true then Answers t 0x0805 h stBusy 0 [] ∧ t.sec = s.sec
      else if fld p 0 4 + (p.length - 8) ≤ x.length then Answers t 0x0805 h 0 0 [] ∧
        OnlyAnswers { s with leases := t.leases, sec := { s.sec with chrysalis := .writing, slots := t.sec.slots } } t ∧
        t.chImage = some { x with bytes := Tbl.setRun 0xFF x.bytes (fld p 0 4) (p.drop 8) }
      else Answers t 0x0805 h stBadParam 0 [] ∧ t.sec = s.sec) ∧
  (∀ (h : CmdHdr) (s : State), s.sec.updOwner = viaTag h.via → Accepted 0x0806 h [] s 0 = true →
    Completes (.updateVerify h []) s fun t =>
      if s.sec.chrysalis = .erasing ∨ s.sec.chrysalis = .verifying then
        Answers t 0x0806 h stBusy s.sec.updOwner [] ∧ t.sec = s.sec
      else Answers t 0x0806 h 0 0 [] ∧
        OnlyAnswers { s with leases := t.leases, sec := { s.sec with chrysalis := .verifying } } t) ∧
  (∀ (h : CmdHdr) (p : Bytes) (s : State), 9 ≤ p.length → p.length ≤ 2032 → allZero (slice p 4 4) = true →
    s.sec.updOwner ≠ viaTag h.via →
    (Accepted 0x0805 h p s 0 = true → Completes (.updateWrite h p) s fun t => OnlyAnswers s t ∧
      if s.sec.updOwner = 0 then Answers t 0x0805 h stNotStaged 0 [] else Answers t 0x0805 h stBusy s.sec.updOwner []) ∧
    (Accepted 0x0806 h [] s 0 = true → Completes (.updateVerify h []) s fun t => OnlyAnswers s t ∧
      if s.sec.updOwner = 0 then Answers t 0x0806 h stNotStaged 0 [] else Answers t 0x0806 h stBusy s.sec.updOwner [])) ∧
  (∀ (x : FwSlot) (s : State), s.sec.chrysalis = .verifying → s.chImage = some x →
    Completes .fwVerifyDone s fun t => OnlyReports { s with sec := { s.sec with chrysalis := t.sec.chrysalis,
                                                                                slots := t.sec.slots } } t ∧
      (fwCheck s.sec.secMin x = 0 → t.sec.chrysalis = .verified ∧ t.chImage = some x.named) ∧
      (fwCheck s.sec.secMin x ≠ 0 → t.sec.chrysalis = .failed ∧ t.sec.slots = s.sec.slots)) ∧
  (∀ s : State, s.sec.chrysalis ≠ .verifying → Completes .fwVerifyDone s fun t => t = s) ∧
  (∀ (h : CmdHdr) (p : Bytes) (s : State), p.length = 132 → allZero p = true → s.isSealed = false →
    s.sec.updOwner = 0 ∨ s.sec.updOwner = viaTag h.via → s.sec.chrysalis = .verified → s.mbx.pending = none →
    s.sec.trailSt ≠ 2 → s.serialShut 2 = false → (∀ x, s.sec.header = some x → x.1 + 1 < 2 ^ 32) →
    Accepted 0x0807 h p s 0 = true →
    (auditGate (taken 0x0807 h p s) 0x7033 s.chSlot (head8 s.runningFwId) (head8 (s.fwImage s.chSlot).fwId)).1 = .accepted →
    Completes (.updateActivate h p) s fun t => t.sec.slotSel = s.chSlot ∧ t.pm.resetCause = 3 ∧ t.pm.castOn = false ∧
      t.sec.life = s.sec.life ∧ t.sec.slots = s.sec.slots ∧ t.sec.trail = s.sec.trail ∧
      t.mbx.last = some ⟨h.via, h.slot, 0x0807, 0, h.tag, s.flt.rows.epoch, 0, []⟩) ∧
  (∀ (h : CmdHdr) (p : Bytes) (s : State), p.length = 132 → allZero (slice p 1 3) = true → s.pm.resetReq = none →
    s.sec.updOwner = 0 ∨ s.sec.updOwner = viaTag h.via → Accepted 0x0807 h p s 0 = true →
    Completes (.updateActivate h p) s fun t =>
      (s.sec.chrysalis ≠ .verified → Answers t 0x0807 h stNotStaged 0 [] ∧ OnlyAnswers s t) ∧
      (s.sec.chrysalis = .verified → s.mbx.pending = none → s.sec.trailSt ≠ 2 → s.serialShut 2 = false → s.isSealed = true →
        s.sec.authLock = false → tokenOk (taken 0x0807 h p s) false 0x0807 (head8 (s.fwImage s.chSlot).fwId) p = false →
        Answers t 0x0807 h stAuth 0 [] ∧ t.sec.slotSel = s.sec.slotSel ∧ t.pm = s.pm))
end

