-- ==== Sys2Proof/Laws/Tbl.lean ====
section
/-!
SUPPORT. The laws of the sparse tables: what a key reads as after a write, and that every write keeps the canonical form
(notes/assumptions/5.md). The read laws hold of every table, in canonical form or not.
-/
namespace Sys2Proof.Machine

variable {α : Type}

theorem Tbl.get_put_self (d : α) (t : Tbl α) (k : Nat) (v : α) : Tbl.get d (Tbl.put t k v) k = v := by
  induction t with
  | nil => simp [Tbl.put, Tbl.get]
  | cons e r ih =>
    simp only [Tbl.put]
    split
    · simp [Tbl.get]
    · split
      · simp [Tbl.get]
      · simp [Tbl.get, *]

theorem Tbl.get_put_ne (d : α) (t : Tbl α) {k j : Nat} (v : α) (h : j ≠ k) :
    Tbl.get d (Tbl.put t k v) j = Tbl.get d t j := by
  induction t with
  | nil => simp [Tbl.put, Tbl.get, h]
  | cons e r ih =>
    simp only [Tbl.put]
    split
    · simp [Tbl.get, h]
    · split
      · next hk => simp [Tbl.get, h, ← hk]
      · simp only [Tbl.get, ih]

theorem Tbl.get_del_self (d : α) (t : Tbl α) (k : Nat) : Tbl.get d (Tbl.del t k) k = d := by
  induction t with
  | nil => rfl
  | cons e r ih =>
    simp only [Tbl.del]
    split
    · exact ih
    · next h => simp [Tbl.get, h, ih]

theorem Tbl.get_del_ne (d : α) (t : Tbl α) {k j : Nat} (h : j ≠ k) : Tbl.get d (Tbl.del t k) j = Tbl.get d t j := by
  induction t with
  | nil => rfl
  | cons e r ih =>
    simp only [Tbl.del]
    split
    · next hk => simp [Tbl.get, ih, ← hk, h]
    · simp only [Tbl.get, ih]

variable [DecidableEq α]

/-- A key reads as what was last written to it. -/
@[simp] theorem Tbl.get_set_self (d : α) (t : Tbl α) (k : Nat) (v : α) : Tbl.get d (Tbl.set d t k v) k = v := by
  unfold Tbl.set
  split
  · next h => rw [Tbl.get_del_self, h]
  · exact Tbl.get_put_self ..

/-- A write leaves every other key alone. -/
theorem Tbl.get_set_ne (d : α) (t : Tbl α) {k j : Nat} (v : α) (h : j ≠ k) :
    Tbl.get d (Tbl.set d t k v) j = Tbl.get d t j := by
  unfold Tbl.set
  split
  · exact Tbl.get_del_ne _ _ h
  · exact Tbl.get_put_ne _ _ _ h

/-- Both laws at once. -/
theorem Tbl.get_set (d : α) (t : Tbl α) (k j : Nat) (v : α) :
    Tbl.get d (Tbl.set d t k v) j = if j = k then v else Tbl.get d t j := by
  split
  · next h => rw [h, Tbl.get_set_self]
  · next h => exact Tbl.get_set_ne _ _ _ h

@[simp] theorem Tbl.get_upd_self (d : α) (t : Tbl α) (k : Nat) (f : α → α) :
    Tbl.get d (Tbl.upd d t k f) k = f (Tbl.get d t k) := Tbl.get_set_self ..

theorem Tbl.get_upd_ne (d : α) (t : Tbl α) {k j : Nat} (f : α → α) (h : j ≠ k) :
    Tbl.get d (Tbl.upd d t k f) j = Tbl.get d t j := Tbl.get_set_ne _ _ _ h

theorem Tbl.get_upd (d : α) (t : Tbl α) (k j : Nat) (f : α → α) :
    Tbl.get d (Tbl.upd d t k f) j = if j = k then f (Tbl.get d t k) else Tbl.get d t j := Tbl.get_set ..

/-- A write over a list of keys changes those keys alone. -/
theorem Tbl.get_updAll_ne (d : α) (ks : List Nat) (f : Nat → α → α) {j : Nat} (h : j ∉ ks) (t : Tbl α) :
    Tbl.get d (Tbl.updAll d t ks f) j = Tbl.get d t j := by
  unfold Tbl.updAll
  induction ks generalizing t with
  | nil => rfl
  | cons k r ih =>
    simp only [List.mem_cons, not_or] at h
    rw [List.foldl_cons, ih h.2, Tbl.get_upd_ne _ _ _ h.1]

/-- A key that stands once in the list is changed once. -/
theorem Tbl.get_updAll_mem (d : α) (ks : List Nat) (f : Nat → α → α) {j : Nat} (h : j ∈ ks) (nd : ks.Nodup) (t : Tbl α) :
    Tbl.get d (Tbl.updAll d t ks f) j = f j (Tbl.get d t j) := by
  induction ks generalizing t with
  | nil => cases h
  | cons k r ih =>
    have hn := List.nodup_cons.1 nd
    show Tbl.get d (Tbl.updAll d (Tbl.upd d t k (f k)) r f) j = _
    by_cases hj : j = k
    · subst hj
      rw [Tbl.get_updAll_ne _ _ _ hn.1, Tbl.get_upd_self]
    · rw [ih ((List.mem_cons.1 h).resolve_left hj) hn.2, Tbl.get_upd_ne _ _ _ hj]

/-! ### The canonical form is kept -/

/-- The form said of all entries at once: every key above `lo`, rising, and no default. -/
def Tbl.wfFrom (d : α) : Nat → Tbl α → Prop
  | _, [] => True
  | lo, (k, v) :: r => lo ≤ k ∧ v ≠ d ∧ Tbl.wfFrom d (k + 1) r

omit [DecidableEq α] in
theorem Tbl.wfFrom_mono (d : α) {lo lo' : Nat} (t : Tbl α) (h : Tbl.wfFrom d lo t) (le : lo' ≤ lo) : Tbl.wfFrom d lo' t := by
  cases t with
  | nil => trivial
  | cons e r => exact ⟨Nat.le_trans le h.1, h.2⟩

theorem Tbl.wf_iff (d : α) (t : Tbl α) : Tbl.wf d t = true ↔ Tbl.wfFrom d 0 t := by
  suffices h : ∀ (t : Tbl α) (k : Nat) (v : α), Tbl.wf d ((k, v) :: t) = true ↔ v ≠ d ∧ Tbl.wfFrom d (k + 1) t by
    cases t with
    | nil => simp [Tbl.wf, Tbl.wfFrom]
    | cons e r => simp [h, Tbl.wfFrom]
  intro t
  induction t with
  | nil => intro k v; simp [Tbl.wf, Tbl.wfFrom]
  | cons e r ih =>
    intro k v
    obtain ⟨k', v'⟩ := e
    have := ih k' v'
    simp only [Tbl.wf, Tbl.wfFrom, Bool.and_eq_true, decide_eq_true_eq, this]
    constructor
    · rintro ⟨⟨a, b⟩, c, e⟩; exact ⟨b, a, c, e⟩
    · rintro ⟨b, a, c, e⟩; exact ⟨⟨a, b⟩, c, e⟩

omit [DecidableEq α] in
theorem Tbl.wfFrom_put (d : α) {v : α} (hv : v ≠ d) (t : Tbl α) : ∀ {lo k : Nat}, lo ≤ k → Tbl.wfFrom d lo t →
    Tbl.wfFrom d lo (Tbl.put t k v) := by
  induction t with
  | nil => intro lo k hk _; exact ⟨hk, hv, trivial⟩
  | cons e r ih =>
    intro lo k hk h
    simp only [Tbl.put]
    split
    · next hlt => exact ⟨hk, hv, hlt, h.2⟩
    · split
      · next heq => exact ⟨hk, hv, heq ▸ h.2.2⟩
      · next h1 h2 => exact ⟨h.1, h.2.1, ih (by omega) h.2.2⟩

omit [DecidableEq α] in
theorem Tbl.wfFrom_del (d : α) (t : Tbl α) : ∀ {lo : Nat} (k : Nat), Tbl.wfFrom d lo t → Tbl.wfFrom d lo (Tbl.del t k) := by
  induction t with
  | nil => intro _ _ _; trivial
  | cons e r ih =>
    intro lo k h
    simp only [Tbl.del]
    split
    · exact Tbl.wfFrom_mono d _ (ih k h.2.2) (Nat.le_trans h.1 (Nat.le_succ _))
    · exact ⟨h.1, h.2.1, ih k h.2.2⟩

theorem Tbl.wf_set (d : α) {t : Tbl α} (h : Tbl.wf d t = true) (k : Nat) (v : α) : Tbl.wf d (Tbl.set d t k v) = true := by
  rw [Tbl.wf_iff] at *
  unfold Tbl.set
  split
  · exact Tbl.wfFrom_del d t k h
  · next hv => exact Tbl.wfFrom_put d hv t (Nat.zero_le _) h

theorem Tbl.wf_upd (d : α) {t : Tbl α} (h : Tbl.wf d t = true) (k : Nat) (f : α → α) : Tbl.wf d (Tbl.upd d t k f) = true :=
  Tbl.wf_set d h ..

theorem Tbl.wf_setRun (d : α) (vs : List α) : ∀ {t : Tbl α} (k : Nat), Tbl.wf d t = true → Tbl.wf d (Tbl.setRun d t k vs) = true := by
  induction vs with
  | nil => intro _ _ h; exact h
  | cons v r ih => intro t k h; exact ih _ (Tbl.wf_set d h k v)

theorem Tbl.wf_updAll (d : α) (f : Nat → α → α) (ks : List Nat) : ∀ {t : Tbl α}, Tbl.wf d t = true →
    Tbl.wf d (Tbl.updAll d t ks f) = true := by
  induction ks with
  | nil => intro _ h; exact h
  | cons k r ih => intro t h; exact ih (Tbl.wf_upd d h k (f k))

end Sys2Proof.Machine
end

