-- ==== Sys2Proof/Laws/State.lean ====
section
/-!
SUPPORT. The small lemmas of State: for each typed update, that every other field of State stays as it was (true by rfl, so
no later proof unfolds a record update), and what the typed parts read as after it.
-/
namespace Sys2Proof.Machine

variable (s : State)

/-! ### updBase -/

@[simp] theorem State.updBase_pending (n : Nat) (f : Base → Base) : (s.updBase n f).pending = s.pending := rfl
@[simp] theorem State.updBase_fresh (n : Nat) (f : Base → Base) : (s.updBase n f).fresh = s.fresh := rfl
@[simp] theorem State.updBase_flt (n : Nat) (f : Base → Base) : (s.updBase n f).flt = s.flt := rfl
@[simp] theorem State.updBase_auxs (n : Nat) (f : Base → Base) : (s.updBase n f).auxs = s.auxs := rfl
@[simp] theorem State.updBase_lin (n : Nat) (f : Base → Base) : (s.updBase n f).lin = s.lin := rfl
@[simp] theorem State.updBase_cal (n : Nat) (f : Base → Base) : (s.updBase n f).cal = s.cal := rfl
@[simp] theorem State.updBase_cap (n : Nat) (f : Base → Base) : (s.updBase n f).cap = s.cap := rfl
@[simp] theorem State.updBase_kzC (n : Nat) (f : Base → Base) : (s.updBase n f).kzC = s.kzC := rfl
@[simp] theorem State.updBase_kzD (n : Nat) (f : Base → Base) : (s.updBase n f).kzD = s.kzD := rfl
@[simp] theorem State.updBase_ring (n : Nat) (f : Base → Base) : (s.updBase n f).ring = s.ring := rfl
@[simp] theorem State.updBase_host (n : Nat) (f : Base → Base) : (s.updBase n f).host = s.host := rfl
@[simp] theorem State.updBase_hostMem (n : Nat) (f : Base → Base) : (s.updBase n f).hostMem = s.hostMem := rfl
@[simp] theorem State.updBase_dma (n : Nat) (f : Base → Base) : (s.updBase n f).dma = s.dma := rfl
@[simp] theorem State.updBase_fe (n : Nat) (f : Base → Base) : (s.updBase n f).fe = s.fe := rfl
@[simp] theorem State.updBase_mbx (n : Nat) (f : Base → Base) : (s.updBase n f).mbx = s.mbx := rfl
@[simp] theorem State.updBase_ic (n : Nat) (f : Base → Base) : (s.updBase n f).ic = s.ic := rfl
@[simp] theorem State.updBase_queues (n : Nat) (f : Base → Base) : (s.updBase n f).queues = s.queues := rfl
@[simp] theorem State.updBase_leases (n : Nat) (f : Base → Base) : (s.updBase n f).leases = s.leases := rfl
@[simp] theorem State.updBase_sec (n : Nat) (f : Base → Base) : (s.updBase n f).sec = s.sec := rfl
@[simp] theorem State.updBase_pm (n : Nat) (f : Base → Base) : (s.updBase n f).pm = s.pm := rfl

/-! ### updCluster -/

@[simp] theorem State.updCluster_pending (n : Nat) (f : Cluster → Cluster) : (s.updCluster n f).pending = s.pending := rfl
@[simp] theorem State.updCluster_fresh (n : Nat) (f : Cluster → Cluster) : (s.updCluster n f).fresh = s.fresh := rfl
@[simp] theorem State.updCluster_auxs (n : Nat) (f : Cluster → Cluster) : (s.updCluster n f).auxs = s.auxs := rfl
@[simp] theorem State.updCluster_lin (n : Nat) (f : Cluster → Cluster) : (s.updCluster n f).lin = s.lin := rfl
@[simp] theorem State.updCluster_cal (n : Nat) (f : Cluster → Cluster) : (s.updCluster n f).cal = s.cal := rfl
@[simp] theorem State.updCluster_time (n : Nat) (f : Cluster → Cluster) : (s.updCluster n f).time = s.time := rfl
@[simp] theorem State.updCluster_cap (n : Nat) (f : Cluster → Cluster) : (s.updCluster n f).cap = s.cap := rfl
@[simp] theorem State.updCluster_kzC (n : Nat) (f : Cluster → Cluster) : (s.updCluster n f).kzC = s.kzC := rfl
@[simp] theorem State.updCluster_kzD (n : Nat) (f : Cluster → Cluster) : (s.updCluster n f).kzD = s.kzD := rfl
@[simp] theorem State.updCluster_ring (n : Nat) (f : Cluster → Cluster) : (s.updCluster n f).ring = s.ring := rfl
@[simp] theorem State.updCluster_host (n : Nat) (f : Cluster → Cluster) : (s.updCluster n f).host = s.host := rfl
@[simp] theorem State.updCluster_hostMem (n : Nat) (f : Cluster → Cluster) : (s.updCluster n f).hostMem = s.hostMem := rfl
@[simp] theorem State.updCluster_dma (n : Nat) (f : Cluster → Cluster) : (s.updCluster n f).dma = s.dma := rfl
@[simp] theorem State.updCluster_fe (n : Nat) (f : Cluster → Cluster) : (s.updCluster n f).fe = s.fe := rfl
@[simp] theorem State.updCluster_mbx (n : Nat) (f : Cluster → Cluster) : (s.updCluster n f).mbx = s.mbx := rfl
@[simp] theorem State.updCluster_ic (n : Nat) (f : Cluster → Cluster) : (s.updCluster n f).ic = s.ic := rfl
@[simp] theorem State.updCluster_queues (n : Nat) (f : Cluster → Cluster) : (s.updCluster n f).queues = s.queues := rfl
@[simp] theorem State.updCluster_leases (n : Nat) (f : Cluster → Cluster) : (s.updCluster n f).leases = s.leases := rfl
@[simp] theorem State.updCluster_sec (n : Nat) (f : Cluster → Cluster) : (s.updCluster n f).sec = s.sec := rfl
@[simp] theorem State.updCluster_pm (n : Nat) (f : Cluster → Cluster) : (s.updCluster n f).pm = s.pm := rfl

/-! ### updChan -/

@[simp] theorem State.updChan_pending (n : Nat) (f : Chan → Chan) : (s.updChan n f).pending = s.pending := rfl
@[simp] theorem State.updChan_fresh (n : Nat) (f : Chan → Chan) : (s.updChan n f).fresh = s.fresh := rfl
@[simp] theorem State.updChan_auxs (n : Nat) (f : Chan → Chan) : (s.updChan n f).auxs = s.auxs := rfl
@[simp] theorem State.updChan_lin (n : Nat) (f : Chan → Chan) : (s.updChan n f).lin = s.lin := rfl
@[simp] theorem State.updChan_cal (n : Nat) (f : Chan → Chan) : (s.updChan n f).cal = s.cal := rfl
@[simp] theorem State.updChan_time (n : Nat) (f : Chan → Chan) : (s.updChan n f).time = s.time := rfl
@[simp] theorem State.updChan_cap (n : Nat) (f : Chan → Chan) : (s.updChan n f).cap = s.cap := rfl
@[simp] theorem State.updChan_kzC (n : Nat) (f : Chan → Chan) : (s.updChan n f).kzC = s.kzC := rfl
@[simp] theorem State.updChan_kzD (n : Nat) (f : Chan → Chan) : (s.updChan n f).kzD = s.kzD := rfl
@[simp] theorem State.updChan_ring (n : Nat) (f : Chan → Chan) : (s.updChan n f).ring = s.ring := rfl
@[simp] theorem State.updChan_host (n : Nat) (f : Chan → Chan) : (s.updChan n f).host = s.host := rfl
@[simp] theorem State.updChan_hostMem (n : Nat) (f : Chan → Chan) : (s.updChan n f).hostMem = s.hostMem := rfl
@[simp] theorem State.updChan_dma (n : Nat) (f : Chan → Chan) : (s.updChan n f).dma = s.dma := rfl
@[simp] theorem State.updChan_fe (n : Nat) (f : Chan → Chan) : (s.updChan n f).fe = s.fe := rfl
@[simp] theorem State.updChan_mbx (n : Nat) (f : Chan → Chan) : (s.updChan n f).mbx = s.mbx := rfl
@[simp] theorem State.updChan_ic (n : Nat) (f : Chan → Chan) : (s.updChan n f).ic = s.ic := rfl
@[simp] theorem State.updChan_queues (n : Nat) (f : Chan → Chan) : (s.updChan n f).queues = s.queues := rfl
@[simp] theorem State.updChan_leases (n : Nat) (f : Chan → Chan) : (s.updChan n f).leases = s.leases := rfl
@[simp] theorem State.updChan_sec (n : Nat) (f : Chan → Chan) : (s.updChan n f).sec = s.sec := rfl
@[simp] theorem State.updChan_pm (n : Nat) (f : Chan → Chan) : (s.updChan n f).pm = s.pm := rfl

/-! ### updSlice -/

@[simp] theorem State.updSlice_pending (n : Nat) (f : Slice → Slice) : (s.updSlice n f).pending = s.pending := rfl
@[simp] theorem State.updSlice_fresh (n : Nat) (f : Slice → Slice) : (s.updSlice n f).fresh = s.fresh := rfl
@[simp] theorem State.updSlice_auxs (n : Nat) (f : Slice → Slice) : (s.updSlice n f).auxs = s.auxs := rfl
@[simp] theorem State.updSlice_lin (n : Nat) (f : Slice → Slice) : (s.updSlice n f).lin = s.lin := rfl
@[simp] theorem State.updSlice_cal (n : Nat) (f : Slice → Slice) : (s.updSlice n f).cal = s.cal := rfl
@[simp] theorem State.updSlice_time (n : Nat) (f : Slice → Slice) : (s.updSlice n f).time = s.time := rfl
@[simp] theorem State.updSlice_cap (n : Nat) (f : Slice → Slice) : (s.updSlice n f).cap = s.cap := rfl
@[simp] theorem State.updSlice_kzC (n : Nat) (f : Slice → Slice) : (s.updSlice n f).kzC = s.kzC := rfl
@[simp] theorem State.updSlice_kzD (n : Nat) (f : Slice → Slice) : (s.updSlice n f).kzD = s.kzD := rfl
@[simp] theorem State.updSlice_ring (n : Nat) (f : Slice → Slice) : (s.updSlice n f).ring = s.ring := rfl
@[simp] theorem State.updSlice_host (n : Nat) (f : Slice → Slice) : (s.updSlice n f).host = s.host := rfl
@[simp] theorem State.updSlice_hostMem (n : Nat) (f : Slice → Slice) : (s.updSlice n f).hostMem = s.hostMem := rfl
@[simp] theorem State.updSlice_dma (n : Nat) (f : Slice → Slice) : (s.updSlice n f).dma = s.dma := rfl
@[simp] theorem State.updSlice_fe (n : Nat) (f : Slice → Slice) : (s.updSlice n f).fe = s.fe := rfl
@[simp] theorem State.updSlice_mbx (n : Nat) (f : Slice → Slice) : (s.updSlice n f).mbx = s.mbx := rfl
@[simp] theorem State.updSlice_ic (n : Nat) (f : Slice → Slice) : (s.updSlice n f).ic = s.ic := rfl
@[simp] theorem State.updSlice_queues (n : Nat) (f : Slice → Slice) : (s.updSlice n f).queues = s.queues := rfl
@[simp] theorem State.updSlice_leases (n : Nat) (f : Slice → Slice) : (s.updSlice n f).leases = s.leases := rfl
@[simp] theorem State.updSlice_sec (n : Nat) (f : Slice → Slice) : (s.updSlice n f).sec = s.sec := rfl
@[simp] theorem State.updSlice_pm (n : Nat) (f : Slice → Slice) : (s.updSlice n f).pm = s.pm := rfl

/-! ### updDie -/

@[simp] theorem State.updDie_pending (n : Nat) (f : FieldDie → FieldDie) : (s.updDie n f).pending = s.pending := rfl
@[simp] theorem State.updDie_fresh (n : Nat) (f : FieldDie → FieldDie) : (s.updDie n f).fresh = s.fresh := rfl
@[simp] theorem State.updDie_auxs (n : Nat) (f : FieldDie → FieldDie) : (s.updDie n f).auxs = s.auxs := rfl
@[simp] theorem State.updDie_lin (n : Nat) (f : FieldDie → FieldDie) : (s.updDie n f).lin = s.lin := rfl
@[simp] theorem State.updDie_cal (n : Nat) (f : FieldDie → FieldDie) : (s.updDie n f).cal = s.cal := rfl
@[simp] theorem State.updDie_time (n : Nat) (f : FieldDie → FieldDie) : (s.updDie n f).time = s.time := rfl
@[simp] theorem State.updDie_cap (n : Nat) (f : FieldDie → FieldDie) : (s.updDie n f).cap = s.cap := rfl
@[simp] theorem State.updDie_kzC (n : Nat) (f : FieldDie → FieldDie) : (s.updDie n f).kzC = s.kzC := rfl
@[simp] theorem State.updDie_kzD (n : Nat) (f : FieldDie → FieldDie) : (s.updDie n f).kzD = s.kzD := rfl
@[simp] theorem State.updDie_ring (n : Nat) (f : FieldDie → FieldDie) : (s.updDie n f).ring = s.ring := rfl
@[simp] theorem State.updDie_host (n : Nat) (f : FieldDie → FieldDie) : (s.updDie n f).host = s.host := rfl
@[simp] theorem State.updDie_hostMem (n : Nat) (f : FieldDie → FieldDie) : (s.updDie n f).hostMem = s.hostMem := rfl
@[simp] theorem State.updDie_dma (n : Nat) (f : FieldDie → FieldDie) : (s.updDie n f).dma = s.dma := rfl
@[simp] theorem State.updDie_fe (n : Nat) (f : FieldDie → FieldDie) : (s.updDie n f).fe = s.fe := rfl
@[simp] theorem State.updDie_mbx (n : Nat) (f : FieldDie → FieldDie) : (s.updDie n f).mbx = s.mbx := rfl
@[simp] theorem State.updDie_ic (n : Nat) (f : FieldDie → FieldDie) : (s.updDie n f).ic = s.ic := rfl
@[simp] theorem State.updDie_queues (n : Nat) (f : FieldDie → FieldDie) : (s.updDie n f).queues = s.queues := rfl
@[simp] theorem State.updDie_leases (n : Nat) (f : FieldDie → FieldDie) : (s.updDie n f).leases = s.leases := rfl
@[simp] theorem State.updDie_sec (n : Nat) (f : FieldDie → FieldDie) : (s.updDie n f).sec = s.sec := rfl
@[simp] theorem State.updDie_pm (n : Nat) (f : FieldDie → FieldDie) : (s.updDie n f).pm = s.pm := rfl

/-! ### updLadder -/

@[simp] theorem State.updLadder_pending (n : Nat) (f : Ladder → Ladder) : (s.updLadder n f).pending = s.pending := rfl
@[simp] theorem State.updLadder_fresh (n : Nat) (f : Ladder → Ladder) : (s.updLadder n f).fresh = s.fresh := rfl
@[simp] theorem State.updLadder_auxs (n : Nat) (f : Ladder → Ladder) : (s.updLadder n f).auxs = s.auxs := rfl
@[simp] theorem State.updLadder_lin (n : Nat) (f : Ladder → Ladder) : (s.updLadder n f).lin = s.lin := rfl
@[simp] theorem State.updLadder_cal (n : Nat) (f : Ladder → Ladder) : (s.updLadder n f).cal = s.cal := rfl
@[simp] theorem State.updLadder_time (n : Nat) (f : Ladder → Ladder) : (s.updLadder n f).time = s.time := rfl
@[simp] theorem State.updLadder_cap (n : Nat) (f : Ladder → Ladder) : (s.updLadder n f).cap = s.cap := rfl
@[simp] theorem State.updLadder_kzC (n : Nat) (f : Ladder → Ladder) : (s.updLadder n f).kzC = s.kzC := rfl
@[simp] theorem State.updLadder_kzD (n : Nat) (f : Ladder → Ladder) : (s.updLadder n f).kzD = s.kzD := rfl
@[simp] theorem State.updLadder_ring (n : Nat) (f : Ladder → Ladder) : (s.updLadder n f).ring = s.ring := rfl
@[simp] theorem State.updLadder_host (n : Nat) (f : Ladder → Ladder) : (s.updLadder n f).host = s.host := rfl
@[simp] theorem State.updLadder_hostMem (n : Nat) (f : Ladder → Ladder) : (s.updLadder n f).hostMem = s.hostMem := rfl
@[simp] theorem State.updLadder_dma (n : Nat) (f : Ladder → Ladder) : (s.updLadder n f).dma = s.dma := rfl
@[simp] theorem State.updLadder_fe (n : Nat) (f : Ladder → Ladder) : (s.updLadder n f).fe = s.fe := rfl
@[simp] theorem State.updLadder_mbx (n : Nat) (f : Ladder → Ladder) : (s.updLadder n f).mbx = s.mbx := rfl
@[simp] theorem State.updLadder_ic (n : Nat) (f : Ladder → Ladder) : (s.updLadder n f).ic = s.ic := rfl
@[simp] theorem State.updLadder_queues (n : Nat) (f : Ladder → Ladder) : (s.updLadder n f).queues = s.queues := rfl
@[simp] theorem State.updLadder_leases (n : Nat) (f : Ladder → Ladder) : (s.updLadder n f).leases = s.leases := rfl
@[simp] theorem State.updLadder_sec (n : Nat) (f : Ladder → Ladder) : (s.updLadder n f).sec = s.sec := rfl
@[simp] theorem State.updLadder_pm (n : Nat) (f : Ladder → Ladder) : (s.updLadder n f).pm = s.pm := rfl

/-! ### updDrv -/

@[simp] theorem State.updDrv_pending (n : Nat) (f : Drv → Drv) : (s.updDrv n f).pending = s.pending := rfl
@[simp] theorem State.updDrv_fresh (n : Nat) (f : Drv → Drv) : (s.updDrv n f).fresh = s.fresh := rfl
@[simp] theorem State.updDrv_auxs (n : Nat) (f : Drv → Drv) : (s.updDrv n f).auxs = s.auxs := rfl
@[simp] theorem State.updDrv_lin (n : Nat) (f : Drv → Drv) : (s.updDrv n f).lin = s.lin := rfl
@[simp] theorem State.updDrv_cal (n : Nat) (f : Drv → Drv) : (s.updDrv n f).cal = s.cal := rfl
@[simp] theorem State.updDrv_time (n : Nat) (f : Drv → Drv) : (s.updDrv n f).time = s.time := rfl
@[simp] theorem State.updDrv_cap (n : Nat) (f : Drv → Drv) : (s.updDrv n f).cap = s.cap := rfl
@[simp] theorem State.updDrv_kzC (n : Nat) (f : Drv → Drv) : (s.updDrv n f).kzC = s.kzC := rfl
@[simp] theorem State.updDrv_kzD (n : Nat) (f : Drv → Drv) : (s.updDrv n f).kzD = s.kzD := rfl
@[simp] theorem State.updDrv_ring (n : Nat) (f : Drv → Drv) : (s.updDrv n f).ring = s.ring := rfl
@[simp] theorem State.updDrv_host (n : Nat) (f : Drv → Drv) : (s.updDrv n f).host = s.host := rfl
@[simp] theorem State.updDrv_hostMem (n : Nat) (f : Drv → Drv) : (s.updDrv n f).hostMem = s.hostMem := rfl
@[simp] theorem State.updDrv_dma (n : Nat) (f : Drv → Drv) : (s.updDrv n f).dma = s.dma := rfl
@[simp] theorem State.updDrv_fe (n : Nat) (f : Drv → Drv) : (s.updDrv n f).fe = s.fe := rfl
@[simp] theorem State.updDrv_mbx (n : Nat) (f : Drv → Drv) : (s.updDrv n f).mbx = s.mbx := rfl
@[simp] theorem State.updDrv_ic (n : Nat) (f : Drv → Drv) : (s.updDrv n f).ic = s.ic := rfl
@[simp] theorem State.updDrv_queues (n : Nat) (f : Drv → Drv) : (s.updDrv n f).queues = s.queues := rfl
@[simp] theorem State.updDrv_leases (n : Nat) (f : Drv → Drv) : (s.updDrv n f).leases = s.leases := rfl
@[simp] theorem State.updDrv_sec (n : Nat) (f : Drv → Drv) : (s.updDrv n f).sec = s.sec := rfl
@[simp] theorem State.updDrv_pm (n : Nat) (f : Drv → Drv) : (s.updDrv n f).pm = s.pm := rfl

/-! ### updRot -/

@[simp] theorem State.updRot_pending (n : Nat) (f : Rot → Rot) : (s.updRot n f).pending = s.pending := rfl
@[simp] theorem State.updRot_fresh (n : Nat) (f : Rot → Rot) : (s.updRot n f).fresh = s.fresh := rfl
@[simp] theorem State.updRot_auxs (n : Nat) (f : Rot → Rot) : (s.updRot n f).auxs = s.auxs := rfl
@[simp] theorem State.updRot_lin (n : Nat) (f : Rot → Rot) : (s.updRot n f).lin = s.lin := rfl
@[simp] theorem State.updRot_cal (n : Nat) (f : Rot → Rot) : (s.updRot n f).cal = s.cal := rfl
@[simp] theorem State.updRot_time (n : Nat) (f : Rot → Rot) : (s.updRot n f).time = s.time := rfl
@[simp] theorem State.updRot_cap (n : Nat) (f : Rot → Rot) : (s.updRot n f).cap = s.cap := rfl
@[simp] theorem State.updRot_kzC (n : Nat) (f : Rot → Rot) : (s.updRot n f).kzC = s.kzC := rfl
@[simp] theorem State.updRot_kzD (n : Nat) (f : Rot → Rot) : (s.updRot n f).kzD = s.kzD := rfl
@[simp] theorem State.updRot_ring (n : Nat) (f : Rot → Rot) : (s.updRot n f).ring = s.ring := rfl
@[simp] theorem State.updRot_host (n : Nat) (f : Rot → Rot) : (s.updRot n f).host = s.host := rfl
@[simp] theorem State.updRot_hostMem (n : Nat) (f : Rot → Rot) : (s.updRot n f).hostMem = s.hostMem := rfl
@[simp] theorem State.updRot_dma (n : Nat) (f : Rot → Rot) : (s.updRot n f).dma = s.dma := rfl
@[simp] theorem State.updRot_fe (n : Nat) (f : Rot → Rot) : (s.updRot n f).fe = s.fe := rfl
@[simp] theorem State.updRot_mbx (n : Nat) (f : Rot → Rot) : (s.updRot n f).mbx = s.mbx := rfl
@[simp] theorem State.updRot_ic (n : Nat) (f : Rot → Rot) : (s.updRot n f).ic = s.ic := rfl
@[simp] theorem State.updRot_queues (n : Nat) (f : Rot → Rot) : (s.updRot n f).queues = s.queues := rfl
@[simp] theorem State.updRot_leases (n : Nat) (f : Rot → Rot) : (s.updRot n f).leases = s.leases := rfl
@[simp] theorem State.updRot_sec (n : Nat) (f : Rot → Rot) : (s.updRot n f).sec = s.sec := rfl
@[simp] theorem State.updRot_pm (n : Nat) (f : Rot → Rot) : (s.updRot n f).pm = s.pm := rfl

/-! ### updAux -/

@[simp] theorem State.updAux_pending (n : Nat) (f : AuxSt → AuxSt) : (s.updAux n f).pending = s.pending := rfl
@[simp] theorem State.updAux_fresh (n : Nat) (f : AuxSt → AuxSt) : (s.updAux n f).fresh = s.fresh := rfl
@[simp] theorem State.updAux_flt (n : Nat) (f : AuxSt → AuxSt) : (s.updAux n f).flt = s.flt := rfl
@[simp] theorem State.updAux_lin (n : Nat) (f : AuxSt → AuxSt) : (s.updAux n f).lin = s.lin := rfl
@[simp] theorem State.updAux_cal (n : Nat) (f : AuxSt → AuxSt) : (s.updAux n f).cal = s.cal := rfl
@[simp] theorem State.updAux_time (n : Nat) (f : AuxSt → AuxSt) : (s.updAux n f).time = s.time := rfl
@[simp] theorem State.updAux_cap (n : Nat) (f : AuxSt → AuxSt) : (s.updAux n f).cap = s.cap := rfl
@[simp] theorem State.updAux_kzC (n : Nat) (f : AuxSt → AuxSt) : (s.updAux n f).kzC = s.kzC := rfl
@[simp] theorem State.updAux_kzD (n : Nat) (f : AuxSt → AuxSt) : (s.updAux n f).kzD = s.kzD := rfl
@[simp] theorem State.updAux_ring (n : Nat) (f : AuxSt → AuxSt) : (s.updAux n f).ring = s.ring := rfl
@[simp] theorem State.updAux_host (n : Nat) (f : AuxSt → AuxSt) : (s.updAux n f).host = s.host := rfl
@[simp] theorem State.updAux_hostMem (n : Nat) (f : AuxSt → AuxSt) : (s.updAux n f).hostMem = s.hostMem := rfl
@[simp] theorem State.updAux_dma (n : Nat) (f : AuxSt → AuxSt) : (s.updAux n f).dma = s.dma := rfl
@[simp] theorem State.updAux_fe (n : Nat) (f : AuxSt → AuxSt) : (s.updAux n f).fe = s.fe := rfl
@[simp] theorem State.updAux_mbx (n : Nat) (f : AuxSt → AuxSt) : (s.updAux n f).mbx = s.mbx := rfl
@[simp] theorem State.updAux_ic (n : Nat) (f : AuxSt → AuxSt) : (s.updAux n f).ic = s.ic := rfl
@[simp] theorem State.updAux_queues (n : Nat) (f : AuxSt → AuxSt) : (s.updAux n f).queues = s.queues := rfl
@[simp] theorem State.updAux_leases (n : Nat) (f : AuxSt → AuxSt) : (s.updAux n f).leases = s.leases := rfl
@[simp] theorem State.updAux_sec (n : Nat) (f : AuxSt → AuxSt) : (s.updAux n f).sec = s.sec := rfl
@[simp] theorem State.updAux_pm (n : Nat) (f : AuxSt → AuxSt) : (s.updAux n f).pm = s.pm := rfl

/-! ### updDma -/

@[simp] theorem State.updDma_pending (n : Nat) (f : DmaCh → DmaCh) : (s.updDma n f).pending = s.pending := rfl
@[simp] theorem State.updDma_fresh (n : Nat) (f : DmaCh → DmaCh) : (s.updDma n f).fresh = s.fresh := rfl
@[simp] theorem State.updDma_flt (n : Nat) (f : DmaCh → DmaCh) : (s.updDma n f).flt = s.flt := rfl
@[simp] theorem State.updDma_auxs (n : Nat) (f : DmaCh → DmaCh) : (s.updDma n f).auxs = s.auxs := rfl
@[simp] theorem State.updDma_lin (n : Nat) (f : DmaCh → DmaCh) : (s.updDma n f).lin = s.lin := rfl
@[simp] theorem State.updDma_cal (n : Nat) (f : DmaCh → DmaCh) : (s.updDma n f).cal = s.cal := rfl
@[simp] theorem State.updDma_time (n : Nat) (f : DmaCh → DmaCh) : (s.updDma n f).time = s.time := rfl
@[simp] theorem State.updDma_cap (n : Nat) (f : DmaCh → DmaCh) : (s.updDma n f).cap = s.cap := rfl
@[simp] theorem State.updDma_kzC (n : Nat) (f : DmaCh → DmaCh) : (s.updDma n f).kzC = s.kzC := rfl
@[simp] theorem State.updDma_kzD (n : Nat) (f : DmaCh → DmaCh) : (s.updDma n f).kzD = s.kzD := rfl
@[simp] theorem State.updDma_ring (n : Nat) (f : DmaCh → DmaCh) : (s.updDma n f).ring = s.ring := rfl
@[simp] theorem State.updDma_host (n : Nat) (f : DmaCh → DmaCh) : (s.updDma n f).host = s.host := rfl
@[simp] theorem State.updDma_hostMem (n : Nat) (f : DmaCh → DmaCh) : (s.updDma n f).hostMem = s.hostMem := rfl
@[simp] theorem State.updDma_fe (n : Nat) (f : DmaCh → DmaCh) : (s.updDma n f).fe = s.fe := rfl
@[simp] theorem State.updDma_mbx (n : Nat) (f : DmaCh → DmaCh) : (s.updDma n f).mbx = s.mbx := rfl
@[simp] theorem State.updDma_ic (n : Nat) (f : DmaCh → DmaCh) : (s.updDma n f).ic = s.ic := rfl
@[simp] theorem State.updDma_queues (n : Nat) (f : DmaCh → DmaCh) : (s.updDma n f).queues = s.queues := rfl
@[simp] theorem State.updDma_leases (n : Nat) (f : DmaCh → DmaCh) : (s.updDma n f).leases = s.leases := rfl
@[simp] theorem State.updDma_sec (n : Nat) (f : DmaCh → DmaCh) : (s.updDma n f).sec = s.sec := rfl
@[simp] theorem State.updDma_pm (n : Nat) (f : DmaCh → DmaCh) : (s.updDma n f).pm = s.pm := rfl

/-! ### updSeq -/

@[simp] theorem State.updSeq_pending (n : Nat) (f : Seq → Seq) : (s.updSeq n f).pending = s.pending := rfl
@[simp] theorem State.updSeq_fresh (n : Nat) (f : Seq → Seq) : (s.updSeq n f).fresh = s.fresh := rfl
@[simp] theorem State.updSeq_flt (n : Nat) (f : Seq → Seq) : (s.updSeq n f).flt = s.flt := rfl
@[simp] theorem State.updSeq_auxs (n : Nat) (f : Seq → Seq) : (s.updSeq n f).auxs = s.auxs := rfl
@[simp] theorem State.updSeq_lin (n : Nat) (f : Seq → Seq) : (s.updSeq n f).lin = s.lin := rfl
@[simp] theorem State.updSeq_cal (n : Nat) (f : Seq → Seq) : (s.updSeq n f).cal = s.cal := rfl
@[simp] theorem State.updSeq_time (n : Nat) (f : Seq → Seq) : (s.updSeq n f).time = s.time := rfl
@[simp] theorem State.updSeq_kzC (n : Nat) (f : Seq → Seq) : (s.updSeq n f).kzC = s.kzC := rfl
@[simp] theorem State.updSeq_kzD (n : Nat) (f : Seq → Seq) : (s.updSeq n f).kzD = s.kzD := rfl
@[simp] theorem State.updSeq_ring (n : Nat) (f : Seq → Seq) : (s.updSeq n f).ring = s.ring := rfl
@[simp] theorem State.updSeq_host (n : Nat) (f : Seq → Seq) : (s.updSeq n f).host = s.host := rfl
@[simp] theorem State.updSeq_hostMem (n : Nat) (f : Seq → Seq) : (s.updSeq n f).hostMem = s.hostMem := rfl
@[simp] theorem State.updSeq_dma (n : Nat) (f : Seq → Seq) : (s.updSeq n f).dma = s.dma := rfl
@[simp] theorem State.updSeq_fe (n : Nat) (f : Seq → Seq) : (s.updSeq n f).fe = s.fe := rfl
@[simp] theorem State.updSeq_mbx (n : Nat) (f : Seq → Seq) : (s.updSeq n f).mbx = s.mbx := rfl
@[simp] theorem State.updSeq_ic (n : Nat) (f : Seq → Seq) : (s.updSeq n f).ic = s.ic := rfl
@[simp] theorem State.updSeq_queues (n : Nat) (f : Seq → Seq) : (s.updSeq n f).queues = s.queues := rfl
@[simp] theorem State.updSeq_leases (n : Nat) (f : Seq → Seq) : (s.updSeq n f).leases = s.leases := rfl
@[simp] theorem State.updSeq_sec (n : Nat) (f : Seq → Seq) : (s.updSeq n f).sec = s.sec := rfl
@[simp] theorem State.updSeq_pm (n : Nat) (f : Seq → Seq) : (s.updSeq n f).pm = s.pm := rfl

/-! ### updTev -/

@[simp] theorem State.updTev_pending (n : Nat) (f : TimeEv → TimeEv) : (s.updTev n f).pending = s.pending := rfl
@[simp] theorem State.updTev_fresh (n : Nat) (f : TimeEv → TimeEv) : (s.updTev n f).fresh = s.fresh := rfl
@[simp] theorem State.updTev_flt (n : Nat) (f : TimeEv → TimeEv) : (s.updTev n f).flt = s.flt := rfl
@[simp] theorem State.updTev_auxs (n : Nat) (f : TimeEv → TimeEv) : (s.updTev n f).auxs = s.auxs := rfl
@[simp] theorem State.updTev_lin (n : Nat) (f : TimeEv → TimeEv) : (s.updTev n f).lin = s.lin := rfl
@[simp] theorem State.updTev_cal (n : Nat) (f : TimeEv → TimeEv) : (s.updTev n f).cal = s.cal := rfl
@[simp] theorem State.updTev_cap (n : Nat) (f : TimeEv → TimeEv) : (s.updTev n f).cap = s.cap := rfl
@[simp] theorem State.updTev_kzC (n : Nat) (f : TimeEv → TimeEv) : (s.updTev n f).kzC = s.kzC := rfl
@[simp] theorem State.updTev_kzD (n : Nat) (f : TimeEv → TimeEv) : (s.updTev n f).kzD = s.kzD := rfl
@[simp] theorem State.updTev_ring (n : Nat) (f : TimeEv → TimeEv) : (s.updTev n f).ring = s.ring := rfl
@[simp] theorem State.updTev_host (n : Nat) (f : TimeEv → TimeEv) : (s.updTev n f).host = s.host := rfl
@[simp] theorem State.updTev_hostMem (n : Nat) (f : TimeEv → TimeEv) : (s.updTev n f).hostMem = s.hostMem := rfl
@[simp] theorem State.updTev_dma (n : Nat) (f : TimeEv → TimeEv) : (s.updTev n f).dma = s.dma := rfl
@[simp] theorem State.updTev_fe (n : Nat) (f : TimeEv → TimeEv) : (s.updTev n f).fe = s.fe := rfl
@[simp] theorem State.updTev_mbx (n : Nat) (f : TimeEv → TimeEv) : (s.updTev n f).mbx = s.mbx := rfl
@[simp] theorem State.updTev_ic (n : Nat) (f : TimeEv → TimeEv) : (s.updTev n f).ic = s.ic := rfl
@[simp] theorem State.updTev_queues (n : Nat) (f : TimeEv → TimeEv) : (s.updTev n f).queues = s.queues := rfl
@[simp] theorem State.updTev_leases (n : Nat) (f : TimeEv → TimeEv) : (s.updTev n f).leases = s.leases := rfl
@[simp] theorem State.updTev_sec (n : Nat) (f : TimeEv → TimeEv) : (s.updTev n f).sec = s.sec := rfl
@[simp] theorem State.updTev_pm (n : Nat) (f : TimeEv → TimeEv) : (s.updTev n f).pm = s.pm := rfl

/-! ### updRx -/

@[simp] theorem State.updRx_pending (n : Nat) (f : RxSrc → RxSrc) : (s.updRx n f).pending = s.pending := rfl
@[simp] theorem State.updRx_fresh (n : Nat) (f : RxSrc → RxSrc) : (s.updRx n f).fresh = s.fresh := rfl
@[simp] theorem State.updRx_flt (n : Nat) (f : RxSrc → RxSrc) : (s.updRx n f).flt = s.flt := rfl
@[simp] theorem State.updRx_auxs (n : Nat) (f : RxSrc → RxSrc) : (s.updRx n f).auxs = s.auxs := rfl
@[simp] theorem State.updRx_lin (n : Nat) (f : RxSrc → RxSrc) : (s.updRx n f).lin = s.lin := rfl
@[simp] theorem State.updRx_cal (n : Nat) (f : RxSrc → RxSrc) : (s.updRx n f).cal = s.cal := rfl
@[simp] theorem State.updRx_time (n : Nat) (f : RxSrc → RxSrc) : (s.updRx n f).time = s.time := rfl
@[simp] theorem State.updRx_cap (n : Nat) (f : RxSrc → RxSrc) : (s.updRx n f).cap = s.cap := rfl
@[simp] theorem State.updRx_kzC (n : Nat) (f : RxSrc → RxSrc) : (s.updRx n f).kzC = s.kzC := rfl
@[simp] theorem State.updRx_kzD (n : Nat) (f : RxSrc → RxSrc) : (s.updRx n f).kzD = s.kzD := rfl
@[simp] theorem State.updRx_host (n : Nat) (f : RxSrc → RxSrc) : (s.updRx n f).host = s.host := rfl
@[simp] theorem State.updRx_hostMem (n : Nat) (f : RxSrc → RxSrc) : (s.updRx n f).hostMem = s.hostMem := rfl
@[simp] theorem State.updRx_dma (n : Nat) (f : RxSrc → RxSrc) : (s.updRx n f).dma = s.dma := rfl
@[simp] theorem State.updRx_fe (n : Nat) (f : RxSrc → RxSrc) : (s.updRx n f).fe = s.fe := rfl
@[simp] theorem State.updRx_mbx (n : Nat) (f : RxSrc → RxSrc) : (s.updRx n f).mbx = s.mbx := rfl
@[simp] theorem State.updRx_ic (n : Nat) (f : RxSrc → RxSrc) : (s.updRx n f).ic = s.ic := rfl
@[simp] theorem State.updRx_queues (n : Nat) (f : RxSrc → RxSrc) : (s.updRx n f).queues = s.queues := rfl
@[simp] theorem State.updRx_leases (n : Nat) (f : RxSrc → RxSrc) : (s.updRx n f).leases = s.leases := rfl
@[simp] theorem State.updRx_sec (n : Nat) (f : RxSrc → RxSrc) : (s.updRx n f).sec = s.sec := rfl
@[simp] theorem State.updRx_pm (n : Nat) (f : RxSrc → RxSrc) : (s.updRx n f).pm = s.pm := rfl

/-! ### updBank -/

@[simp] theorem State.updBank_pending (v : Via) (f : Bank → Bank) : (s.updBank v f).pending = s.pending := rfl
@[simp] theorem State.updBank_fresh (v : Via) (f : Bank → Bank) : (s.updBank v f).fresh = s.fresh := rfl
@[simp] theorem State.updBank_flt (v : Via) (f : Bank → Bank) : (s.updBank v f).flt = s.flt := rfl
@[simp] theorem State.updBank_auxs (v : Via) (f : Bank → Bank) : (s.updBank v f).auxs = s.auxs := rfl
@[simp] theorem State.updBank_lin (v : Via) (f : Bank → Bank) : (s.updBank v f).lin = s.lin := rfl
@[simp] theorem State.updBank_cal (v : Via) (f : Bank → Bank) : (s.updBank v f).cal = s.cal := rfl
@[simp] theorem State.updBank_time (v : Via) (f : Bank → Bank) : (s.updBank v f).time = s.time := rfl
@[simp] theorem State.updBank_cap (v : Via) (f : Bank → Bank) : (s.updBank v f).cap = s.cap := rfl
@[simp] theorem State.updBank_kzC (v : Via) (f : Bank → Bank) : (s.updBank v f).kzC = s.kzC := rfl
@[simp] theorem State.updBank_kzD (v : Via) (f : Bank → Bank) : (s.updBank v f).kzD = s.kzD := rfl
@[simp] theorem State.updBank_ring (v : Via) (f : Bank → Bank) : (s.updBank v f).ring = s.ring := rfl
@[simp] theorem State.updBank_host (v : Via) (f : Bank → Bank) : (s.updBank v f).host = s.host := rfl
@[simp] theorem State.updBank_hostMem (v : Via) (f : Bank → Bank) : (s.updBank v f).hostMem = s.hostMem := rfl
@[simp] theorem State.updBank_dma (v : Via) (f : Bank → Bank) : (s.updBank v f).dma = s.dma := rfl
@[simp] theorem State.updBank_fe (v : Via) (f : Bank → Bank) : (s.updBank v f).fe = s.fe := rfl
@[simp] theorem State.updBank_ic (v : Via) (f : Bank → Bank) : (s.updBank v f).ic = s.ic := rfl
@[simp] theorem State.updBank_queues (v : Via) (f : Bank → Bank) : (s.updBank v f).queues = s.queues := rfl
@[simp] theorem State.updBank_leases (v : Via) (f : Bank → Bank) : (s.updBank v f).leases = s.leases := rfl
@[simp] theorem State.updBank_sec (v : Via) (f : Bank → Bank) : (s.updBank v f).sec = s.sec := rfl
@[simp] theorem State.updBank_pm (v : Via) (f : Bank → Bank) : (s.updBank v f).pm = s.pm := rfl

/-! ### updCluster within the filter engine -/

@[simp] theorem State.updCluster_flt_rows (n : Nat) (f : Cluster → Cluster) : (s.updCluster n f).flt.rows = s.flt.rows := rfl
@[simp] theorem State.updCluster_flt_chain (n : Nat) (f : Cluster → Cluster) : (s.updCluster n f).flt.chain = s.flt.chain := rfl
@[simp] theorem State.updCluster_flt_sync (n : Nat) (f : Cluster → Cluster) : (s.updCluster n f).flt.sync = s.flt.sync := rfl
@[simp] theorem State.updCluster_flt_chans (n : Nat) (f : Cluster → Cluster) : (s.updCluster n f).flt.chans = s.flt.chans := rfl
@[simp] theorem State.updCluster_flt_slices (n : Nat) (f : Cluster → Cluster) : (s.updCluster n f).flt.slices = s.flt.slices := rfl
@[simp] theorem State.updCluster_flt_corr (n : Nat) (f : Cluster → Cluster) : (s.updCluster n f).flt.corr = s.flt.corr := rfl
@[simp] theorem State.updCluster_flt_inPhase (n : Nat) (f : Cluster → Cluster) : (s.updCluster n f).flt.inPhase = s.flt.inPhase := rfl
@[simp] theorem State.updCluster_flt_quad (n : Nat) (f : Cluster → Cluster) : (s.updCluster n f).flt.quad = s.flt.quad := rfl
@[simp] theorem State.updCluster_flt_chainI (n : Nat) (f : Cluster → Cluster) : (s.updCluster n f).flt.chainI = s.flt.chainI := rfl
@[simp] theorem State.updCluster_flt_chainQ (n : Nat) (f : Cluster → Cluster) : (s.updCluster n f).flt.chainQ = s.flt.chainQ := rfl
@[simp] theorem State.updCluster_flt_skewRows (n : Nat) (f : Cluster → Cluster) : (s.updCluster n f).flt.skewRows = s.flt.skewRows := rfl
@[simp] theorem State.updCluster_flt_ladders (n : Nat) (f : Cluster → Cluster) : (s.updCluster n f).flt.ladders = s.flt.ladders := rfl
@[simp] theorem State.updCluster_flt_dies (n : Nat) (f : Cluster → Cluster) : (s.updCluster n f).flt.dies = s.flt.dies := rfl
@[simp] theorem State.updCluster_flt_wfLast (n : Nat) (f : Cluster → Cluster) : (s.updCluster n f).flt.wfLast = s.flt.wfLast := rfl
@[simp] theorem State.updCluster_flt_thrState (n : Nat) (f : Cluster → Cluster) : (s.updCluster n f).flt.thrState = s.flt.thrState := rfl
@[simp] theorem State.updCluster_flt_thrInit (n : Nat) (f : Cluster → Cluster) : (s.updCluster n f).flt.thrInit = s.flt.thrInit := rfl
@[simp] theorem State.updCluster_flt_thrEvent (n : Nat) (f : Cluster → Cluster) : (s.updCluster n f).flt.thrEvent = s.flt.thrEvent := rfl
@[simp] theorem State.updCluster_flt_thrRise (n : Nat) (f : Cluster → Cluster) : (s.updCluster n f).flt.thrRise = s.flt.thrRise := rfl
@[simp] theorem State.updCluster_flt_thrFall (n : Nat) (f : Cluster → Cluster) : (s.updCluster n f).flt.thrFall = s.flt.thrFall := rfl
@[simp] theorem State.updCluster_flt_recent (n : Nat) (f : Cluster → Cluster) : (s.updCluster n f).flt.recent = s.flt.recent := rfl

/-! ### updChan within the filter engine -/

@[simp] theorem State.updChan_flt_rows (n : Nat) (f : Chan → Chan) : (s.updChan n f).flt.rows = s.flt.rows := rfl
@[simp] theorem State.updChan_flt_chain (n : Nat) (f : Chan → Chan) : (s.updChan n f).flt.chain = s.flt.chain := rfl
@[simp] theorem State.updChan_flt_sync (n : Nat) (f : Chan → Chan) : (s.updChan n f).flt.sync = s.flt.sync := rfl
@[simp] theorem State.updChan_flt_clusters (n : Nat) (f : Chan → Chan) : (s.updChan n f).flt.clusters = s.flt.clusters := rfl
@[simp] theorem State.updChan_flt_slices (n : Nat) (f : Chan → Chan) : (s.updChan n f).flt.slices = s.flt.slices := rfl
@[simp] theorem State.updChan_flt_corr (n : Nat) (f : Chan → Chan) : (s.updChan n f).flt.corr = s.flt.corr := rfl
@[simp] theorem State.updChan_flt_inPhase (n : Nat) (f : Chan → Chan) : (s.updChan n f).flt.inPhase = s.flt.inPhase := rfl
@[simp] theorem State.updChan_flt_quad (n : Nat) (f : Chan → Chan) : (s.updChan n f).flt.quad = s.flt.quad := rfl
@[simp] theorem State.updChan_flt_chainI (n : Nat) (f : Chan → Chan) : (s.updChan n f).flt.chainI = s.flt.chainI := rfl
@[simp] theorem State.updChan_flt_chainQ (n : Nat) (f : Chan → Chan) : (s.updChan n f).flt.chainQ = s.flt.chainQ := rfl
@[simp] theorem State.updChan_flt_skewRows (n : Nat) (f : Chan → Chan) : (s.updChan n f).flt.skewRows = s.flt.skewRows := rfl
@[simp] theorem State.updChan_flt_ladders (n : Nat) (f : Chan → Chan) : (s.updChan n f).flt.ladders = s.flt.ladders := rfl
@[simp] theorem State.updChan_flt_dies (n : Nat) (f : Chan → Chan) : (s.updChan n f).flt.dies = s.flt.dies := rfl
@[simp] theorem State.updChan_flt_wfLast (n : Nat) (f : Chan → Chan) : (s.updChan n f).flt.wfLast = s.flt.wfLast := rfl
@[simp] theorem State.updChan_flt_thrState (n : Nat) (f : Chan → Chan) : (s.updChan n f).flt.thrState = s.flt.thrState := rfl
@[simp] theorem State.updChan_flt_thrInit (n : Nat) (f : Chan → Chan) : (s.updChan n f).flt.thrInit = s.flt.thrInit := rfl
@[simp] theorem State.updChan_flt_thrEvent (n : Nat) (f : Chan → Chan) : (s.updChan n f).flt.thrEvent = s.flt.thrEvent := rfl
@[simp] theorem State.updChan_flt_thrRise (n : Nat) (f : Chan → Chan) : (s.updChan n f).flt.thrRise = s.flt.thrRise := rfl
@[simp] theorem State.updChan_flt_thrFall (n : Nat) (f : Chan → Chan) : (s.updChan n f).flt.thrFall = s.flt.thrFall := rfl
@[simp] theorem State.updChan_flt_recent (n : Nat) (f : Chan → Chan) : (s.updChan n f).flt.recent = s.flt.recent := rfl

/-! ### updSlice within the filter engine -/

@[simp] theorem State.updSlice_flt_rows (n : Nat) (f : Slice → Slice) : (s.updSlice n f).flt.rows = s.flt.rows := rfl
@[simp] theorem State.updSlice_flt_chain (n : Nat) (f : Slice → Slice) : (s.updSlice n f).flt.chain = s.flt.chain := rfl
@[simp] theorem State.updSlice_flt_sync (n : Nat) (f : Slice → Slice) : (s.updSlice n f).flt.sync = s.flt.sync := rfl
@[simp] theorem State.updSlice_flt_clusters (n : Nat) (f : Slice → Slice) : (s.updSlice n f).flt.clusters = s.flt.clusters := rfl
@[simp] theorem State.updSlice_flt_chans (n : Nat) (f : Slice → Slice) : (s.updSlice n f).flt.chans = s.flt.chans := rfl
@[simp] theorem State.updSlice_flt_corr (n : Nat) (f : Slice → Slice) : (s.updSlice n f).flt.corr = s.flt.corr := rfl
@[simp] theorem State.updSlice_flt_inPhase (n : Nat) (f : Slice → Slice) : (s.updSlice n f).flt.inPhase = s.flt.inPhase := rfl
@[simp] theorem State.updSlice_flt_quad (n : Nat) (f : Slice → Slice) : (s.updSlice n f).flt.quad = s.flt.quad := rfl
@[simp] theorem State.updSlice_flt_chainI (n : Nat) (f : Slice → Slice) : (s.updSlice n f).flt.chainI = s.flt.chainI := rfl
@[simp] theorem State.updSlice_flt_chainQ (n : Nat) (f : Slice → Slice) : (s.updSlice n f).flt.chainQ = s.flt.chainQ := rfl
@[simp] theorem State.updSlice_flt_skewRows (n : Nat) (f : Slice → Slice) : (s.updSlice n f).flt.skewRows = s.flt.skewRows := rfl
@[simp] theorem State.updSlice_flt_ladders (n : Nat) (f : Slice → Slice) : (s.updSlice n f).flt.ladders = s.flt.ladders := rfl
@[simp] theorem State.updSlice_flt_dies (n : Nat) (f : Slice → Slice) : (s.updSlice n f).flt.dies = s.flt.dies := rfl
@[simp] theorem State.updSlice_flt_wfLast (n : Nat) (f : Slice → Slice) : (s.updSlice n f).flt.wfLast = s.flt.wfLast := rfl
@[simp] theorem State.updSlice_flt_thrState (n : Nat) (f : Slice → Slice) : (s.updSlice n f).flt.thrState = s.flt.thrState := rfl
@[simp] theorem State.updSlice_flt_thrInit (n : Nat) (f : Slice → Slice) : (s.updSlice n f).flt.thrInit = s.flt.thrInit := rfl
@[simp] theorem State.updSlice_flt_thrEvent (n : Nat) (f : Slice → Slice) : (s.updSlice n f).flt.thrEvent = s.flt.thrEvent := rfl
@[simp] theorem State.updSlice_flt_thrRise (n : Nat) (f : Slice → Slice) : (s.updSlice n f).flt.thrRise = s.flt.thrRise := rfl
@[simp] theorem State.updSlice_flt_thrFall (n : Nat) (f : Slice → Slice) : (s.updSlice n f).flt.thrFall = s.flt.thrFall := rfl
@[simp] theorem State.updSlice_flt_recent (n : Nat) (f : Slice → Slice) : (s.updSlice n f).flt.recent = s.flt.recent := rfl

/-! ### updDie within the filter engine -/

@[simp] theorem State.updDie_flt_rows (n : Nat) (f : FieldDie → FieldDie) : (s.updDie n f).flt.rows = s.flt.rows := rfl
@[simp] theorem State.updDie_flt_chain (n : Nat) (f : FieldDie → FieldDie) : (s.updDie n f).flt.chain = s.flt.chain := rfl
@[simp] theorem State.updDie_flt_sync (n : Nat) (f : FieldDie → FieldDie) : (s.updDie n f).flt.sync = s.flt.sync := rfl
@[simp] theorem State.updDie_flt_clusters (n : Nat) (f : FieldDie → FieldDie) : (s.updDie n f).flt.clusters = s.flt.clusters := rfl
@[simp] theorem State.updDie_flt_chans (n : Nat) (f : FieldDie → FieldDie) : (s.updDie n f).flt.chans = s.flt.chans := rfl
@[simp] theorem State.updDie_flt_slices (n : Nat) (f : FieldDie → FieldDie) : (s.updDie n f).flt.slices = s.flt.slices := rfl
@[simp] theorem State.updDie_flt_corr (n : Nat) (f : FieldDie → FieldDie) : (s.updDie n f).flt.corr = s.flt.corr := rfl
@[simp] theorem State.updDie_flt_inPhase (n : Nat) (f : FieldDie → FieldDie) : (s.updDie n f).flt.inPhase = s.flt.inPhase := rfl
@[simp] theorem State.updDie_flt_quad (n : Nat) (f : FieldDie → FieldDie) : (s.updDie n f).flt.quad = s.flt.quad := rfl
@[simp] theorem State.updDie_flt_chainI (n : Nat) (f : FieldDie → FieldDie) : (s.updDie n f).flt.chainI = s.flt.chainI := rfl
@[simp] theorem State.updDie_flt_chainQ (n : Nat) (f : FieldDie → FieldDie) : (s.updDie n f).flt.chainQ = s.flt.chainQ := rfl
@[simp] theorem State.updDie_flt_skewRows (n : Nat) (f : FieldDie → FieldDie) : (s.updDie n f).flt.skewRows = s.flt.skewRows := rfl
@[simp] theorem State.updDie_flt_ladders (n : Nat) (f : FieldDie → FieldDie) : (s.updDie n f).flt.ladders = s.flt.ladders := rfl
@[simp] theorem State.updDie_flt_wfLast (n : Nat) (f : FieldDie → FieldDie) : (s.updDie n f).flt.wfLast = s.flt.wfLast := rfl
@[simp] theorem State.updDie_flt_thrState (n : Nat) (f : FieldDie → FieldDie) : (s.updDie n f).flt.thrState = s.flt.thrState := rfl
@[simp] theorem State.updDie_flt_thrInit (n : Nat) (f : FieldDie → FieldDie) : (s.updDie n f).flt.thrInit = s.flt.thrInit := rfl
@[simp] theorem State.updDie_flt_thrEvent (n : Nat) (f : FieldDie → FieldDie) : (s.updDie n f).flt.thrEvent = s.flt.thrEvent := rfl
@[simp] theorem State.updDie_flt_thrRise (n : Nat) (f : FieldDie → FieldDie) : (s.updDie n f).flt.thrRise = s.flt.thrRise := rfl
@[simp] theorem State.updDie_flt_thrFall (n : Nat) (f : FieldDie → FieldDie) : (s.updDie n f).flt.thrFall = s.flt.thrFall := rfl
@[simp] theorem State.updDie_flt_recent (n : Nat) (f : FieldDie → FieldDie) : (s.updDie n f).flt.recent = s.flt.recent := rfl

/-! ### updLadder within the filter engine -/

@[simp] theorem State.updLadder_flt_rows (n : Nat) (f : Ladder → Ladder) : (s.updLadder n f).flt.rows = s.flt.rows := rfl
@[simp] theorem State.updLadder_flt_chain (n : Nat) (f : Ladder → Ladder) : (s.updLadder n f).flt.chain = s.flt.chain := rfl
@[simp] theorem State.updLadder_flt_sync (n : Nat) (f : Ladder → Ladder) : (s.updLadder n f).flt.sync = s.flt.sync := rfl
@[simp] theorem State.updLadder_flt_clusters (n : Nat) (f : Ladder → Ladder) : (s.updLadder n f).flt.clusters = s.flt.clusters := rfl
@[simp] theorem State.updLadder_flt_chans (n : Nat) (f : Ladder → Ladder) : (s.updLadder n f).flt.chans = s.flt.chans := rfl
@[simp] theorem State.updLadder_flt_slices (n : Nat) (f : Ladder → Ladder) : (s.updLadder n f).flt.slices = s.flt.slices := rfl
@[simp] theorem State.updLadder_flt_corr (n : Nat) (f : Ladder → Ladder) : (s.updLadder n f).flt.corr = s.flt.corr := rfl
@[simp] theorem State.updLadder_flt_inPhase (n : Nat) (f : Ladder → Ladder) : (s.updLadder n f).flt.inPhase = s.flt.inPhase := rfl
@[simp] theorem State.updLadder_flt_quad (n : Nat) (f : Ladder → Ladder) : (s.updLadder n f).flt.quad = s.flt.quad := rfl
@[simp] theorem State.updLadder_flt_chainI (n : Nat) (f : Ladder → Ladder) : (s.updLadder n f).flt.chainI = s.flt.chainI := rfl
@[simp] theorem State.updLadder_flt_chainQ (n : Nat) (f : Ladder → Ladder) : (s.updLadder n f).flt.chainQ = s.flt.chainQ := rfl
@[simp] theorem State.updLadder_flt_skewRows (n : Nat) (f : Ladder → Ladder) : (s.updLadder n f).flt.skewRows = s.flt.skewRows := rfl
@[simp] theorem State.updLadder_flt_dies (n : Nat) (f : Ladder → Ladder) : (s.updLadder n f).flt.dies = s.flt.dies := rfl
@[simp] theorem State.updLadder_flt_wfLast (n : Nat) (f : Ladder → Ladder) : (s.updLadder n f).flt.wfLast = s.flt.wfLast := rfl
@[simp] theorem State.updLadder_flt_thrState (n : Nat) (f : Ladder → Ladder) : (s.updLadder n f).flt.thrState = s.flt.thrState := rfl
@[simp] theorem State.updLadder_flt_thrInit (n : Nat) (f : Ladder → Ladder) : (s.updLadder n f).flt.thrInit = s.flt.thrInit := rfl
@[simp] theorem State.updLadder_flt_thrEvent (n : Nat) (f : Ladder → Ladder) : (s.updLadder n f).flt.thrEvent = s.flt.thrEvent := rfl
@[simp] theorem State.updLadder_flt_thrRise (n : Nat) (f : Ladder → Ladder) : (s.updLadder n f).flt.thrRise = s.flt.thrRise := rfl
@[simp] theorem State.updLadder_flt_thrFall (n : Nat) (f : Ladder → Ladder) : (s.updLadder n f).flt.thrFall = s.flt.thrFall := rfl
@[simp] theorem State.updLadder_flt_recent (n : Nat) (f : Ladder → Ladder) : (s.updLadder n f).flt.recent = s.flt.recent := rfl

/-! ### updDrv within the filter engine -/

@[simp] theorem State.updDrv_flt_rows (n : Nat) (f : Drv → Drv) : (s.updDrv n f).flt.rows = s.flt.rows := rfl
@[simp] theorem State.updDrv_flt_chain (n : Nat) (f : Drv → Drv) : (s.updDrv n f).flt.chain = s.flt.chain := rfl
@[simp] theorem State.updDrv_flt_sync (n : Nat) (f : Drv → Drv) : (s.updDrv n f).flt.sync = s.flt.sync := rfl
@[simp] theorem State.updDrv_flt_chans (n : Nat) (f : Drv → Drv) : (s.updDrv n f).flt.chans = s.flt.chans := rfl
@[simp] theorem State.updDrv_flt_slices (n : Nat) (f : Drv → Drv) : (s.updDrv n f).flt.slices = s.flt.slices := rfl
@[simp] theorem State.updDrv_flt_corr (n : Nat) (f : Drv → Drv) : (s.updDrv n f).flt.corr = s.flt.corr := rfl
@[simp] theorem State.updDrv_flt_inPhase (n : Nat) (f : Drv → Drv) : (s.updDrv n f).flt.inPhase = s.flt.inPhase := rfl
@[simp] theorem State.updDrv_flt_quad (n : Nat) (f : Drv → Drv) : (s.updDrv n f).flt.quad = s.flt.quad := rfl
@[simp] theorem State.updDrv_flt_chainI (n : Nat) (f : Drv → Drv) : (s.updDrv n f).flt.chainI = s.flt.chainI := rfl
@[simp] theorem State.updDrv_flt_chainQ (n : Nat) (f : Drv → Drv) : (s.updDrv n f).flt.chainQ = s.flt.chainQ := rfl
@[simp] theorem State.updDrv_flt_skewRows (n : Nat) (f : Drv → Drv) : (s.updDrv n f).flt.skewRows = s.flt.skewRows := rfl
@[simp] theorem State.updDrv_flt_ladders (n : Nat) (f : Drv → Drv) : (s.updDrv n f).flt.ladders = s.flt.ladders := rfl
@[simp] theorem State.updDrv_flt_dies (n : Nat) (f : Drv → Drv) : (s.updDrv n f).flt.dies = s.flt.dies := rfl
@[simp] theorem State.updDrv_flt_wfLast (n : Nat) (f : Drv → Drv) : (s.updDrv n f).flt.wfLast = s.flt.wfLast := rfl
@[simp] theorem State.updDrv_flt_thrState (n : Nat) (f : Drv → Drv) : (s.updDrv n f).flt.thrState = s.flt.thrState := rfl
@[simp] theorem State.updDrv_flt_thrInit (n : Nat) (f : Drv → Drv) : (s.updDrv n f).flt.thrInit = s.flt.thrInit := rfl
@[simp] theorem State.updDrv_flt_thrEvent (n : Nat) (f : Drv → Drv) : (s.updDrv n f).flt.thrEvent = s.flt.thrEvent := rfl
@[simp] theorem State.updDrv_flt_thrRise (n : Nat) (f : Drv → Drv) : (s.updDrv n f).flt.thrRise = s.flt.thrRise := rfl
@[simp] theorem State.updDrv_flt_thrFall (n : Nat) (f : Drv → Drv) : (s.updDrv n f).flt.thrFall = s.flt.thrFall := rfl
@[simp] theorem State.updDrv_flt_recent (n : Nat) (f : Drv → Drv) : (s.updDrv n f).flt.recent = s.flt.recent := rfl

/-! ### updRot within the filter engine -/

@[simp] theorem State.updRot_flt_rows (n : Nat) (f : Rot → Rot) : (s.updRot n f).flt.rows = s.flt.rows := rfl
@[simp] theorem State.updRot_flt_chain (n : Nat) (f : Rot → Rot) : (s.updRot n f).flt.chain = s.flt.chain := rfl
@[simp] theorem State.updRot_flt_sync (n : Nat) (f : Rot → Rot) : (s.updRot n f).flt.sync = s.flt.sync := rfl
@[simp] theorem State.updRot_flt_chans (n : Nat) (f : Rot → Rot) : (s.updRot n f).flt.chans = s.flt.chans := rfl
@[simp] theorem State.updRot_flt_slices (n : Nat) (f : Rot → Rot) : (s.updRot n f).flt.slices = s.flt.slices := rfl
@[simp] theorem State.updRot_flt_corr (n : Nat) (f : Rot → Rot) : (s.updRot n f).flt.corr = s.flt.corr := rfl
@[simp] theorem State.updRot_flt_inPhase (n : Nat) (f : Rot → Rot) : (s.updRot n f).flt.inPhase = s.flt.inPhase := rfl
@[simp] theorem State.updRot_flt_quad (n : Nat) (f : Rot → Rot) : (s.updRot n f).flt.quad = s.flt.quad := rfl
@[simp] theorem State.updRot_flt_chainI (n : Nat) (f : Rot → Rot) : (s.updRot n f).flt.chainI = s.flt.chainI := rfl
@[simp] theorem State.updRot_flt_chainQ (n : Nat) (f : Rot → Rot) : (s.updRot n f).flt.chainQ = s.flt.chainQ := rfl
@[simp] theorem State.updRot_flt_skewRows (n : Nat) (f : Rot → Rot) : (s.updRot n f).flt.skewRows = s.flt.skewRows := rfl
@[simp] theorem State.updRot_flt_ladders (n : Nat) (f : Rot → Rot) : (s.updRot n f).flt.ladders = s.flt.ladders := rfl
@[simp] theorem State.updRot_flt_dies (n : Nat) (f : Rot → Rot) : (s.updRot n f).flt.dies = s.flt.dies := rfl
@[simp] theorem State.updRot_flt_wfLast (n : Nat) (f : Rot → Rot) : (s.updRot n f).flt.wfLast = s.flt.wfLast := rfl
@[simp] theorem State.updRot_flt_thrState (n : Nat) (f : Rot → Rot) : (s.updRot n f).flt.thrState = s.flt.thrState := rfl
@[simp] theorem State.updRot_flt_thrInit (n : Nat) (f : Rot → Rot) : (s.updRot n f).flt.thrInit = s.flt.thrInit := rfl
@[simp] theorem State.updRot_flt_thrEvent (n : Nat) (f : Rot → Rot) : (s.updRot n f).flt.thrEvent = s.flt.thrEvent := rfl
@[simp] theorem State.updRot_flt_thrRise (n : Nat) (f : Rot → Rot) : (s.updRot n f).flt.thrRise = s.flt.thrRise := rfl
@[simp] theorem State.updRot_flt_thrFall (n : Nat) (f : Rot → Rot) : (s.updRot n f).flt.thrFall = s.flt.thrFall := rfl
@[simp] theorem State.updRot_flt_recent (n : Nat) (f : Rot → Rot) : (s.updRot n f).flt.recent = s.flt.recent := rfl

/-! ### What a typed part reads as after its own update -/

@[simp] theorem State.updCluster_cluster (n : Nat) (f : Cluster → Cluster) : (s.updCluster n f).cluster n = f (s.cluster n) :=
  Tbl.get_upd_self ..

theorem State.updCluster_cluster_ne {n m : Nat} (f : Cluster → Cluster) (h : m ≠ n) : (s.updCluster n f).cluster m = s.cluster m :=
  Tbl.get_upd_ne _ _ _ h

@[simp] theorem State.updChan_chan (n : Nat) (f : Chan → Chan) : (s.updChan n f).chan n = f (s.chan n) :=
  Tbl.get_upd_self ..

theorem State.updChan_chan_ne {n m : Nat} (f : Chan → Chan) (h : m ≠ n) : (s.updChan n f).chan m = s.chan m :=
  Tbl.get_upd_ne _ _ _ h

@[simp] theorem State.updSlice_slice (n : Nat) (f : Slice → Slice) : (s.updSlice n f).slice n = f (s.slice n) :=
  Tbl.get_upd_self ..

theorem State.updSlice_slice_ne {n m : Nat} (f : Slice → Slice) (h : m ≠ n) : (s.updSlice n f).slice m = s.slice m :=
  Tbl.get_upd_ne _ _ _ h

@[simp] theorem State.updDie_die (n : Nat) (f : FieldDie → FieldDie) : (s.updDie n f).die n = f (s.die n) :=
  Tbl.get_upd_self ..

theorem State.updDie_die_ne {n m : Nat} (f : FieldDie → FieldDie) (h : m ≠ n) : (s.updDie n f).die m = s.die m :=
  Tbl.get_upd_ne _ _ _ h

@[simp] theorem State.updLadder_ladder (n : Nat) (f : Ladder → Ladder) : (s.updLadder n f).ladder n = f (s.ladder n) :=
  Tbl.get_upd_self ..

theorem State.updLadder_ladder_ne {n m : Nat} (f : Ladder → Ladder) (h : m ≠ n) : (s.updLadder n f).ladder m = s.ladder m :=
  Tbl.get_upd_ne _ _ _ h

@[simp] theorem State.updAux_aux (n : Nat) (f : AuxSt → AuxSt) : (s.updAux n f).aux n = f (s.aux n) :=
  Tbl.get_upd_self ..

theorem State.updAux_aux_ne {n m : Nat} (f : AuxSt → AuxSt) (h : m ≠ n) : (s.updAux n f).aux m = s.aux m :=
  Tbl.get_upd_ne _ _ _ h

@[simp] theorem State.updDma_dmaCh (n : Nat) (f : DmaCh → DmaCh) : (s.updDma n f).dmaCh n = f (s.dmaCh n) :=
  Tbl.get_upd_self ..

theorem State.updDma_dmaCh_ne {n m : Nat} (f : DmaCh → DmaCh) (h : m ≠ n) : (s.updDma n f).dmaCh m = s.dmaCh m :=
  Tbl.get_upd_ne _ _ _ h

@[simp] theorem State.updSeq_seq (n : Nat) (f : Seq → Seq) : (s.updSeq n f).seq n = f (s.seq n) :=
  Tbl.get_upd_self ..

theorem State.updSeq_seq_ne {n m : Nat} (f : Seq → Seq) (h : m ≠ n) : (s.updSeq n f).seq m = s.seq m :=
  Tbl.get_upd_ne _ _ _ h

@[simp] theorem State.updTev_tev (n : Nat) (f : TimeEv → TimeEv) : (s.updTev n f).tev n = f (s.tev n) :=
  Tbl.get_upd_self ..

theorem State.updTev_tev_ne {n m : Nat} (f : TimeEv → TimeEv) (h : m ≠ n) : (s.updTev n f).tev m = s.tev m :=
  Tbl.get_upd_ne _ _ _ h

@[simp] theorem State.updRx_rxSrc (n : Nat) (f : RxSrc → RxSrc) : (s.updRx n f).rxSrc n = f (s.rxSrc n) :=
  Tbl.get_upd_self ..

theorem State.updRx_rxSrc_ne {n m : Nat} (f : RxSrc → RxSrc) (h : m ≠ n) : (s.updRx n f).rxSrc m = s.rxSrc m :=
  Tbl.get_upd_ne _ _ _ h

@[simp] theorem State.updDrv_drv (n : Nat) (f : Drv → Drv) : ((s.updDrv n f).cluster n).drv = f (s.cluster n).drv := by
  rw [State.updDrv, State.updCluster_cluster]

theorem State.updDrv_cluster (n : Nat) (f : Drv → Drv) :
    (s.updDrv n f).cluster n = { s.cluster n with drv := f (s.cluster n).drv } := State.updCluster_cluster ..

theorem State.updDrv_cluster_ne {n m : Nat} (f : Drv → Drv) (h : m ≠ n) : (s.updDrv n f).cluster m = s.cluster m :=
  State.updCluster_cluster_ne s _ h

@[simp] theorem State.updRot_rot (n : Nat) (f : Rot → Rot) : ((s.updRot n f).cluster n).rot = f (s.cluster n).rot := by
  rw [State.updRot, State.updCluster_cluster]

theorem State.updRot_cluster (n : Nat) (f : Rot → Rot) :
    (s.updRot n f).cluster n = { s.cluster n with rot := f (s.cluster n).rot } := State.updCluster_cluster ..

theorem State.updRot_cluster_ne {n m : Nat} (f : Rot → Rot) (h : m ≠ n) : (s.updRot n f).cluster m = s.cluster m :=
  State.updCluster_cluster_ne s _ h

/-! ### The other typed parts of the filter engine -/

@[simp] theorem State.updCluster_chan (n m : Nat) (f : Cluster → Cluster) : (s.updCluster n f).chan m = s.chan m := rfl
@[simp] theorem State.updCluster_slice (n m : Nat) (f : Cluster → Cluster) : (s.updCluster n f).slice m = s.slice m := rfl
@[simp] theorem State.updCluster_die (n m : Nat) (f : Cluster → Cluster) : (s.updCluster n f).die m = s.die m := rfl
@[simp] theorem State.updCluster_ladder (n m : Nat) (f : Cluster → Cluster) : (s.updCluster n f).ladder m = s.ladder m := rfl
@[simp] theorem State.updChan_cluster (n m : Nat) (f : Chan → Chan) : (s.updChan n f).cluster m = s.cluster m := rfl
@[simp] theorem State.updChan_slice (n m : Nat) (f : Chan → Chan) : (s.updChan n f).slice m = s.slice m := rfl
@[simp] theorem State.updChan_die (n m : Nat) (f : Chan → Chan) : (s.updChan n f).die m = s.die m := rfl
@[simp] theorem State.updChan_ladder (n m : Nat) (f : Chan → Chan) : (s.updChan n f).ladder m = s.ladder m := rfl
@[simp] theorem State.updSlice_cluster (n m : Nat) (f : Slice → Slice) : (s.updSlice n f).cluster m = s.cluster m := rfl
@[simp] theorem State.updSlice_chan (n m : Nat) (f : Slice → Slice) : (s.updSlice n f).chan m = s.chan m := rfl
@[simp] theorem State.updSlice_die (n m : Nat) (f : Slice → Slice) : (s.updSlice n f).die m = s.die m := rfl
@[simp] theorem State.updSlice_ladder (n m : Nat) (f : Slice → Slice) : (s.updSlice n f).ladder m = s.ladder m := rfl
@[simp] theorem State.updDie_cluster (n m : Nat) (f : FieldDie → FieldDie) : (s.updDie n f).cluster m = s.cluster m := rfl
@[simp] theorem State.updDie_chan (n m : Nat) (f : FieldDie → FieldDie) : (s.updDie n f).chan m = s.chan m := rfl
@[simp] theorem State.updDie_slice (n m : Nat) (f : FieldDie → FieldDie) : (s.updDie n f).slice m = s.slice m := rfl
@[simp] theorem State.updDie_ladder (n m : Nat) (f : FieldDie → FieldDie) : (s.updDie n f).ladder m = s.ladder m := rfl
@[simp] theorem State.updLadder_cluster (n m : Nat) (f : Ladder → Ladder) : (s.updLadder n f).cluster m = s.cluster m := rfl
@[simp] theorem State.updLadder_chan (n m : Nat) (f : Ladder → Ladder) : (s.updLadder n f).chan m = s.chan m := rfl
@[simp] theorem State.updLadder_slice (n m : Nat) (f : Ladder → Ladder) : (s.updLadder n f).slice m = s.slice m := rfl
@[simp] theorem State.updLadder_die (n m : Nat) (f : Ladder → Ladder) : (s.updLadder n f).die m = s.die m := rfl
@[simp] theorem State.updDrv_chan (n m : Nat) (f : Drv → Drv) : (s.updDrv n f).chan m = s.chan m := rfl
@[simp] theorem State.updDrv_slice (n m : Nat) (f : Drv → Drv) : (s.updDrv n f).slice m = s.slice m := rfl
@[simp] theorem State.updDrv_die (n m : Nat) (f : Drv → Drv) : (s.updDrv n f).die m = s.die m := rfl
@[simp] theorem State.updDrv_ladder (n m : Nat) (f : Drv → Drv) : (s.updDrv n f).ladder m = s.ladder m := rfl
@[simp] theorem State.updRot_chan (n m : Nat) (f : Rot → Rot) : (s.updRot n f).chan m = s.chan m := rfl
@[simp] theorem State.updRot_slice (n m : Nat) (f : Rot → Rot) : (s.updRot n f).slice m = s.slice m := rfl
@[simp] theorem State.updRot_die (n m : Nat) (f : Rot → Rot) : (s.updRot n f).die m = s.die m := rfl
@[simp] theorem State.updRot_ladder (n m : Nat) (f : Rot → Rot) : (s.updRot n f).ladder m = s.ladder m := rfl

/-! ### Bases -/

@[simp] theorem State.updBase_base (n : Nat) (f : Base → Base) (h : n < 4) : (s.updBase n f).base n = f (s.base n) := by
  match n, h with
  | 0, _ | 1, _ | 2, _ | 3, _ => rfl

theorem State.updBase_base_ne {n m : Nat} (f : Base → Base) (hn : n < 4) (hm : m < 4) (h : m ≠ n) :
    (s.updBase n f).base m = s.base m := by
  rcases n with _ | _ | _ | _ | n <;> rcases m with _ | _ | _ | _ | m <;> first | rfl | exact absurd rfl h | omega

end Sys2Proof.Machine
end

