-- ==== Sys2Proof/Laws/Ops.lean ====
section
/-!
SUPPORT. What each shared operation can change, said once: reporting an event touches the interrupt controller, the host
vectors and the queues only; an audit record touches the intake besides. A proof about a command cites these and does not
unfold the operations.
-/
namespace Sys2Proof.Machine

variable (s : State)

/-! ### OnlyReports -/

theorem OnlyReports.refl : OnlyReports s s := rfl

theorem OnlyReports.trans {s t u : State} (a : OnlyReports s t) (b : OnlyReports t u) : OnlyReports s u := by
  unfold OnlyReports at *
  cases s; cases t; cases u
  simp_all

theorem OnlyReports.eq {s t : State} (h : OnlyReports s t) : t = { s with ic := t.ic, host := t.host, queues := t.queues } := h
theorem OnlyReports.pending {s t : State} (h : OnlyReports s t) : t.pending = s.pending := by rw [h.eq]
theorem OnlyReports.fresh {s t : State} (h : OnlyReports s t) : t.fresh = s.fresh := by rw [h.eq]
theorem OnlyReports.flt {s t : State} (h : OnlyReports s t) : t.flt = s.flt := by rw [h.eq]
theorem OnlyReports.auxs {s t : State} (h : OnlyReports s t) : t.auxs = s.auxs := by rw [h.eq]
theorem OnlyReports.lin {s t : State} (h : OnlyReports s t) : t.lin = s.lin := by rw [h.eq]
theorem OnlyReports.cal {s t : State} (h : OnlyReports s t) : t.cal = s.cal := by rw [h.eq]
theorem OnlyReports.time {s t : State} (h : OnlyReports s t) : t.time = s.time := by rw [h.eq]
theorem OnlyReports.cap {s t : State} (h : OnlyReports s t) : t.cap = s.cap := by rw [h.eq]
theorem OnlyReports.kzC {s t : State} (h : OnlyReports s t) : t.kzC = s.kzC := by rw [h.eq]
theorem OnlyReports.kzD {s t : State} (h : OnlyReports s t) : t.kzD = s.kzD := by rw [h.eq]
theorem OnlyReports.ring {s t : State} (h : OnlyReports s t) : t.ring = s.ring := by rw [h.eq]
theorem OnlyReports.hostMem {s t : State} (h : OnlyReports s t) : t.hostMem = s.hostMem := by rw [h.eq]
theorem OnlyReports.dma {s t : State} (h : OnlyReports s t) : t.dma = s.dma := by rw [h.eq]
theorem OnlyReports.fe {s t : State} (h : OnlyReports s t) : t.fe = s.fe := by rw [h.eq]
theorem OnlyReports.mbx {s t : State} (h : OnlyReports s t) : t.mbx = s.mbx := by rw [h.eq]
theorem OnlyReports.leases {s t : State} (h : OnlyReports s t) : t.leases = s.leases := by rw [h.eq]
theorem OnlyReports.sec {s t : State} (h : OnlyReports s t) : t.sec = s.sec := by rw [h.eq]
theorem OnlyReports.pm {s t : State} (h : OnlyReports s t) : t.pm = s.pm := by rw [h.eq]

theorem onlyReports_foldl {α : Type} (f : State → α → State) (h : ∀ s x, OnlyReports s (f s x)) (l : List α) (s : State) :
    OnlyReports s (l.foldl f s) := by
  induction l generalizing s with
  | nil => exact .refl s
  | cons x l ih => exact (h s x).trans (ih (f s x))

theorem vecRaw_only (v : Nat) : OnlyReports s (vecRaw s v) := rfl

theorem hostRoute_only (n : Nat) : OnlyReports s (hostRoute s n) := by
  unfold hostRoute
  simp only []
  split
  · split
    · rfl
    · exact OnlyReports.trans (t := { s with ic := { s.ic with hpend := bitSet s.ic.hpend n true } }) rfl (vecRaw_only _ _)
  · rfl

theorem fireSrc_only (n : Nat) : OnlyReports s (fireSrc s n) :=
  OnlyReports.trans (t := { s with ic := s.ic.fire n }) rfl (hostRoute_only _ n)

theorem setLevel_only (n : Nat) (b : Bool) : OnlyReports s (setLevel s n b) := by
  unfold setLevel
  simp only []
  split
  · exact OnlyReports.trans (t := { s with ic := Ic.withdrawn' s.ic { s.ic with level := bitSet s.ic.level n b } }) rfl
      (hostRoute_only _ n)
  · rfl

theorem vector_only (v : Nat) : OnlyReports s (vector s v) := by
  unfold vector
  simp only []
  split
  · exact (vecRaw_only s v).trans (fireSrc_only _ _)
  · exact vecRaw_only s v

theorem setQueue_only (q : Nat) (v : Queue) : OnlyReports s (s.setQueue q v) := by
  unfold State.setQueue
  simp only []
  have a : ∀ (w : Queue), OnlyReports s
      (setLevel { s with queues := Tbl.set (Queue.init (qStaleReset q)) s.queues q w } (144 + q) (!w.items.isEmpty)) := fun w =>
    OnlyReports.trans (t := { s with queues := Tbl.set (Queue.init (qStaleReset q)) s.queues q w }) rfl (setLevel_only _ _ _)
  split
  · exact (a _).trans (setLevel_only _ _ _)
  · exact a _

theorem qPut_only (q : Nat) (ws : List (BitVec 32)) : OnlyReports s (qPut s q ws).1 := by
  unfold qPut
  simp only []
  split
  · exact setQueue_only _ _ _
  · split <;> exact setQueue_only _ _ _

theorem qTake_only {s s' : State} {q : Nat} {i : QItem} (h : qTake s q = some (i, s')) : OnlyReports s s' := by
  unfold qTake at h
  split at h
  · cases h
  · split at h
    · cases h
      exact setQueue_only _ _ _
    · cases h

/-- The routed core's event queue and Q3 take a record after the source has fired. -/
theorem recorded_only (n : Nat) (ws : List (BitVec 32)) : OnlyReports s
    (let t := fireSrc s n
     let u := if t.ic.routedC.testBit n then (qPut t 1 ws).1 else if t.ic.routedM.testBit n then (qPut t 2 ws).1 else t
     if (u.route n).testBit 4 then (qPut u 3 ws).1 else u) := by
  have b : ∀ t : State, OnlyReports t
      (if t.ic.routedC.testBit n then (qPut t 1 ws).1 else if t.ic.routedM.testBit n then (qPut t 2 ws).1 else t) := by
    intro t
    split
    · exact qPut_only _ _ _
    · split
      · exact qPut_only _ _ _
      · rfl
  have c : ∀ u : State, OnlyReports u (if (u.route n).testBit 4 then (qPut u 3 ws).1 else u) := by
    intro u
    split
    · exact qPut_only _ _ _
    · rfl
  exact (fireSrc_only s n).trans ((b _).trans (c _))

theorem report_only (src : Option Nat) (code subj arg : Nat) : OnlyReports s (report s src code subj arg) := by
  have a : ∀ ws, OnlyReports s (if code = 0x4001 then s else (qPut s 7 ws).1) := by
    intro ws
    split
    · rfl
    · exact qPut_only _ _ _
  unfold report
  cases src with
  | none => exact a _
  | some n => exact (a _).trans (recorded_only _ n _)

theorem overflowReport_only (before : State) (q : Nat) : OnlyReports s (overflowReport before s q) := by
  unfold overflowReport
  simp only []
  split
  · exact (setQueue_only _ _ _).trans (report_only _ _ _ _ _)
  · rfl

theorem emitFrom_only (src : Option Nat) (code subj arg : Nat) : OnlyReports s (emitFrom s src code subj arg) :=
  (report_only s src code subj arg).trans (onlyReports_foldl _ (fun t q => overflowReport_only t s q) _ _)

theorem emit_only (code subj arg : Nat) : OnlyReports s (emit s code subj arg) := emitFrom_only _ _ _ _ _

theorem qPush_only (q : Nat) (ws : List (BitVec 32)) : OnlyReports s (qPush s q ws) :=
  (qPut_only s q ws).trans (overflowReport_only _ _ _)

/-! ### The fields that a report leaves alone -/

@[simp] theorem emit_pending (code subj arg : Nat) : (emit s code subj arg).pending = s.pending := (emit_only s code subj arg).pending
@[simp] theorem emit_fresh (code subj arg : Nat) : (emit s code subj arg).fresh = s.fresh := (emit_only s code subj arg).fresh
@[simp] theorem emit_flt (code subj arg : Nat) : (emit s code subj arg).flt = s.flt := (emit_only s code subj arg).flt
@[simp] theorem emit_auxs (code subj arg : Nat) : (emit s code subj arg).auxs = s.auxs := (emit_only s code subj arg).auxs
@[simp] theorem emit_lin (code subj arg : Nat) : (emit s code subj arg).lin = s.lin := (emit_only s code subj arg).lin
@[simp] theorem emit_cal (code subj arg : Nat) : (emit s code subj arg).cal = s.cal := (emit_only s code subj arg).cal
@[simp] theorem emit_time (code subj arg : Nat) : (emit s code subj arg).time = s.time := (emit_only s code subj arg).time
@[simp] theorem emit_cap (code subj arg : Nat) : (emit s code subj arg).cap = s.cap := (emit_only s code subj arg).cap
@[simp] theorem emit_kzC (code subj arg : Nat) : (emit s code subj arg).kzC = s.kzC := (emit_only s code subj arg).kzC
@[simp] theorem emit_kzD (code subj arg : Nat) : (emit s code subj arg).kzD = s.kzD := (emit_only s code subj arg).kzD
@[simp] theorem emit_ring (code subj arg : Nat) : (emit s code subj arg).ring = s.ring := (emit_only s code subj arg).ring
@[simp] theorem emit_hostMem (code subj arg : Nat) : (emit s code subj arg).hostMem = s.hostMem := (emit_only s code subj arg).hostMem
@[simp] theorem emit_dma (code subj arg : Nat) : (emit s code subj arg).dma = s.dma := (emit_only s code subj arg).dma
@[simp] theorem emit_fe (code subj arg : Nat) : (emit s code subj arg).fe = s.fe := (emit_only s code subj arg).fe
@[simp] theorem emit_mbx (code subj arg : Nat) : (emit s code subj arg).mbx = s.mbx := (emit_only s code subj arg).mbx
@[simp] theorem emit_leases (code subj arg : Nat) : (emit s code subj arg).leases = s.leases := (emit_only s code subj arg).leases
@[simp] theorem emit_sec (code subj arg : Nat) : (emit s code subj arg).sec = s.sec := (emit_only s code subj arg).sec
@[simp] theorem emit_pm (code subj arg : Nat) : (emit s code subj arg).pm = s.pm := (emit_only s code subj arg).pm

@[simp] theorem emitFrom_pending (src : Option Nat) (code subj arg : Nat) : (emitFrom s src code subj arg).pending = s.pending := (emitFrom_only s src code subj arg).pending
@[simp] theorem emitFrom_fresh (src : Option Nat) (code subj arg : Nat) : (emitFrom s src code subj arg).fresh = s.fresh := (emitFrom_only s src code subj arg).fresh
@[simp] theorem emitFrom_flt (src : Option Nat) (code subj arg : Nat) : (emitFrom s src code subj arg).flt = s.flt := (emitFrom_only s src code subj arg).flt
@[simp] theorem emitFrom_auxs (src : Option Nat) (code subj arg : Nat) : (emitFrom s src code subj arg).auxs = s.auxs := (emitFrom_only s src code subj arg).auxs
@[simp] theorem emitFrom_lin (src : Option Nat) (code subj arg : Nat) : (emitFrom s src code subj arg).lin = s.lin := (emitFrom_only s src code subj arg).lin
@[simp] theorem emitFrom_cal (src : Option Nat) (code subj arg : Nat) : (emitFrom s src code subj arg).cal = s.cal := (emitFrom_only s src code subj arg).cal
@[simp] theorem emitFrom_time (src : Option Nat) (code subj arg : Nat) : (emitFrom s src code subj arg).time = s.time := (emitFrom_only s src code subj arg).time
@[simp] theorem emitFrom_cap (src : Option Nat) (code subj arg : Nat) : (emitFrom s src code subj arg).cap = s.cap := (emitFrom_only s src code subj arg).cap
@[simp] theorem emitFrom_kzC (src : Option Nat) (code subj arg : Nat) : (emitFrom s src code subj arg).kzC = s.kzC := (emitFrom_only s src code subj arg).kzC
@[simp] theorem emitFrom_kzD (src : Option Nat) (code subj arg : Nat) : (emitFrom s src code subj arg).kzD = s.kzD := (emitFrom_only s src code subj arg).kzD
@[simp] theorem emitFrom_ring (src : Option Nat) (code subj arg : Nat) : (emitFrom s src code subj arg).ring = s.ring := (emitFrom_only s src code subj arg).ring
@[simp] theorem emitFrom_hostMem (src : Option Nat) (code subj arg : Nat) : (emitFrom s src code subj arg).hostMem = s.hostMem := (emitFrom_only s src code subj arg).hostMem
@[simp] theorem emitFrom_dma (src : Option Nat) (code subj arg : Nat) : (emitFrom s src code subj arg).dma = s.dma := (emitFrom_only s src code subj arg).dma
@[simp] theorem emitFrom_fe (src : Option Nat) (code subj arg : Nat) : (emitFrom s src code subj arg).fe = s.fe := (emitFrom_only s src code subj arg).fe
@[simp] theorem emitFrom_mbx (src : Option Nat) (code subj arg : Nat) : (emitFrom s src code subj arg).mbx = s.mbx := (emitFrom_only s src code subj arg).mbx
@[simp] theorem emitFrom_leases (src : Option Nat) (code subj arg : Nat) : (emitFrom s src code subj arg).leases = s.leases := (emitFrom_only s src code subj arg).leases
@[simp] theorem emitFrom_sec (src : Option Nat) (code subj arg : Nat) : (emitFrom s src code subj arg).sec = s.sec := (emitFrom_only s src code subj arg).sec
@[simp] theorem emitFrom_pm (src : Option Nat) (code subj arg : Nat) : (emitFrom s src code subj arg).pm = s.pm := (emitFrom_only s src code subj arg).pm

@[simp] theorem fireSrc_pending (n : Nat) : (fireSrc s n).pending = s.pending := (fireSrc_only s n).pending
@[simp] theorem fireSrc_fresh (n : Nat) : (fireSrc s n).fresh = s.fresh := (fireSrc_only s n).fresh
@[simp] theorem fireSrc_flt (n : Nat) : (fireSrc s n).flt = s.flt := (fireSrc_only s n).flt
@[simp] theorem fireSrc_auxs (n : Nat) : (fireSrc s n).auxs = s.auxs := (fireSrc_only s n).auxs
@[simp] theorem fireSrc_lin (n : Nat) : (fireSrc s n).lin = s.lin := (fireSrc_only s n).lin
@[simp] theorem fireSrc_cal (n : Nat) : (fireSrc s n).cal = s.cal := (fireSrc_only s n).cal
@[simp] theorem fireSrc_time (n : Nat) : (fireSrc s n).time = s.time := (fireSrc_only s n).time
@[simp] theorem fireSrc_cap (n : Nat) : (fireSrc s n).cap = s.cap := (fireSrc_only s n).cap
@[simp] theorem fireSrc_kzC (n : Nat) : (fireSrc s n).kzC = s.kzC := (fireSrc_only s n).kzC
@[simp] theorem fireSrc_kzD (n : Nat) : (fireSrc s n).kzD = s.kzD := (fireSrc_only s n).kzD
@[simp] theorem fireSrc_ring (n : Nat) : (fireSrc s n).ring = s.ring := (fireSrc_only s n).ring
@[simp] theorem fireSrc_hostMem (n : Nat) : (fireSrc s n).hostMem = s.hostMem := (fireSrc_only s n).hostMem
@[simp] theorem fireSrc_dma (n : Nat) : (fireSrc s n).dma = s.dma := (fireSrc_only s n).dma
@[simp] theorem fireSrc_fe (n : Nat) : (fireSrc s n).fe = s.fe := (fireSrc_only s n).fe
@[simp] theorem fireSrc_mbx (n : Nat) : (fireSrc s n).mbx = s.mbx := (fireSrc_only s n).mbx
@[simp] theorem fireSrc_leases (n : Nat) : (fireSrc s n).leases = s.leases := (fireSrc_only s n).leases
@[simp] theorem fireSrc_sec (n : Nat) : (fireSrc s n).sec = s.sec := (fireSrc_only s n).sec
@[simp] theorem fireSrc_pm (n : Nat) : (fireSrc s n).pm = s.pm := (fireSrc_only s n).pm

@[simp] theorem setLevel_pending (n : Nat) (b : Bool) : (setLevel s n b).pending = s.pending := (setLevel_only s n b).pending
@[simp] theorem setLevel_fresh (n : Nat) (b : Bool) : (setLevel s n b).fresh = s.fresh := (setLevel_only s n b).fresh
@[simp] theorem setLevel_flt (n : Nat) (b : Bool) : (setLevel s n b).flt = s.flt := (setLevel_only s n b).flt
@[simp] theorem setLevel_auxs (n : Nat) (b : Bool) : (setLevel s n b).auxs = s.auxs := (setLevel_only s n b).auxs
@[simp] theorem setLevel_lin (n : Nat) (b : Bool) : (setLevel s n b).lin = s.lin := (setLevel_only s n b).lin
@[simp] theorem setLevel_cal (n : Nat) (b : Bool) : (setLevel s n b).cal = s.cal := (setLevel_only s n b).cal
@[simp] theorem setLevel_time (n : Nat) (b : Bool) : (setLevel s n b).time = s.time := (setLevel_only s n b).time
@[simp] theorem setLevel_cap (n : Nat) (b : Bool) : (setLevel s n b).cap = s.cap := (setLevel_only s n b).cap
@[simp] theorem setLevel_kzC (n : Nat) (b : Bool) : (setLevel s n b).kzC = s.kzC := (setLevel_only s n b).kzC
@[simp] theorem setLevel_kzD (n : Nat) (b : Bool) : (setLevel s n b).kzD = s.kzD := (setLevel_only s n b).kzD
@[simp] theorem setLevel_ring (n : Nat) (b : Bool) : (setLevel s n b).ring = s.ring := (setLevel_only s n b).ring
@[simp] theorem setLevel_hostMem (n : Nat) (b : Bool) : (setLevel s n b).hostMem = s.hostMem := (setLevel_only s n b).hostMem
@[simp] theorem setLevel_dma (n : Nat) (b : Bool) : (setLevel s n b).dma = s.dma := (setLevel_only s n b).dma
@[simp] theorem setLevel_fe (n : Nat) (b : Bool) : (setLevel s n b).fe = s.fe := (setLevel_only s n b).fe
@[simp] theorem setLevel_mbx (n : Nat) (b : Bool) : (setLevel s n b).mbx = s.mbx := (setLevel_only s n b).mbx
@[simp] theorem setLevel_leases (n : Nat) (b : Bool) : (setLevel s n b).leases = s.leases := (setLevel_only s n b).leases
@[simp] theorem setLevel_sec (n : Nat) (b : Bool) : (setLevel s n b).sec = s.sec := (setLevel_only s n b).sec
@[simp] theorem setLevel_pm (n : Nat) (b : Bool) : (setLevel s n b).pm = s.pm := (setLevel_only s n b).pm

@[simp] theorem vecRaw_pending (v : Nat) : (vecRaw s v).pending = s.pending := (vecRaw_only s v).pending
@[simp] theorem vecRaw_fresh (v : Nat) : (vecRaw s v).fresh = s.fresh := (vecRaw_only s v).fresh
@[simp] theorem vecRaw_flt (v : Nat) : (vecRaw s v).flt = s.flt := (vecRaw_only s v).flt
@[simp] theorem vecRaw_auxs (v : Nat) : (vecRaw s v).auxs = s.auxs := (vecRaw_only s v).auxs
@[simp] theorem vecRaw_lin (v : Nat) : (vecRaw s v).lin = s.lin := (vecRaw_only s v).lin
@[simp] theorem vecRaw_cal (v : Nat) : (vecRaw s v).cal = s.cal := (vecRaw_only s v).cal
@[simp] theorem vecRaw_time (v : Nat) : (vecRaw s v).time = s.time := (vecRaw_only s v).time
@[simp] theorem vecRaw_cap (v : Nat) : (vecRaw s v).cap = s.cap := (vecRaw_only s v).cap
@[simp] theorem vecRaw_kzC (v : Nat) : (vecRaw s v).kzC = s.kzC := (vecRaw_only s v).kzC
@[simp] theorem vecRaw_kzD (v : Nat) : (vecRaw s v).kzD = s.kzD := (vecRaw_only s v).kzD
@[simp] theorem vecRaw_ring (v : Nat) : (vecRaw s v).ring = s.ring := (vecRaw_only s v).ring
@[simp] theorem vecRaw_hostMem (v : Nat) : (vecRaw s v).hostMem = s.hostMem := (vecRaw_only s v).hostMem
@[simp] theorem vecRaw_dma (v : Nat) : (vecRaw s v).dma = s.dma := (vecRaw_only s v).dma
@[simp] theorem vecRaw_fe (v : Nat) : (vecRaw s v).fe = s.fe := (vecRaw_only s v).fe
@[simp] theorem vecRaw_mbx (v : Nat) : (vecRaw s v).mbx = s.mbx := (vecRaw_only s v).mbx
@[simp] theorem vecRaw_leases (v : Nat) : (vecRaw s v).leases = s.leases := (vecRaw_only s v).leases
@[simp] theorem vecRaw_sec (v : Nat) : (vecRaw s v).sec = s.sec := (vecRaw_only s v).sec
@[simp] theorem vecRaw_pm (v : Nat) : (vecRaw s v).pm = s.pm := (vecRaw_only s v).pm

@[simp] theorem vector_pending (v : Nat) : (vector s v).pending = s.pending := (vector_only s v).pending
@[simp] theorem vector_fresh (v : Nat) : (vector s v).fresh = s.fresh := (vector_only s v).fresh
@[simp] theorem vector_flt (v : Nat) : (vector s v).flt = s.flt := (vector_only s v).flt
@[simp] theorem vector_auxs (v : Nat) : (vector s v).auxs = s.auxs := (vector_only s v).auxs
@[simp] theorem vector_lin (v : Nat) : (vector s v).lin = s.lin := (vector_only s v).lin
@[simp] theorem vector_cal (v : Nat) : (vector s v).cal = s.cal := (vector_only s v).cal
@[simp] theorem vector_time (v : Nat) : (vector s v).time = s.time := (vector_only s v).time
@[simp] theorem vector_cap (v : Nat) : (vector s v).cap = s.cap := (vector_only s v).cap
@[simp] theorem vector_kzC (v : Nat) : (vector s v).kzC = s.kzC := (vector_only s v).kzC
@[simp] theorem vector_kzD (v : Nat) : (vector s v).kzD = s.kzD := (vector_only s v).kzD
@[simp] theorem vector_ring (v : Nat) : (vector s v).ring = s.ring := (vector_only s v).ring
@[simp] theorem vector_hostMem (v : Nat) : (vector s v).hostMem = s.hostMem := (vector_only s v).hostMem
@[simp] theorem vector_dma (v : Nat) : (vector s v).dma = s.dma := (vector_only s v).dma
@[simp] theorem vector_fe (v : Nat) : (vector s v).fe = s.fe := (vector_only s v).fe
@[simp] theorem vector_mbx (v : Nat) : (vector s v).mbx = s.mbx := (vector_only s v).mbx
@[simp] theorem vector_leases (v : Nat) : (vector s v).leases = s.leases := (vector_only s v).leases
@[simp] theorem vector_sec (v : Nat) : (vector s v).sec = s.sec := (vector_only s v).sec
@[simp] theorem vector_pm (v : Nat) : (vector s v).pm = s.pm := (vector_only s v).pm

@[simp] theorem setQueue_pending (q : Nat) (v : Queue) : (s.setQueue q v).pending = s.pending := (setQueue_only s q v).pending
@[simp] theorem setQueue_fresh (q : Nat) (v : Queue) : (s.setQueue q v).fresh = s.fresh := (setQueue_only s q v).fresh
@[simp] theorem setQueue_flt (q : Nat) (v : Queue) : (s.setQueue q v).flt = s.flt := (setQueue_only s q v).flt
@[simp] theorem setQueue_auxs (q : Nat) (v : Queue) : (s.setQueue q v).auxs = s.auxs := (setQueue_only s q v).auxs
@[simp] theorem setQueue_lin (q : Nat) (v : Queue) : (s.setQueue q v).lin = s.lin := (setQueue_only s q v).lin
@[simp] theorem setQueue_cal (q : Nat) (v : Queue) : (s.setQueue q v).cal = s.cal := (setQueue_only s q v).cal
@[simp] theorem setQueue_time (q : Nat) (v : Queue) : (s.setQueue q v).time = s.time := (setQueue_only s q v).time
@[simp] theorem setQueue_cap (q : Nat) (v : Queue) : (s.setQueue q v).cap = s.cap := (setQueue_only s q v).cap
@[simp] theorem setQueue_kzC (q : Nat) (v : Queue) : (s.setQueue q v).kzC = s.kzC := (setQueue_only s q v).kzC
@[simp] theorem setQueue_kzD (q : Nat) (v : Queue) : (s.setQueue q v).kzD = s.kzD := (setQueue_only s q v).kzD
@[simp] theorem setQueue_ring (q : Nat) (v : Queue) : (s.setQueue q v).ring = s.ring := (setQueue_only s q v).ring
@[simp] theorem setQueue_hostMem (q : Nat) (v : Queue) : (s.setQueue q v).hostMem = s.hostMem := (setQueue_only s q v).hostMem
@[simp] theorem setQueue_dma (q : Nat) (v : Queue) : (s.setQueue q v).dma = s.dma := (setQueue_only s q v).dma
@[simp] theorem setQueue_fe (q : Nat) (v : Queue) : (s.setQueue q v).fe = s.fe := (setQueue_only s q v).fe
@[simp] theorem setQueue_mbx (q : Nat) (v : Queue) : (s.setQueue q v).mbx = s.mbx := (setQueue_only s q v).mbx
@[simp] theorem setQueue_leases (q : Nat) (v : Queue) : (s.setQueue q v).leases = s.leases := (setQueue_only s q v).leases
@[simp] theorem setQueue_sec (q : Nat) (v : Queue) : (s.setQueue q v).sec = s.sec := (setQueue_only s q v).sec
@[simp] theorem setQueue_pm (q : Nat) (v : Queue) : (s.setQueue q v).pm = s.pm := (setQueue_only s q v).pm

@[simp] theorem qPut_pending (q : Nat) (ws : List (BitVec 32)) : ((qPut s q ws).1).pending = s.pending := (qPut_only s q ws).pending
@[simp] theorem qPut_fresh (q : Nat) (ws : List (BitVec 32)) : ((qPut s q ws).1).fresh = s.fresh := (qPut_only s q ws).fresh
@[simp] theorem qPut_flt (q : Nat) (ws : List (BitVec 32)) : ((qPut s q ws).1).flt = s.flt := (qPut_only s q ws).flt
@[simp] theorem qPut_auxs (q : Nat) (ws : List (BitVec 32)) : ((qPut s q ws).1).auxs = s.auxs := (qPut_only s q ws).auxs
@[simp] theorem qPut_lin (q : Nat) (ws : List (BitVec 32)) : ((qPut s q ws).1).lin = s.lin := (qPut_only s q ws).lin
@[simp] theorem qPut_cal (q : Nat) (ws : List (BitVec 32)) : ((qPut s q ws).1).cal = s.cal := (qPut_only s q ws).cal
@[simp] theorem qPut_time (q : Nat) (ws : List (BitVec 32)) : ((qPut s q ws).1).time = s.time := (qPut_only s q ws).time
@[simp] theorem qPut_cap (q : Nat) (ws : List (BitVec 32)) : ((qPut s q ws).1).cap = s.cap := (qPut_only s q ws).cap
@[simp] theorem qPut_kzC (q : Nat) (ws : List (BitVec 32)) : ((qPut s q ws).1).kzC = s.kzC := (qPut_only s q ws).kzC
@[simp] theorem qPut_kzD (q : Nat) (ws : List (BitVec 32)) : ((qPut s q ws).1).kzD = s.kzD := (qPut_only s q ws).kzD
@[simp] theorem qPut_ring (q : Nat) (ws : List (BitVec 32)) : ((qPut s q ws).1).ring = s.ring := (qPut_only s q ws).ring
@[simp] theorem qPut_hostMem (q : Nat) (ws : List (BitVec 32)) : ((qPut s q ws).1).hostMem = s.hostMem := (qPut_only s q ws).hostMem
@[simp] theorem qPut_dma (q : Nat) (ws : List (BitVec 32)) : ((qPut s q ws).1).dma = s.dma := (qPut_only s q ws).dma
@[simp] theorem qPut_fe (q : Nat) (ws : List (BitVec 32)) : ((qPut s q ws).1).fe = s.fe := (qPut_only s q ws).fe
@[simp] theorem qPut_mbx (q : Nat) (ws : List (BitVec 32)) : ((qPut s q ws).1).mbx = s.mbx := (qPut_only s q ws).mbx
@[simp] theorem qPut_leases (q : Nat) (ws : List (BitVec 32)) : ((qPut s q ws).1).leases = s.leases := (qPut_only s q ws).leases
@[simp] theorem qPut_sec (q : Nat) (ws : List (BitVec 32)) : ((qPut s q ws).1).sec = s.sec := (qPut_only s q ws).sec
@[simp] theorem qPut_pm (q : Nat) (ws : List (BitVec 32)) : ((qPut s q ws).1).pm = s.pm := (qPut_only s q ws).pm

@[simp] theorem qPush_pending (q : Nat) (ws : List (BitVec 32)) : (qPush s q ws).pending = s.pending := (qPush_only s q ws).pending
@[simp] theorem qPush_fresh (q : Nat) (ws : List (BitVec 32)) : (qPush s q ws).fresh = s.fresh := (qPush_only s q ws).fresh
@[simp] theorem qPush_flt (q : Nat) (ws : List (BitVec 32)) : (qPush s q ws).flt = s.flt := (qPush_only s q ws).flt
@[simp] theorem qPush_auxs (q : Nat) (ws : List (BitVec 32)) : (qPush s q ws).auxs = s.auxs := (qPush_only s q ws).auxs
@[simp] theorem qPush_lin (q : Nat) (ws : List (BitVec 32)) : (qPush s q ws).lin = s.lin := (qPush_only s q ws).lin
@[simp] theorem qPush_cal (q : Nat) (ws : List (BitVec 32)) : (qPush s q ws).cal = s.cal := (qPush_only s q ws).cal
@[simp] theorem qPush_time (q : Nat) (ws : List (BitVec 32)) : (qPush s q ws).time = s.time := (qPush_only s q ws).time
@[simp] theorem qPush_cap (q : Nat) (ws : List (BitVec 32)) : (qPush s q ws).cap = s.cap := (qPush_only s q ws).cap
@[simp] theorem qPush_kzC (q : Nat) (ws : List (BitVec 32)) : (qPush s q ws).kzC = s.kzC := (qPush_only s q ws).kzC
@[simp] theorem qPush_kzD (q : Nat) (ws : List (BitVec 32)) : (qPush s q ws).kzD = s.kzD := (qPush_only s q ws).kzD
@[simp] theorem qPush_ring (q : Nat) (ws : List (BitVec 32)) : (qPush s q ws).ring = s.ring := (qPush_only s q ws).ring
@[simp] theorem qPush_hostMem (q : Nat) (ws : List (BitVec 32)) : (qPush s q ws).hostMem = s.hostMem := (qPush_only s q ws).hostMem
@[simp] theorem qPush_dma (q : Nat) (ws : List (BitVec 32)) : (qPush s q ws).dma = s.dma := (qPush_only s q ws).dma
@[simp] theorem qPush_fe (q : Nat) (ws : List (BitVec 32)) : (qPush s q ws).fe = s.fe := (qPush_only s q ws).fe
@[simp] theorem qPush_mbx (q : Nat) (ws : List (BitVec 32)) : (qPush s q ws).mbx = s.mbx := (qPush_only s q ws).mbx
@[simp] theorem qPush_leases (q : Nat) (ws : List (BitVec 32)) : (qPush s q ws).leases = s.leases := (qPush_only s q ws).leases
@[simp] theorem qPush_sec (q : Nat) (ws : List (BitVec 32)) : (qPush s q ws).sec = s.sec := (qPush_only s q ws).sec
@[simp] theorem qPush_pm (q : Nat) (ws : List (BitVec 32)) : (qPush s q ws).pm = s.pm := (qPush_only s q ws).pm

/-! ### Queues -/

theorem Tbl.get_set_ne_any {α : Type} [DecidableEq α] (d e : α) (t : Tbl α) {k j : Nat} (v : α) (h : j ≠ k) :
    Tbl.get e (Tbl.set d t k v) j = Tbl.get e t j := by
  unfold Tbl.set
  split
  · exact Tbl.get_del_ne e t h
  · exact Tbl.get_put_ne e t v h

theorem hostRoute_queues (n : Nat) : (hostRoute s n).queues = s.queues := by
  unfold hostRoute
  simp only []
  split
  · split <;> rfl
  · rfl

theorem fireSrc_queues (n : Nat) : (fireSrc s n).queues = s.queues := by
  unfold fireSrc
  exact hostRoute_queues _ _

theorem setLevel_queues (n : Nat) (b : Bool) : (setLevel s n b).queues = s.queues := by
  unfold setLevel
  simp only []
  split
  · exact hostRoute_queues _ _
  · rfl

theorem vector_queues (v : Nat) : (vector s v).queues = s.queues := by
  unfold vector
  simp only []
  split
  · exact fireSrc_queues _ _
  · rfl

theorem setQueue_queues (q : Nat) (v : Queue) : (s.setQueue q v).queues =
    Tbl.set (Queue.init (qStaleReset q)) s.queues q { v with staleRun := v.staleRun || v.items.isEmpty } := by
  unfold State.setQueue
  simp only []
  split <;> simp only [setLevel_queues]

/-- A queue reads as it was put back; an empty one has its stale timer rearmed (R519). -/
theorem queue_setQueue (q : Nat) (v : Queue) :
    (s.setQueue q v).queue q = { v with staleRun := v.staleRun || v.items.isEmpty } := by
  unfold State.queue
  rw [setQueue_queues]
  exact Tbl.get_set_self _ _ _ _

theorem queue_setQueue_ne {q r : Nat} (v : Queue) (h : r ≠ q) : (s.setQueue q v).queue r = s.queue r := by
  unfold State.queue
  rw [setQueue_queues]
  exact Tbl.get_set_ne_any _ _ _ _ h

theorem qPut_queue_ne {q r : Nat} (ws : List (BitVec 32)) (h : r ≠ q) : (qPut s q ws).1.queue r = s.queue r := by
  unfold qPut
  simp only []
  split
  · exact queue_setQueue_ne _ _ h
  · split <;> exact queue_setQueue_ne _ _ h

/-! ### Audit records (R539–R543) -/

theorem OnlyReports.audit {s t : State} (h : OnlyReports s t) : OnlyAudit s t := by
  unfold OnlyAudit
  rw [h.sec]
  exact h

theorem OnlyAudit.eq {s t : State} (h : OnlyAudit s t) : t = { s with
    ic := t.ic, host := t.host, queues := t.queues,
    sec := { s.sec with buckets := t.sec.buckets, suppressed := t.sec.suppressed, overflow := t.sec.overflow,
                        lostFull := t.sec.lostFull, lostIntake := t.sec.lostIntake, lostPower := t.sec.lostPower } } := h
theorem OnlyAudit.pending {s t : State} (h : OnlyAudit s t) : t.pending = s.pending := by rw [h.eq]
theorem OnlyAudit.fresh {s t : State} (h : OnlyAudit s t) : t.fresh = s.fresh := by rw [h.eq]
theorem OnlyAudit.flt {s t : State} (h : OnlyAudit s t) : t.flt = s.flt := by rw [h.eq]
theorem OnlyAudit.auxs {s t : State} (h : OnlyAudit s t) : t.auxs = s.auxs := by rw [h.eq]
theorem OnlyAudit.lin {s t : State} (h : OnlyAudit s t) : t.lin = s.lin := by rw [h.eq]
theorem OnlyAudit.cal {s t : State} (h : OnlyAudit s t) : t.cal = s.cal := by rw [h.eq]
theorem OnlyAudit.time {s t : State} (h : OnlyAudit s t) : t.time = s.time := by rw [h.eq]
theorem OnlyAudit.cap {s t : State} (h : OnlyAudit s t) : t.cap = s.cap := by rw [h.eq]
theorem OnlyAudit.kzC {s t : State} (h : OnlyAudit s t) : t.kzC = s.kzC := by rw [h.eq]
theorem OnlyAudit.kzD {s t : State} (h : OnlyAudit s t) : t.kzD = s.kzD := by rw [h.eq]
theorem OnlyAudit.ring {s t : State} (h : OnlyAudit s t) : t.ring = s.ring := by rw [h.eq]
theorem OnlyAudit.hostMem {s t : State} (h : OnlyAudit s t) : t.hostMem = s.hostMem := by rw [h.eq]
theorem OnlyAudit.dma {s t : State} (h : OnlyAudit s t) : t.dma = s.dma := by rw [h.eq]
theorem OnlyAudit.fe {s t : State} (h : OnlyAudit s t) : t.fe = s.fe := by rw [h.eq]
theorem OnlyAudit.mbx {s t : State} (h : OnlyAudit s t) : t.mbx = s.mbx := by rw [h.eq]
theorem OnlyAudit.leases {s t : State} (h : OnlyAudit s t) : t.leases = s.leases := by rw [h.eq]
theorem OnlyAudit.pm {s t : State} (h : OnlyAudit s t) : t.pm = s.pm := by rw [h.eq]
theorem OnlyAudit.sec_life {s t : State} (h : OnlyAudit s t) : t.sec.life = s.sec.life := by rw [h.eq]
theorem OnlyAudit.sec_blankFuse {s t : State} (h : OnlyAudit s t) : t.sec.blankFuse = s.sec.blankFuse := by rw [h.eq]
theorem OnlyAudit.sec_swOpen {s t : State} (h : OnlyAudit s t) : t.sec.swOpen = s.sec.swOpen := by rw [h.eq]
theorem OnlyAudit.sec_debug {s t : State} (h : OnlyAudit s t) : t.sec.debug = s.sec.debug := by rw [h.eq]
theorem OnlyAudit.sec_granted {s t : State} (h : OnlyAudit s t) : t.sec.granted = s.sec.granted := by rw [h.eq]
theorem OnlyAudit.sec_fullSeen {s t : State} (h : OnlyAudit s t) : t.sec.fullSeen = s.sec.fullSeen := by rw [h.eq]
theorem OnlyAudit.sec_authLock {s t : State} (h : OnlyAudit s t) : t.sec.authLock = s.sec.authLock := by rw [h.eq]
theorem OnlyAudit.sec_breaks {s t : State} (h : OnlyAudit s t) : t.sec.breaks = s.sec.breaks := by rw [h.eq]
theorem OnlyAudit.sec_fuses {s t : State} (h : OnlyAudit s t) : t.sec.fuses = s.sec.fuses := by rw [h.eq]
theorem OnlyAudit.sec_record {s t : State} (h : OnlyAudit s t) : t.sec.record = s.sec.record := by rw [h.eq]
theorem OnlyAudit.sec_keys {s t : State} (h : OnlyAudit s t) : t.sec.keys = s.sec.keys := by rw [h.eq]
theorem OnlyAudit.sec_nonce {s t : State} (h : OnlyAudit s t) : t.sec.nonce = s.sec.nonce := by rw [h.eq]
theorem OnlyAudit.sec_refusals {s t : State} (h : OnlyAudit s t) : t.sec.refusals = s.sec.refusals := by rw [h.eq]
theorem OnlyAudit.sec_secMin {s t : State} (h : OnlyAudit s t) : t.sec.secMin = s.sec.secMin := by rw [h.eq]
theorem OnlyAudit.sec_fwSlot {s t : State} (h : OnlyAudit s t) : t.sec.fwSlot = s.sec.fwSlot := by rw [h.eq]
theorem OnlyAudit.sec_chrysalis {s t : State} (h : OnlyAudit s t) : t.sec.chrysalis = s.sec.chrysalis := by rw [h.eq]
theorem OnlyAudit.sec_slots {s t : State} (h : OnlyAudit s t) : t.sec.slots = s.sec.slots := by rw [h.eq]
theorem OnlyAudit.sec_updOwner {s t : State} (h : OnlyAudit s t) : t.sec.updOwner = s.sec.updOwner := by rw [h.eq]
theorem OnlyAudit.sec_trail {s t : State} (h : OnlyAudit s t) : t.sec.trail = s.sec.trail := by rw [h.eq]
theorem OnlyAudit.sec_next {s t : State} (h : OnlyAudit s t) : t.sec.next = s.sec.next := by rw [h.eq]
theorem OnlyAudit.sec_trailSt {s t : State} (h : OnlyAudit s t) : t.sec.trailSt = s.sec.trailSt := by rw [h.eq]
theorem OnlyAudit.sec_recno {s t : State} (h : OnlyAudit s t) : t.sec.recno = s.sec.recno := by rw [h.eq]
theorem OnlyAudit.sec_readMark {s t : State} (h : OnlyAudit s t) : t.sec.readMark = s.sec.readMark := by rw [h.eq]
theorem OnlyAudit.sec_lastMac {s t : State} (h : OnlyAudit s t) : t.sec.lastMac = s.sec.lastMac := by rw [h.eq]

theorem OnlyAudit.refl : OnlyAudit s s := rfl

theorem onlyAudit_iff {s t : State} : OnlyAudit s t ↔ ∃ ic host queues b x o f i p,
    t = { s with ic := ic, host := host, queues := queues,
                 sec := { s.sec with buckets := b, suppressed := x, overflow := o, lostFull := f, lostIntake := i, lostPower := p } } :=
  ⟨fun h => ⟨_, _, _, _, _, _, _, _, _, h⟩, by rintro ⟨_, _, _, _, _, _, _, _, _, rfl⟩; rfl⟩

theorem OnlyAudit.trans {s t u : State} (a : OnlyAudit s t) (b : OnlyAudit t u) : OnlyAudit s u := by
  rw [onlyAudit_iff] at *
  obtain ⟨_, _, _, _, _, _, _, _, _, rfl⟩ := a
  obtain ⟨_, _, _, _, _, _, _, _, _, rfl⟩ := b
  exact ⟨_, _, _, _, _, _, _, _, _, rfl⟩

theorem auditAccept_only (code subj old new : Nat) : OnlyAudit s (auditAccept s code subj old new) := by
  unfold auditAccept
  simp only []
  have a : ∀ b, OnlyAudit s { s with sec := { s.sec with buckets := b } } := fun _ => rfl
  exact (a _).trans (qPut_only _ _ _).audit

theorem auditNote_only (code subj old new : Nat) : OnlyAudit s (auditNote s code subj old new) := by
  unfold auditNote
  repeat' split
  all_goals first
    | rfl
    | exact auditAccept_only _ _ _ _ _

/-- A gate refused leaves the state as it was; a gate passed hands over one record. -/
theorem auditGate_only (code subj old new : Nat) : OnlyAudit s (auditGate s code subj old new).2 := by
  unfold auditGate
  repeat' split
  all_goals first
    | rfl
    | exact auditAccept_only _ _ _ _ _

theorem auditGate_refused (code subj old new : Nat) (h : (auditGate s code subj old new).1 ≠ .accepted) :
    (auditGate s code subj old new).2 = s := by
  revert h
  unfold auditGate
  repeat' split
  all_goals simp

theorem secNote_only (code subj old new : Nat) : OnlyAudit s (secNote s code subj old new) := by
  unfold secNote
  exact (auditNote_only _ _ _ _ _).trans (emit_only _ _ _ _).audit

/-! ### Mailbox commands (R456–R471) -/

theorem OnlyReports.answers {s t : State} (h : OnlyReports s t) : OnlyAnswers s t := by
  unfold OnlyAnswers
  rw [h.ring, h.mbx]
  exact h

theorem OnlyAnswers.eq {s t : State} (h : OnlyAnswers s t) : t = { s with
    ic := t.ic, host := t.host, queues := t.queues, ring := t.ring,
    mbx := { s.mbx with pcie := t.mbx.pcie, qspi := t.mbx.qspi, out := t.mbx.out, last := t.mbx.last } } := h
theorem OnlyAnswers.pending {s t : State} (h : OnlyAnswers s t) : t.pending = s.pending := by rw [h.eq]
theorem OnlyAnswers.fresh {s t : State} (h : OnlyAnswers s t) : t.fresh = s.fresh := by rw [h.eq]
theorem OnlyAnswers.flt {s t : State} (h : OnlyAnswers s t) : t.flt = s.flt := by rw [h.eq]
theorem OnlyAnswers.auxs {s t : State} (h : OnlyAnswers s t) : t.auxs = s.auxs := by rw [h.eq]
theorem OnlyAnswers.lin {s t : State} (h : OnlyAnswers s t) : t.lin = s.lin := by rw [h.eq]
theorem OnlyAnswers.cal {s t : State} (h : OnlyAnswers s t) : t.cal = s.cal := by rw [h.eq]
theorem OnlyAnswers.time {s t : State} (h : OnlyAnswers s t) : t.time = s.time := by rw [h.eq]
theorem OnlyAnswers.cap {s t : State} (h : OnlyAnswers s t) : t.cap = s.cap := by rw [h.eq]
theorem OnlyAnswers.kzC {s t : State} (h : OnlyAnswers s t) : t.kzC = s.kzC := by rw [h.eq]
theorem OnlyAnswers.kzD {s t : State} (h : OnlyAnswers s t) : t.kzD = s.kzD := by rw [h.eq]
theorem OnlyAnswers.hostMem {s t : State} (h : OnlyAnswers s t) : t.hostMem = s.hostMem := by rw [h.eq]
theorem OnlyAnswers.dma {s t : State} (h : OnlyAnswers s t) : t.dma = s.dma := by rw [h.eq]
theorem OnlyAnswers.fe {s t : State} (h : OnlyAnswers s t) : t.fe = s.fe := by rw [h.eq]
theorem OnlyAnswers.leases {s t : State} (h : OnlyAnswers s t) : t.leases = s.leases := by rw [h.eq]
theorem OnlyAnswers.sec {s t : State} (h : OnlyAnswers s t) : t.sec = s.sec := by rw [h.eq]
theorem OnlyAnswers.pm {s t : State} (h : OnlyAnswers s t) : t.pm = s.pm := by rw [h.eq]
theorem OnlyAnswers.mbx_force {s t : State} (h : OnlyAnswers s t) : t.mbx.force = s.mbx.force := by rw [h.eq]
theorem OnlyAnswers.mbx_pending {s t : State} (h : OnlyAnswers s t) : t.mbx.pending = s.mbx.pending := by rw [h.eq]
theorem OnlyAnswers.mbx_staged {s t : State} (h : OnlyAnswers s t) : t.mbx.staged = s.mbx.staged := by rw [h.eq]
theorem OnlyAnswers.mbx_stageOwner {s t : State} (h : OnlyAnswers s t) : t.mbx.stageOwner = s.mbx.stageOwner := by rw [h.eq]
theorem OnlyAnswers.mbx_wait {s t : State} (h : OnlyAnswers s t) : t.mbx.wait = s.mbx.wait := by rw [h.eq]
theorem OnlyAnswers.mbx_commits {s t : State} (h : OnlyAnswers s t) : t.mbx.commits = s.mbx.commits := by rw [h.eq]
theorem OnlyAnswers.mbx_lateCount {s t : State} (h : OnlyAnswers s t) : t.mbx.lateCount = s.mbx.lateCount := by rw [h.eq]
theorem OnlyAnswers.mbx_store {s t : State} (h : OnlyAnswers s t) : t.mbx.store = s.mbx.store := by rw [h.eq]
theorem OnlyAnswers.mbx_saving {s t : State} (h : OnlyAnswers s t) : t.mbx.saving = s.mbx.saving := by rw [h.eq]

theorem OnlyAnswers.refl : OnlyAnswers s s := rfl

theorem onlyAnswers_iff {s t : State} : OnlyAnswers s t ↔ ∃ ic host queues ring p q o l,
    t = { s with ic := ic, host := host, queues := queues, ring := ring,
                 mbx := { s.mbx with pcie := p, qspi := q, out := o, last := l } } :=
  ⟨fun h => ⟨_, _, _, _, _, _, _, _, h⟩, by rintro ⟨_, _, _, _, _, _, _, _, rfl⟩; rfl⟩

theorem OnlyAnswers.trans {s t u : State} (a : OnlyAnswers s t) (b : OnlyAnswers t u) : OnlyAnswers s u := by
  rw [onlyAnswers_iff] at *
  obtain ⟨_, _, _, _, _, _, _, _, rfl⟩ := a
  obtain ⟨_, _, _, _, _, _, _, _, rfl⟩ := b
  exact ⟨_, _, _, _, _, _, _, _, rfl⟩

theorem updBank_only (v : Via) (f : Bank → Bank) : OnlyAnswers s (s.updBank v f) := by
  cases v <;> rfl

theorem egressVia_ring (port : Nat) (f : ZFrame) : egressVia s port f = { s with ring := (egressVia s port f).ring } := by
  unfold egressVia egressAs
  repeat' split
  all_goals rfl

theorem emitG_ring (f : ZFrame) : emitG s f = { s with ring := (emitG s f).ring } := by
  unfold emitG
  repeat' split
  · rfl
  · rfl
  · exact egressVia_ring _ _ _

/-- Sending a guaranteed frame changes the ring only. -/
theorem sendG_ring (kind dst row : Nat) (p : Bytes) : sendG s kind dst row p = { s with ring := (sendG s kind dst row p).ring } := by
  unfold sendG originate
  simp only []
  repeat' split
  all_goals first
    | rfl
    | (rw [emitG_ring])

theorem sendG_only (kind dst row : Nat) (p : Bytes) : OnlyAnswers s (sendG s kind dst row p) := by
  rw [sendG_ring]
  rfl

theorem transportError_only (v : Via) (slot code : Nat) (tag : BitVec 32) : OnlyAnswers s (transportError s v slot code tag) := by
  unfold transportError
  exact ((updBank_only _ _ _).trans (vector_only _ _).answers).trans (emit_only _ _ _ _).answers

theorem postSlot_only (v : Via) (slot span len : Nat) (tag : BitVec 32) :
    OnlyAnswers s (postSlot s v slot span len tag).1 := by
  unfold postSlot
  split
  · simp only []
    have a : ∀ (t : State) o, OnlyAnswers t { t with mbx := { t.mbx with out := o } } := fun _ _ => rfl
    refine OnlyAnswers.trans ?_ (OnlyReports.answers (qPut_only _ _ _))
    exact OnlyAnswers.trans (updBank_only s v _) (a _ _)
  · dsimp only
    exact transportError_only s v slot _ tag

theorem putResponse_only (v : Via) (slot : Nat) (b : Bytes) : OnlyAnswers s (putResponse s v slot b) := by
  unfold putResponse
  exact (updBank_only _ _ _).trans (vector_only _ _).answers

theorem respond_only (op : Nat) (h : CmdHdr) (a : Ans) : OnlyAnswers s (respond s op h a) := by
  unfold respond
  split
  · rfl
  · split
    · rfl
    · simp only []
      have a : ∀ (t : State) o l, OnlyAnswers t { t with mbx := { t.mbx with out := o, last := l } } := fun _ _ _ => rfl
      split
      · exact (a _ _ _).trans (sendG_only _ _ _ _ _)
      · exact (a _ _ _).trans (putResponse_only _ _ _ _)

theorem qErase_only (q : Nat) (w : BitVec 32) : OnlyReports s (qErase s q w) := by
  unfold qErase
  simp only []
  split <;> exact setQueue_only _ _ _

theorem takeWord_only (h : CmdHdr) : OnlyReports s (takeWord s h) := by
  unfold takeWord
  exact (qErase_only _ _ _).trans (setQueue_only _ _ _)

theorem bankPost_only (op : Nat) (h : CmdHdr) (p : Bytes) : OnlyAnswers s (bankPost s op h p).1 := by
  unfold bankPost
  split
  · rfl
  · simp only []
    split
    · exact postSlot_only _ _ _ _ _ _
    · exact (updBank_only _ _ _).trans (postSlot_only _ _ _ _ _ _)

theorem takeCmd_only (op : Nat) (h : CmdHdr) (p : Bytes) : OnlyAnswers s (takeCmd s op h p).1 := by
  unfold takeCmd
  split
  · split
    · dsimp only
      split
      · exact (takeWord_only _ _).answers
      · rfl
    · split <;> rfl
  · simp only []
    split
    · exact (bankPost_only _ _ _ _).trans (takeWord_only _ _).answers
    · exact bankPost_only _ _ _ _

/-- What a taken command leaves of the state, field by field. -/
theorem taken_only (op : Nat) (h : CmdHdr) (p : Bytes) : OnlyAnswers s (taken op h p s) := takeCmd_only _ _ _ _

/-- A live outstanding command with room for it is answered as given (R464, R471). -/
theorem respond_answers {op : Nat} {h : CmdHdr} {a : Ans} {len : Nat} (ok : s.answerable h len = true)
    (fit : a.payload.length ≤ len) : Answers (respond s op h a) op h a.status a.detail a.payload := by
  unfold State.answerable at ok
  unfold Answers respond
  unfold State.outOf at ok
  split at ok
  · next o e =>
    simp only [Bool.and_eq_true, Bool.not_eq_true', decide_eq_true_eq] at ok
    have room : ¬(256 * o.span - 16 < a.payload.length) := by omega
    rw [e]
    simp only [ok.1, Bool.false_eq_true, if_false, room]
    rw [List.take_of_length_le (by omega)]
    split
    · rw [sendG_ring]
    · unfold putResponse
      rw [vector_mbx, vector_flt]
      cases h.via <;> rfl
  · simp at ok

/-- A mailbox command that its transport and its header let through, with a well-formed payload, and whose body answers: the
body's state is left with that answer. -/
theorem mailbox_answers {op : Nat} {form : Bytes → Option Nat} {body : State → CmdHdr → Bytes → State × Option Ans}
    {h : CmdHdr} {p : Bytes} {len : Nat} {a : Ans} {u : State} (ok : Accepted op h p s len = true) (fm : form p = none)
    (bd : body (taken op h p s) h p = (u, some a)) (out : u.mbx.out = (taken op h p s).mbx.out) (fit : a.payload.length ≤ len) :
    mailbox op form body h p s = respond u op h a ∧ OnlyAnswers u (mailbox op form body h p s) ∧
      Answers (mailbox op form body h p s) op h a.status a.detail a.payload := by
  unfold Accepted at ok
  simp only [Bool.and_eq_true] at ok
  obtain ⟨⟨⟨t, hd⟩, rm⟩, an⟩ := ok
  have e : mailbox op form body h p s = respond u op h a := by
    unfold mailbox
    unfold taken at hd rm bd
    generalize takeCmd s op h p = r at *
    obtain ⟨r1, r2⟩ := r
    dsimp only at *
    subst t
    dsimp only
    rw [Option.isNone_iff_eq_none] at hd rm
    rw [hd, rm]
    dsimp only
    rw [fm]
    dsimp only
    rw [bd]
  have an' : u.answerable h len = true := by
    unfold State.answerable State.outOf at *
    rw [out]
    exact an
  exact ⟨e, e ▸ respond_only _ _ _ _, e ▸ respond_answers _ an' fit⟩

/-! ### Leases and the serial-memory controller (R41, R42, R45) -/

/-- Renewing a lease touches the leases alone, and the lease then stands renewed in this cycle. -/
theorem renew_only (r : LeaseRes) : renew s r = { s with leases := (renew s r).leases } := rfl

@[simp] theorem renew_justRenewed (r : LeaseRes) : (renew s r).justRenewed r = true := by
  simp [renew, State.justRenewed]

theorem unbar_only (tag : Nat) : unbar s tag = { s with leases := (unbar s tag).leases } := rfl

/-- A resource that changes hands carries no fault of its former holder. -/
theorem acquire_only (r : LeaseRes) : acquire s r = { s with leases := (acquire s r).leases } := rfl

theorem acquire_faulty (r : LeaseRes) (c : Nat) : (r, c) ∉ (acquire s r).leases.faulty := by
  simp [acquire, renew]

/-- Granting the controller touches the leases alone. -/
theorem holdSerial_only : holdSerial s = { s with leases := (holdSerial s).leases } := by
  unfold holdSerial
  dsimp only
  split <;> rfl

@[simp] theorem holdSerial_serial : (holdSerial s).leases.serial = s.serialHolder := by
  unfold holdSerial
  dsimp only
  split <;> simp_all

theorem endSerial_only : endSerial s = { s with leases := (endSerial s).leases } := by
  unfold endSerial
  rw [renew_only, holdSerial_only]

/-- A core that holds the controller and goes on asking keeps it. -/
theorem serialHolder_keeps (h : s.leases.serial ≠ 0) (a : s.leases.serial - 1 ∈ s.serialAsks) :
    s.serialHolder = s.leases.serial := by
  simp [State.serialHolder, h, a]

end Sys2Proof.Machine
end

