-- ==== Sys2Proof/WellFormed.lean ====
section
/-!
DEFINITION. Which commands name things that exist: the ranges of R15 and of the chapters. An event that names a channel,
a port or an input that the part does not have cannot happen; a mailbox command's payload is checked by its meaning, so
here only its slot and its length are (R457, R463).
-/
namespace Sys2Proof

/-- The payload of a command spans at most the eight slots of a bank less the header (R457, R465), and the slot exists. -/
def CmdHdr.wf (h : CmdHdr) (p : Bytes) : Bool :=
  h.slot < 8 && p.length ≤ 2032 && (match h.via with | .ring st => st < 64 | _ => true)

def LeaseRes.wf : LeaseRes → Bool
  | .dma ch => ch < 16
  | .skein ts => ts < 4
  | .handover cl => cl < 32
  | _ => true

def RowInput.wf (i : RowInput) : Bool :=
  i.mods.all (fun e => e.1 < 288) && i.test.all (fun e => e.1 < 256) && i.sense.all (fun e => e.1 < 32) &&
    i.clampHeld.all (· < 256) && i.limitHeld.all (· < 32) && i.overVolt.all (· < 32) && i.supplyOut.all (· < 2)

def ZFrame.wf (f : ZFrame) : Bool :=
  f.version < 16 && f.kind < 16 && f.hops < 256 && f.src < 256 && f.dst < 256 && f.epoch < 65536 &&
    f.seq < 2 ^ 32 && f.subtype < 256 && f.row < 2 ^ 48 && f.payload.length ≤ 9216

def ScrubResult.wf : ScrubResult → Bool
  | .inClassBuffer c _ _ => c < 16
  | _ => true

def WakeSrc.wf : WakeSrc → Bool
  | .di i => i < 19
  | .timeEvent n => n < 16
  | .sentinel c => c < 256
  | _ => true

/-- The command names only what the part has. -/
def Instr.wf : Instr → Bool
  | .rowBoundary i => i.wf
  | .leaseExpiry r | .leaseRevoked r | .resourceRelease r => r.wf
  | .rowStreamStart | .syncOutPulseEnd | .tsStep | .pfwRecoveryTimeout => true
  | .pfwAsserted n | .pfwDeasserted n => 0 < n
  | .excCurrentLimit cl | .excRetry cl | .polarityCheckDone cl _ | .excRampDone cl | .senseOpen cl _
  | .senseShort cl | .senseReversed cl | .senseRestored cl | .pinOvervoltage cl => cl < 32
  | .excShort cl k => cl < 32 && k < 3
  | .signalOpen ch _ | .signalRestored ch | .clamp ch => ch < 256
  | .modOverloadActive sl _ | .modOverloadClear sl => sl < 288
  | .vfReversed d | .vfOutOfRange d | .vfInRange d | .vfCollapse d => d < 2
  | .tedsScan h p => h.wf p
  | .tedsScanDone cl nodes => cl < 32 && nodes.all fun l => l.length ≤ 8
  | .tedsRead h p | .tedsApply h p | .rotClearSuspect h p => h.wf p
  | .rotStepStart cl | .rotPhaseEnd cl | .rotDeferExpired cl | .rotCalDone cl | .rotWindowEnd cl _ => cl < 32
  | .ladderGrant rg => rg < 8
  | .auxResult d _ => d < 2
  | .regionSensorConversion ts => ts.length ≤ 8
  | .tempStale d e => d < 2 && e < 64
  | .syncIn => true
  | .sync h p | .firRead h p | .calPoint h p | .calSolve h p | .calAbort h p | .phaseMeasure h p | .skewMeasure h p
  | .fdtLearn h p | .swatchStage h p => h.wf p
  | .calDone => true
  | .swatchStoreWritten _ | .tbSnapshotCapture => true
  | .tbIncrWrite n _ _ | .tbSlewWrite n _ _ _ | .tbSlewDone n => n < 4
  | .timeIncr h p | .timeSlew h p | .timeStepTb3 h p | .timeTod h p | .asymMeasure h p => h.wf p
  | .ptpSyncRx m => m.port < 2 && m.domain < 256 && m.hops < 256 && decide (-128 ≤ m.interval ∧ m.interval < 128)
  | .ptpSyncForward pt dom _ _ _ => pt < 2 && dom < 256
  | .ptpSyncTx d | .ptpAnnounceTx d | .syncLossTimeout d | .announceReceiptTimeout d | .syncCopyLost d => d < 2
  | .ptpPdelayTx pt | .ptpPdelayRx pt _ | .ptpMgmtDrop pt => pt < 2
  | .ptpAnnounceRx m => m.port < 2 && m.domain < 256 && m.cls < 256
  | .acqTimeout | .ppsInEdge _ | .ppsInLost | .ppsOutRise | .ppsOutEnd | .freqSourceLost | .freqHoldoverEnd | .freqSourceChanged
  | .asymPhaseDone => true
  | .teArm h p | .teDisarm h p | .tsArm h p | .tsDisarm h p | .capMarkSet h p | .capMarkClear h p | .capRewind h p
  | .skeinNext h p | .skeinRead h p => h.wf p
  | .teFire n | .tePulseEnd n => n < 16
  | .tbTxqRead _ | .txqOverflow | .captureLogWrite => true
  | .skeinClosed id => id < 2 ^ 32
  | .kzCompress t j _ | .kzDecompress t j _ => t < 256 && j.length = 32
  | .kzJobDone _ | .kzContextTimeout => true
  | .linkModeTimeout pt | .helloTx pt | .helloTimeout pt | .heldOutRetry pt | .beatTx pt | .beatMissed pt | .linkDown pt
  | .beDropped pt => pt < 2
  | .blockLock pt m => pt < 2 && m < 8
  | .hello pt m => pt < 2 && m.station < 256 && m.verMin < 256 && m.verMax < 256 && m.port < 2
  | .enum pt n _ _ _ => pt < 2 && n < 256
  | .enumTimeout n => 1 ≤ n && n ≤ 64
  | .admitRspTimeout => true
  | .enumDone c _ t u _ => c < 256 && t < 65536 && u.length ≤ 64
  | .topology t c _ o _ l => t < 65536 && c < 256 && o.length ≤ 64 && l.length ≤ 64
  | .admitReq st _ _ => st < 64
  | .admitRsp _ _ => true
  | .zimirFrameRx pt et n _ f => pt < 2 && et < 65536 && n < 65536 && f.wf
  | .guaranteedFrameRx f | .skeinFrameRx f | .cmdFrameRx f | .rspFrameRx f | .deliveryEntry f => f.wf
  | .replayReq r f c => r < 64 && f < 2 ^ 32 && c < 65536
  | .replayNak o f c old => o < 64 && f < 2 ^ 32 && c < 65536 && old < 2 ^ 32
  | .gapWaitExpiry o q | .replayExpired o q => o < 64 && q < 2 ^ 32
  | .replayWindowExpiry q => q < 2 ^ 32
  | .beatRx pt m => pt < 2 && m.station < 256
  | .frameCycleEnd | .feHeartbeat _ | .feHeartbeatMissed _ | .feFence | .feSelftestStep _ _ => true
  | .feSwitch h p | .feReset h p => h.wf p
  | .feResetDone e _ | .feResyncDone e => e < 2
  | .pciePerst | .hostLinkDown | .hostFlr => true
  | .pcieConfigRequest o => o < 4096
  | .hostLinkUp g w m _ => 1 ≤ g && g ≤ 4 && (w = 1 || w = 2 || w = 4) && m < 3
  | .hostLinkDegraded g w => 1 ≤ g && g ≤ 4 && (w = 1 || w = 2 || w = 4)
  | .registerWrite _ _ d _ => d.length ≤ 256
  | .wideRegisterLowRead _ _ n => n ≤ 64
  | .msixUnmask v => v < 32
  | .qspiRead _ w => w ≤ 64
  | .qspiWrite _ d _ => d.length ≤ 256
  | .qspiStatus => true
  | .dmaStart n _ _ | .dmaPause n | .dmaResume n _ | .dmaAbort n | .dmaPaused n _ | .dmaDescriptorDone n _ _
  | .dmaReadError n _ | .dmaRrdWrite n _ | .dmaThresholdTimeout n | .dmaPausedPower n _ | .dmaAbortPower n _ => n < 16
  | .dmaDrainRequest => true
  | .mbxPost _ _ | .mbxReadyClear _ _ => true
  | .mbxTimeout _ sl => sl < 8
  | .nop h p | .ident h p | .regRead h p | .regWrite h p | .reset h p | .patSet h p | .patGet h p | .patDiscard h p
  | .commitAt h p | .commitCancel h p | .patSave h p | .patLoad h p | .ringReplay h p => h.wf p
  | .patSaved sl => sl < 8
  | .icClaim _ | .coreDoorbell _ => true
  | .icComplete _ src => src < 256
  | .icMaskWrite _ n _ => n < 3
  | .interruptSourcePend src _ => src < 192
  | .diEdge i _ n => i < 19 && 0 < n
  | .qWrite q _ _ | .qDrop q | .qFlush q | .qStale q => q < 9
  | .sealSwChange _ n => 0 < n
  | .nonceExpiry | .authLockoutEnd | .auditRecordWrite _ | .trailCleared => true
  | .auditTokenRefill c => c < 65536
  | .lifecycleSet h p | .keyInstall h p | .keyRevoke h p | .authChallenge h p | .trailRead h p | .trailClear h p
  | .debugSet h p | .metroId h p | .updateBegin h p | .updateWrite h p | .updateVerify h p | .updateActivate h p => h.wf p
  | .fwChrysalisReady | .fwVerifyDone | .logicPowerOnReset | .castOn _ _ _ | .resetNAssert _ => true
  | .fieldDiePowerUp d | .isoLanesLocked d | .sensorAlarmClear d => d < 2
  | .isoLaneLost d l | .isoLaneRetrained d l => d < 2 && l < 10
  | .pwrState h p | .bindOff h p | .hlogRead h p => h.wf p
  | .bindOffDone | .rtcAlarm | .mgWake | .hlogFlush | .vaonLost | .powerStateChanged | .debugAttached => true
  | .wake src => src.wf
  | .sentinelSample xs => xs.all (fun e => e.1 < 256)
  | .mgRead b r _ => b < 256 && r < 256
  | .coreWatchdog _ => true
  | .sensorUpdate vs => vs.length ≤ 24
  | .mdScrub r => r.wf

end Sys2Proof
end

