-- ==== Sys2Proof/Tests/Slice0.lean ====
section
/-!
SUPPORT. Tests of the model: terms that WellFormed refuses, single commands whose effect the spec states, and for every
statement of the obligations a witness: concrete states and operands that meet the hypotheses of each of its clauses.
-/
namespace Sys2Proof.Tests
set_option Elab.async false
open Sys2Proof.Machine

/-! ### States that the tests share -/

/-- Cast-on has ended, and the mailbox is open (R396, R575). -/
def ready : State :=
  { State.reset with
    host := { State.reset.host with fwReady := true }
    pm := { State.reset.pm with castOn := true, castOnDone := true } }

/-- A header from PCIe at slot 0, eight slots long, for any epoch (R463). -/
def hdr : CmdHdr := ⟨.pcie, 0, 0x380, 1, 0xFFFFFFFF⟩

/-- Row 1000 of an open stream is in production, and both field dies are powered. -/
def rowing : State :=
  { ready with flt := { ready.flt with
      rows := { ready.flt.rows with phase := .running, row := 1000 }
      dies := [(0, { FieldDie.init with powered := true }), (1, { FieldDie.init with powered := true })] } }

/-- A driver of `rowing`. -/
def drv (cl : Nat) (st : DrvState) : State := rowing.updDrv cl fun d => { d with st := st }

theorem noneDue_of_nil {s : State} (h : s.time.events = []) : NoneDue s := by
  intro n hn
  have : s.tev n = TimeEv.init := by simp [State.tev, h, Tbl.get]
  rw [this] at hn
  exact absurd hn (by decide)

/-! ### WellFormed refuses what does not exist -/

theorem test_wf_slot : Instr.wf (.nop { hdr with slot := 8 } []) = false ∧ Instr.wf (.nop hdr []) = true := by decide
theorem test_wf_length : Instr.wf (.nop hdr (List.replicate 2033 0)) = false := by decide +kernel
theorem test_wf_originator : Instr.wf (.nop { hdr with via := .ring 64 } []) = false := by decide
theorem test_wf_power_fail : Instr.wf (.pfwAsserted 0) = false ∧ Instr.wf (.pfwDeasserted 1) = true := by decide
theorem test_wf_row :
    Instr.wf (.rowBoundary { RowInput.quiet with mods := [(288, [])] }) = false ∧
    Instr.wf (.rowBoundary { RowInput.quiet with test := [(256, 0)] }) = false ∧
    Instr.wf (.rowBoundary { RowInput.quiet with sense := [(32, ⟨0, 0, false⟩)] }) = false ∧
    Instr.wf (.rowBoundary { RowInput.quiet with clampHeld := [256] }) = false ∧
    Instr.wf (.rowBoundary { RowInput.quiet with limitHeld := [32] }) = false ∧
    Instr.wf (.rowBoundary { RowInput.quiet with overVolt := [32] }) = false ∧
    Instr.wf (.rowBoundary { RowInput.quiet with supplyOut := [2] }) = false ∧
    Instr.wf (.rowBoundary ⟨[(287, [1])], [(255, 1)], [(31, ⟨1, 1, true⟩)], [255], [31], [31], [1]⟩) = true := by decide
theorem test_wf_lease : Instr.wf (.leaseExpiry (.dma 16)) = false ∧ Instr.wf (.leaseRevoked (.skein 4)) = false ∧
    Instr.wf (.resourceRelease (.handover 32)) = false ∧ Instr.wf (.leaseExpiry .staging) = true := by decide
theorem test_wf_field : Instr.wf (.excShort 32 0) = false ∧ Instr.wf (.excShort 0 3) = false ∧
    Instr.wf (.senseOpen 32 false) = false ∧ Instr.wf (.signalOpen 256 false) = false ∧ Instr.wf (.clamp 256) = false ∧
    Instr.wf (.modOverloadClear 288) = false ∧ Instr.wf (.vfReversed 2) = false ∧ Instr.wf (.excShort 31 2) = true := by
  decide
theorem test_wf_teds_rotation : Instr.wf (.tedsScanDone 32 none) = false ∧
    Instr.wf (.tedsScanDone 0 (some (List.replicate 9 ⟨0, false, false, 0, 0, 0, [], []⟩))) = false ∧
    Instr.wf (.rotWindowEnd 32 0) = false ∧ Instr.wf (.ladderGrant 8) = false ∧ Instr.wf (.auxResult 2 0) = false ∧
    Instr.wf (.regionSensorConversion (List.replicate 9 0)) = false ∧ Instr.wf (.tempStale 0 64) = false := by decide
theorem test_wf_time : Instr.wf (.tbIncrWrite 4 true 0) = false ∧ Instr.wf (.tbSlewDone 4) = false ∧
    Instr.wf (.ptpSyncRx ⟨2, 0, 0, 0, 0, 0, 0, 0⟩) = false ∧ Instr.wf (.ptpSyncRx ⟨0, 0, 0, 0, 0, 0, 0, 128⟩) = false ∧
    Instr.wf (.ptpAnnounceRx ⟨0, 0, 0, 0, 256, 0, 0, 0, 0, 0, false, false⟩) = false ∧ Instr.wf (.ptpSyncTx 2) = false ∧
    Instr.wf (.ptpPdelayTx 2) = false ∧ Instr.wf (.syncCopyLost 2) = false ∧ Instr.wf (.teFire 16) = false ∧
    Instr.wf (.tePulseEnd 16) = false := by decide
theorem test_wf_store : Instr.wf (.skeinClosed (2 ^ 32)) = false ∧ Instr.wf (.kzCompress 256 [] []) = false ∧
    Instr.wf (.kzDecompress 0 [] []) = false := by decide
theorem test_wf_ring : Instr.wf (.blockLock 0 8) = false ∧ Instr.wf (.helloTx 2) = false ∧
    Instr.wf (.hello 0 ⟨0, 1, 3, false, 256, 0, 0, 0, 0⟩) = false ∧ Instr.wf (.enum 0 256 0 3 0) = false ∧
    Instr.wf (.enumDone 256 0 0 [] 0) = false ∧ Instr.wf (.topology 65536 0 0 [] 0 []) = false ∧
    Instr.wf (.enumTimeout 0) = false ∧ Instr.wf (.admitReq 64 0 0) = false ∧ Instr.wf (.replayReq 64 0 0) = false ∧ Instr.wf (.replayNak 0 0 65536 0) = false ∧
    Instr.wf (.gapWaitExpiry 64 0) = false ∧ Instr.wf (.replayExpired 0 (2 ^ 32)) = false ∧
    Instr.wf (.replayWindowExpiry (2 ^ 32)) = false ∧
    Instr.wf (.beatRx 0 ⟨0, 256, 0, false, false, 0, 0, 0, 0, 0⟩) = false ∧
    Instr.wf (.zimirFrameRx 0 0x88B5 0 true ⟨16, 0, 0, 0, 0, 0, 0, 0, 0, 0, [], 0⟩) = false ∧
    Instr.wf (.cmdFrameRx ⟨3, 3, 0, 0, 0, 0, 0, 0, 0, 2 ^ 48, [], 0⟩) = false := by decide
theorem test_wf_engines_host : Instr.wf (.feResetDone 2 true) = false ∧ Instr.wf (.feResyncDone 2) = false ∧
    Instr.wf (.pcieConfigRequest 4096) = false ∧ Instr.wf (.hostLinkUp 5 4 0 false) = false ∧
    Instr.wf (.hostLinkDegraded 4 3) = false ∧ Instr.wf (.registerWrite .pcie 0 (List.replicate 257 0) []) = false ∧
    Instr.wf (.wideRegisterLowRead .pcie 0 65) = false ∧ Instr.wf (.msixUnmask 32) = false ∧ Instr.wf (.qspiRead 0 65) = false ∧
    Instr.wf (.qspiWrite 0 (List.replicate 257 0) []) = false ∧ Instr.wf (.dmaPause 16) = false := by decide +kernel
theorem test_wf_mailbox_inputs : Instr.wf (.mbxTimeout .pcie 8) = false ∧ Instr.wf (.patSaved 8) = false ∧
    Instr.wf (.icComplete false 256) = false ∧ Instr.wf (.icMaskWrite false 3 0) = false ∧
    Instr.wf (.interruptSourcePend 192 false) = false ∧ Instr.wf (.diEdge 19 true 1) = false ∧ Instr.wf (.qDrop 9) = false ∧
    Instr.wf (.qWrite 9 [] false) = false := by decide
theorem test_wf_seal_power : Instr.wf (.auditTokenRefill 65536) = false ∧ Instr.wf (.fieldDiePowerUp 2) = false ∧
    Instr.wf (.isoLaneLost 0 10) = false ∧ Instr.wf (.wake (.di 19)) = false ∧ Instr.wf (.wake (.timeEvent 16)) = false ∧
    Instr.wf (.wake (.sentinel 256)) = false ∧ Instr.wf (.sentinelSample [(256, 0)]) = false ∧
    Instr.wf (.mgRead 256 0 1) = false ∧ Instr.wf (.sealSwChange true 0) = false ∧ Instr.wf (.sensorUpdate (List.replicate 25 (0, 0))) = false ∧
    Instr.wf (.mdScrub (.inClassBuffer 16 0 0)) = false := by decide

/-- The log is at least as large as the stated part of MD leaves it. -/
theorem logSize_ge (p : Pat) (n : Nat) (h : n + p.bufBytes + p.regionMiB * 2 ^ 20 ≤ 320 * 2 ^ 20) : n ≤ p.logSize := by
  unfold Pat.logSize Config.mdBytes; omega

/-! ### Witnesses: the queue and the field side -/

/-- A channel whose signal-open detector runs, with row 999 held. -/
def openable : State :=
  { rowing with
    mbx := { rowing.mbx with force := Pat.setStr [] sExc 31 (putFld (defStruct sExc) 0 1 0) }
    flt := { rowing.flt with recent := [⟨999, [], [], [], 0, RowEv.none⟩] } }

theorem witness_StepRunsFrontCommand_1 : ∃ (c : Instr) (rest : List Instr) (s : State),
    s.pending = c :: rest :=
  ⟨.tsStep, [.mgWake], { State.reset with pending := [.tsStep, .mgWake] }, by decide +kernel⟩

theorem witness_StepRunsFrontCommand_2 : ∃ (s : State),
    s.pending = [] ∧ s.timeRuns = false :=
  ⟨State.reset, by decide +kernel⟩

theorem witness_StepRunsFrontCommand_3 : ∃ (s : State),
    s.pending = [] ∧ s.timeRuns = true ∧ (∀ e ∈ s.time.events, e.2.st ≠ 1) ∧ s.ring.egress = [] :=
  ⟨ready, by decide +kernel⟩

theorem witness_HostMemoryStaysCanonical_1 : ∃ (s s' : State),
    HostMemWf s ∧ step s = .next s' :=
  ⟨{ State.reset with hostMem := [(16, 1)] }, { State.reset with hostMem := [(16, 1)] },
    by and_intros <;> first | (unfold HostMemWf; decide +kernel) | rfl | decide +kernel⟩

theorem witness_FusesNeverFall_1 : ∃ (breaks version : Nat) (s s' : State),
    breaks ≤ 4096 ∧ FuseFloor breaks version s ∧ step s = .next s' :=
  ⟨1, 2, { State.reset with sec := { State.reset.sec with fuses := 1, secMin := 2 } }, { State.reset with sec := { State.reset.sec with fuses := 1, secMin := 2 } },
    by and_intros <;> first | (unfold FuseFloor; decide +kernel) | rfl | decide +kernel⟩

theorem witness_DriverFaultsParkOrFallBack_1 : ∃ (cl kind : Nat) (s : State),
    kind < 3 ∧ (s.cluster cl).drv.st.driving = true ∧ (s.die (clDie cl)).powered = true ∧
    (s.cluster cl).drv.retrying = false :=
  ⟨31, 2, drv 31 .ramp, by decide +kernel⟩

theorem witness_DriverFaultsParkOrFallBack_2 : ∃ (cl : Nat) (s : State),
    s.fourWire cl = false ∧ ((s.cluster cl).drv.st = .regulating ∨ (s.cluster cl).drv.st = .ramp) :=
  ⟨31, drv 31 .regulating, by decide +kernel⟩

theorem witness_DriverFaultsParkOrFallBack_3 : ∃ (cl : Nat) (neg : Bool) (s : State),
    s.fourWire cl = false ∧
    ((s.cluster cl).drv.st = .ramp ∨ (s.cluster cl).drv.st = .regulating ∨ (s.cluster cl).drv.st = .fallback) ∧
    ((s.cluster cl).drv.live.testBit (if neg then 4 else 3) = false) :=
  ⟨0, true, drv 0 .fallback, by decide +kernel⟩

theorem witness_DriverFaultsParkOrFallBack_4 : ∃ (cl : Nat) (s : State),
    s.fourWire cl = false ∧
    ((s.cluster cl).drv.st = .ramp ∨ (s.cluster cl).drv.st = .regulating ∨ (s.cluster cl).drv.st = .fallback) ∧
    (s.cluster cl).drv.live.testBit 5 = false :=
  ⟨0, drv 0 .fallback, by decide +kernel⟩

theorem witness_SignalOpenMarksBackToOnset_1 : ∃ (h : Nat),
    h < 2 ^ 128 :=
  ⟨2 ^ 128 - 1, by decide +kernel⟩

theorem witness_SignalOpenMarksBackToOnset_2_1 : ∃ (h : Nat),
    histRun 128 h < 128 :=
  ⟨0x37, by decide +kernel⟩

theorem witness_SignalOpenMarksBackToOnset_3 : ∃ (ch : Nat) (neg : Bool) (s : State),
    ch < 256 ∧ s.openDetector ch = true ∧ s.rowOpen = true ∧
    ((if neg then (s.chan ch).openN else (s.chan ch).openP) = false) :=
  ⟨255, true, openable, by decide +kernel⟩

theorem witness_DriverSequence_1_1 : ∃ (cl : Nat) (s : State),
    (s.cluster cl).drv.st.driving = true ∧ (s.cluster cl).drv.retrying = false :=
  ⟨0, drv 0 .regulating, by decide +kernel⟩

theorem witness_DriverSequence_2 : ∃ (cl : Nat) (s : State),
    ((s.cluster cl).drv.st = .shortParked ∨ ((s.cluster cl).drv.st = .thermalParked ∧ s.driverCool cl = true)) ∧
    s.pat.f sExc cl 5 1 ≠ 0 :=
  ⟨31, drv 31 .shortParked, by decide +kernel⟩

theorem witness_DriverSequence_3_1 : ∃ (cl : Nat) (ok : Bool) (s : State),
    (s.cluster cl).drv.st = .check ∧ (ok = true ∨ s.fourWire cl = true) :=
  ⟨1, true, drv 1 .check, by decide +kernel⟩

theorem witness_DriverSequence_3_2 : ∃ (cl : Nat) (ok : Bool) (s : State),
    (s.cluster cl).drv.st = .check ∧ ok = false ∧ s.fourWire cl = false :=
  ⟨1, false, drv 1 .check, by decide +kernel⟩

theorem witness_DriverSequence_4 : ∃ (cl : Nat) (s : State),
    (s.cluster cl).drv.st = .ramp :=
  ⟨2, drv 2 .ramp, by decide +kernel⟩

theorem witness_DriverSequence_5 : ∃ (cl : Nat) (s : State),
    (s.cluster cl).drv.st = .fallback ∧ (s.cluster cl).drv.senseBad = true :=
  ⟨3, (drv 3 .fallback).updDrv 3 fun d => d.raise 3, by decide +kernel⟩

theorem witness_ClampsAndOverloads_1 : ∃ (ch : Nat) (s : State),
    ch < 256 ∧ (s.die (chDie ch)).powered = true :=
  ⟨255, rowing, by decide +kernel⟩

theorem witness_ClampsAndOverloads_3 : ∃ (sl : Nat) (s : State),
    s.rowOpen = true ∧ ((s.slice sl).ovl = 1 ∨ (s.slice sl).ovl = 2) :=
  ⟨287, rowing.updSlice 287 fun x => { x with ovl := 2 }, by decide +kernel⟩

theorem witness_ClampsAndOverloads_4 : ∃ (ch : Nat) (s : State),
    ((s.chan ch).openP || (s.chan ch).openN) = true :=
  ⟨0, rowing.updChan 0 fun x => { x with openN := true }, by decide +kernel⟩

theorem witness_ClampsAndOverloads_5 : ∃ (cl : Nat) (s : State),
    (s.die (clDie cl)).powered = true :=
  ⟨31, rowing, by decide +kernel⟩

theorem witness_FieldSupplyFaults_2 : ∃ (d : Die) (s : State),
    (s.die d).powered = true ∧ (s.die d).outRange = false ∧ (s.die d).stopRow = none :=
  ⟨1, rowing, by decide +kernel⟩

theorem witness_FieldSupplyFaults_3 : ∃ (d : Die) (s : State),
    (s.die d).outRange = true ∧ (s.die d).powered = true ∧ s.rowOpen = true :=
  ⟨0, rowing.updDie 0 fun x => { x with outRange := true }, by decide +kernel⟩

theorem witness_FieldSupplyFaults_4 : ∃ (d : Die) (s : State),
    (s.die d).powered = true ∧ (s.die d).outRange = false :=
  ⟨1, rowing, by decide +kernel⟩

/-! ### Witnesses: TEDS, rotation, auxiliary converters -/

/-- A node with ROM 1 at position 7 of cluster 31, scanned for PCIe, whose template 41 gives two coefficients. -/
def node : TedsNode := ⟨1, true, true, 5000, 0, 2000000, [0, 0x3F800000], [0]⟩
def scanned : State :=
  { rowing with
    mbx := { rowing.mbx with force := Pat.setStr [] sTedsMap 31 (putFld (zeros 64) 56 8 1) }
    pm := { rowing.pm with teds := [(31, [node])], tedsScan := [(31, 0x41)] } }

/-- The driver of cluster 31 regulates; its rotation is as given. -/
def rotating (ph : RotPhase) (st : RotStep) : State :=
  (drv 31 .regulating).updRot 31 fun r => { r with phase := ph, step := st }

/-- The same under DC excitation, the spare given its correction set for the gain code in force. -/
def rotatingDc (st : RotStep) : State :=
  let s := rotating .cal st
  { s with mbx := { s.mbx with force := Pat.setStr [] sExc 31 (putFld (defStruct sExc) 0 1 0) }
           flt := { s.flt with corr := [(8 * 287 + 7, ⟨0, 2 ^ 30, 64, none⟩)] } }

/-- The measurement phases under DC have run; the reference read `g` of its nominal value (R120). -/
def calibrated (g : Int) : State :=
  rotatingDc { RotStep.init with
    meas := .gainNeg, mRows := 3, elapsed := 3, gain := 7
    sums := [(0, ⟨0, 0, 64⟩), (1, ⟨64 * g, 0, 64⟩), (2, ⟨-(64 * g), 0, 64⟩)] }

/-- A shadow window of two rows with the differences given. -/
def windowOver (ds : List Int) : State := rotating .shadow { RotStep.init with window := 2, diffs := ds }

theorem witness_TedsScanFillsCache_1 : ∃ (h : CmdHdr) (cl : Byte) (s : State),
    Accepted 0x0200 h [cl] s 0 = true ∧ cl.toNat < 32 ∧ Tbl.get 0 s.pm.tedsScan cl.toNat = 0 :=
  ⟨hdr, 31, ready, by decide +kernel⟩

theorem witness_TedsScanFillsCache_2 : ∃ (cl : Nat) (s : State),
    Tbl.get 0 s.pm.tedsScan cl ≠ 0 ∧ (s.die (clDie cl)).powered = true :=
  ⟨31, scanned, by decide +kernel⟩

theorem witness_TedsScanFillsCache_3 : ∃ (h : CmdHdr) (cl pos : Byte) (s : State),
    cl.toNat < 32 ∧ pos.toNat < 8 ∧ Accepted 0x0201 h [cl, pos] s 40 = true ∧ s.tedsNode s.pat cl.toNat pos.toNat = none :=
  ⟨hdr, 0, 7, scanned, by decide +kernel⟩

theorem witness_TedsScanFillsCache_4 : ∃ (h : CmdHdr) (cl pos : Byte) (n : TedsNode) (s : State),
    cl.toNat < 32 ∧ pos.toNat < 8 ∧ s.tedsNode s.pat cl.toNat pos.toNat = some n ∧
    Accepted 0x0201 h [cl, pos] s (40 + n.bytes.length) = true :=
  ⟨hdr, 31, 7, node, scanned, by decide +kernel⟩

theorem witness_TedsApplyStagesProposals_1 : ∃ (h : CmdHdr) (cl : Byte) (s : State),
    Accepted 0x0202 h [cl, 0, 1, 0] s 0 = true ∧ cl.toNat < 32 ∧ s.isSealed = false ∧ MayStage h s = true ∧
    s.clusterAmplitude s.stageBase cl.toNat ≠ 0 :=
  ⟨hdr, 31, scanned, by decide +kernel⟩

theorem witness_TedsApplyStagesProposals_2 : ∃ (h : CmdHdr) (cl : Byte) (pos : Nat) (n : TedsNode) (s : State),
    pos < 8 ∧ Accepted 0x0202 h [cl, BitVec.ofNat 8 (2 ^ pos), 2, 0] s 0 = true ∧ cl.toNat < 32 ∧ s.isSealed = false ∧
    MayStage h s = true ∧ s.tedsNode s.stageBase cl.toNat pos = some n ∧ nodeGood n = true :=
  ⟨hdr, 31, 7, node, scanned, by decide +kernel⟩

theorem witness_TedsApplyStagesProposals_3 : ∃ (h : CmdHdr) (cl : Byte) (pos : Nat) (n : TedsNode) (s : State),
    pos < 8 ∧ Accepted 0x0202 h [cl, BitVec.ofNat 8 (2 ^ pos), 4, 0] s 0 = true ∧ cl.toNat < 32 ∧ s.isSealed = false ∧
    MayStage h s = true ∧ s.tedsNode s.stageBase cl.toNat pos = some n ∧ nodeGood n = true ∧ n.coeffs ≠ [] ∧
    seedsOk n = true :=
  ⟨hdr, 31, 7, node, scanned, by decide +kernel⟩

theorem witness_RotationMeasures_1 : ∃ (cl tgt : Nat) (s : State),
    (s.cluster cl).rot.phase = .paused ∧ (s.cluster cl).spareValid = true ∧ s.rotReady cl = true ∧
    s.clusterClean cl = true ∧ s.rotEnabled cl = true ∧ s.nextTarget cl (s.cluster cl).rot.target = some tgt :=
  ⟨31, 0, rotating .paused RotStep.init, by decide +kernel⟩

theorem witness_RotationMeasures_2 : ∃ (cl : Nat) (m : MeasPhase) (s : State),
    (s.cluster cl).rot.phase = .cal ∧ s.rotReady cl = true ∧ s.phaseOver cl = true ∧
    ((s.cluster cl).rot.step.meas = .gainPos ∧ m = .gainNeg ∨
      (s.cluster cl).rot.step.meas = .gainNeg ∧ s.excMode cl ≠ 0 ∧ m = .phase) :=
  ⟨31, .gainNeg, rotating .cal { RotStep.init with meas := .gainPos, mRows := 4, elapsed := 1 }, by decide +kernel⟩

theorem witness_RotationMeasures_3 : ∃ (cl : Nat) (s : State),
    (s.cluster cl).rot.phase = .cal ∧ (s.cluster cl).rot.step.meas = .zero ∧ s.rotReady cl = true ∧ s.phaseOver cl = true :=
  ⟨31, rotating .cal { RotStep.init with meas := .zero, mRows := 4, elapsed := 0 }, by decide +kernel⟩

theorem witness_RotationMeasures_4 : ∃ (cl : Nat) (s : State),
    (s.cluster cl).rot.phase = .settle ∧ s.rotReady cl = true ∧
    (s.cluster cl).rot.step.settleAt + s.clL cl ≤ s.flt.rows.row :=
  ⟨31, rotating .settle RotStep.init, by decide +kernel⟩

theorem witness_RotationMeasures_5 : ∃ (rg : Nat) (s : State),
    (s.ladder rg).holder = none ∧ (s.ladder rg).waiting ≠ [] :=
  ⟨7, rowing.updLadder 7 fun l => { l with waiting := [31, 28] }, by decide +kernel⟩

theorem witness_RotationCalibrates_1_1 : ∃ (cl : Nat) (s : State),
    let r := (s.cluster cl).rot
    let sl := s.spareSlice cl
    let c := calResult r.step.sums (s.measPhases cl = 3) (s.corrSet sl r.step.gain)
    s.calReady cl = true ∧ corrOk c.offset c.gain c.phase = true ∧ r.step.gain < 8 ∧
    (s.rotFrozen cl = true ∨ r.step.gain = s.pat.gain (8 * cl + r.target)) ∧ s.rotFrozen cl = false :=
  ⟨31, calibrated (2 ^ 60), by decide +kernel⟩

theorem witness_RotationCalibrates_2 : ∃ (cl : Nat) (s : State),
    let r := (s.cluster cl).rot
    let sl := s.spareSlice cl
    let c := calResult r.step.sums (s.measPhases cl = 3) (s.corrSet sl r.step.gain)
    s.calReady cl = true ∧ corrOk c.offset c.gain c.phase = false :=
  ⟨31, calibrated (2 ^ 50), by decide +kernel⟩

theorem witness_HandoverChangesMapOnce_1 : ∃ (cl : Nat) (s : State),
    (s.cluster cl).rot.phase = .shadow ∧ s.rotReady cl = true ∧ s.handoverLost cl = false ∧
    (s.cluster cl).rot.ended = false ∧ (s.cluster cl).rot.step.window ≤ (s.cluster cl).rot.step.diffs.length ∧
    (testWindow (s.cluster cl).rot.step).2 = true ∧ s.gateShut cl = false :=
  ⟨31, windowOver [0, 0], by decide +kernel⟩

theorem witness_HandoverChangesMapOnce_2_1 : ∃ (cl dTdt : Nat) (s : State),
    let slow := (s.cluster cl).rot.step.rateGate = 0 ∨ dTdt ≤ (s.cluster cl).rot.step.rateGate
    (s.cluster cl).rot.phase = .shadow ∧ s.rotReady cl = true ∧ s.handoverLost cl = false ∧
    (s.cluster cl).rot.ended = false ∧ (s.cluster cl).rot.step.window ≤ (s.cluster cl).rot.step.diffs.length ∧
    (testWindow (s.cluster cl).rot.step).2 = false ∧ slow :=
  ⟨31, 0, windowOver [2 ^ 61, 2 ^ 61], by decide +kernel⟩

theorem witness_HandoverChangesMapOnce_2_2 : ∃ (cl dTdt : Nat) (s : State),
    let slow := (s.cluster cl).rot.step.rateGate = 0 ∨ dTdt ≤ (s.cluster cl).rot.step.rateGate
    (s.cluster cl).rot.phase = .shadow ∧ s.rotReady cl = true ∧ s.handoverLost cl = false ∧
    (s.cluster cl).rot.ended = false ∧ (s.cluster cl).rot.step.window ≤ (s.cluster cl).rot.step.diffs.length ∧
    (testWindow (s.cluster cl).rot.step).2 = false ∧ (¬slow) :=
  ⟨31, 11, windowOver [2 ^ 61, 2 ^ 61], by decide +kernel⟩

theorem witness_HandoverChangesMapOnce_3 : ∃ (cl : Nat) (s : State),
    (s.cluster cl).rot.phase = .defer ∧ s.handoverLost cl = false ∧ (s.cluster cl).rot.ended = false ∧
    (s.cluster cl).rot.step.deferMax * (s.cluster cl).rot.step.window ≤ (s.cluster cl).rot.step.deferred :=
  ⟨31, rotating .defer { RotStep.init with deferred := 1024 }, by decide +kernel⟩

theorem witness_HandoverChangesMapOnce_4 : ∃ (h : CmdHdr) (p : Bytes) (s : State),
    p.length = 2 ∧ fld p 0 2 < 288 ∧ Accepted 0x0210 h p s 0 = true ∧ (s.slice (fld p 0 2)).suspect = true :=
  ⟨hdr, [0x1F, 1], rowing.updSlice 287 fun x => { x with suspect := true }, by decide +kernel⟩

theorem witness_AuxiliaryResults_1 : ∃ (d : Die) (s : State),
    (s.aux d).running = true :=
  ⟨1, rowing.updAux 1 fun a => { a with running := true }, by decide +kernel⟩

theorem witness_AuxiliaryResults_3 : ∃ (d : Die) (e : Nat) (s : State),
    (∃ ch ∈ tempUsers s.pat d e, (s.tempCh ch).st ≠ 2 ∧ s.tempOld ch = true) :=
  ⟨1, 63, { ready with mbx := { ready.mbx with force := Pat.setStr [] sTemp 255 (putFld (zeros 16) 0 4 0x013F0102) }, time := { ready.time with b2 := { ready.time.b2 with val := 2 * secF } } },
    by decide +kernel⟩

/-! ### Witnesses: calibration and the time unit -/

def setPat (s : State) (sid idx : Nat) (b : Bytes) : State :=
  { s with mbx := { s.mbx with force := Pat.setStr s.mbx.force sid idx b } }
def rowsIn (ph : StreamPhase) (s : State) : State :=
  { s with flt := { s.flt with rows := { s.flt.rows with phase := ph } } }
def timed (f : TimeU → TimeU) (s : State) : State := { s with time := f s.time }

/-- A measurement of channel 255 with its window over, and what it has gathered. -/
def meas (k : MeasKind) (point : Nat) (acc : MeasAcc) : Meas := ⟨k, 2 ^ 255, point, 16, 984, 0, 4, 0x41, [(255, acc)], [], [], []⟩
def measured (k : MeasKind) (point : Nat) (acc : MeasAcc) : State :=
  { rowing with cal := { rowing.cal with running := some (meas k point acc) } }

/-- Channel 255 with both points measured, from 0 to half of full scale. -/
def solvable : State :=
  { ready with cal := { ready.cal with res := [(255, { CalRes.init with points := 3, mean1 := 2 ^ 30, proposal := true })] } }

/-- Grandmaster of domain 0 from PPS_TOD, with the second of the next edge announced and both ports UP. -/
def grandmaster : State :=
  let s := setPat ready sTime 0 (putFld (defStruct sTime) 6 1 1)
  { s with ring := { s.ring with numbered := true, za := { s.ring.za with st := .up }, zb := { s.ring.zb with st := .up } }
           time := { s.time with tod := some 3, b0 := { s.time.b0 with st := .acquiring } } }

/-- Port ZB is EXTERNAL, with the delay mechanism given by CTRL; a request waits for its answer. -/
def foreign (ctrl : Nat) : State :=
  let s := setPat ready sTime 0 (putFld (putFld (defStruct sTime) 7 1 4) 1 1 ctrl)
  { s with time := { s.time with zb := { s.time.zb with asked := some (5, 1000), down := some 7 } } }

/-- TE_ARM of event 15: ACTION at second 5 in TB3, OUT_MODE HIGH. -/
def teArmBytes (action : Byte) : Bytes :=
  [15, 0, 0, 0, 0, 0, 0, 0, 3, action, 0, 0] ++ le 4 1 ++ le 2 0 ++ le 4 0 ++ le 6 5 ++ zeros 12
def armed (action : Byte) (next now : Nat) : State :=
  timed (fun t => { t with b3 := { t.b3 with val := now } })
    (ready.updTev 15 fun e => { e with cfg := slice (teArmBytes action) 8 32, st := 1, next := next })
def txq (ws : List (BitVec 32)) : State := ready.setQueue 6 { Queue.init 0 with items := [⟨ws, true, false⟩] }
def asymmetry (phase : Nat) : Asym := ⟨1, phase, 0, some 1000, 640, 2⟩

/-- No other event is armed. -/
theorem armed_alone (action : Byte) (next now : Nat) : ∀ m ≠ 15, ((armed action next now).tev m).st ≠ 1 := by
  intro m hm
  unfold armed timed State.updTev State.tev
  rw [Tbl.get_upd_ne _ _ _ hm]
  simp [ready, State.reset, Tbl.get, TimeEv.init]

theorem witness_SyncActsAtNextBoundary_1_1 : ∃ (h : CmdHdr) (s : State),
    Accepted 0x0211 h [] s 6 = true ∧ (s.syncDeaf = true ∨ (s.flt.rows.phase ≠ .running ∧ s.flt.rows.phase ≠ .waitSync)) :=
  ⟨hdr, ready, by decide +kernel⟩

theorem witness_SyncActsAtNextBoundary_1_2 : ∃ (h : CmdHdr) (s : State),
    Accepted 0x0211 h [] s 6 = true ∧ s.syncDeaf = false ∧ s.flt.rows.phase = .running :=
  ⟨hdr, rowing, by decide +kernel⟩

theorem witness_SyncActsAtNextBoundary_1_3 : ∃ (h : CmdHdr) (s : State),
    Accepted 0x0211 h [] s 6 = true ∧ s.syncDeaf = false ∧ s.flt.rows.phase = .waitSync :=
  ⟨hdr, rowsIn .waitSync rowing, by decide +kernel⟩

theorem witness_SyncActsAtNextBoundary_2_1 : ∃ (s : State),
    s.rowOpen = true ∧ (s.syncDeaf = true ∨ s.flt.rows.last < s.dated 16) :=
  ⟨timed (fun t => { t with b0 := { t.b0 with val := 10 ^ 20 } }) rowing, by decide +kernel⟩

theorem witness_SyncActsAtNextBoundary_2_2 : ∃ (s : State),
    s.rowOpen = true ∧ s.syncDeaf = false ∧ s.dated 16 ≤ s.flt.rows.last :=
  ⟨rowing, by decide +kernel⟩

theorem witness_SyncActsAtNextBoundary_2_3 : ∃ (s : State),
    s.syncDeaf = false ∧ s.flt.rows.phase = .waitSync :=
  ⟨rowsIn .waitSync rowing, by decide +kernel⟩

theorem witness_SyncActsAtNextBoundary_2_4 : ∃ (s : State),
    s.rowOpen = false ∧ (s.syncDeaf = true ∨ s.flt.rows.phase ≠ .waitSync) :=
  ⟨ready, by decide +kernel⟩

theorem witness_SyncActsAtNextBoundary_3 : ∃ (h : CmdHdr) (set order : Byte) (s : State),
    set.toNat < 6 ∧ 3 ≤ order.toNat ∧ order.toNat ≤ 5 ∧
    (Accepted 0x0212 h [set, order] s (if set.toNat = 5 then 92 else 256) = true) :=
  ⟨hdr, 0, 5, ready, by decide +kernel⟩

theorem witness_MeasurementsStartAndAbort_1 : ∃ (h : CmdHdr) (p : Bytes) (s : State),
    p.length = 40 ∧ fld p 0 32 ≠ 0 ∧ fld p 32 1 < 2 ∧ allZero (slice p 33 3) = true ∧ 16 ≤ fld p 36 4 ∧
    fld p 36 4 ≤ 65536 ∧ s.cal.running = none ∧ Accepted 0x0300 h p s 0 = true :=
  ⟨hdr, zeros 31 ++ [0x80, 1, 0, 0, 0] ++ le 4 16, rowing, by decide +kernel⟩

theorem witness_MeasurementsStartAndAbort_2 : ∃ (h : CmdHdr) (p : Bytes) (s : State),
    p.length = 8 ∧ fld p 0 4 ≠ 0 ∧ 16 ≤ fld p 4 4 ∧ fld p 4 4 ≤ 65536 ∧ s.cal.running = none ∧
    Accepted 0x0303 h p s 0 = true :=
  ⟨hdr, le 4 (2 ^ 31) ++ le 4 65536, rowing, by decide +kernel⟩

theorem witness_MeasurementsStartAndAbort_3 : ∃ (h : CmdHdr) (p : Bytes) (s : State),
    p.length = 40 ∧ fld p 0 32 ≠ 0 ∧ (fld p 0 32).testBit (fld p 32 2) = true ∧ 3 ≤ fld p 34 1 ∧ fld p 34 1 ≤ 12 ∧
    allZero (slice p 35 1) = true ∧ 4096 ≤ fld p 36 4 ∧ fld p 36 4 ≤ 65536 ∧ fld p 36 4 % 2 ^ fld p 34 1 = 0 ∧
    inPassband s.flt.chain.cur.firSet (fld p 34 1) = true ∧ s.skewCommit = none ∧ s.cal.running = none ∧
    Accepted 0x0304 h p s 0 = true :=
  ⟨hdr, zeros 31 ++ [0x80, 255, 0, 3, 0] ++ le 4 4096, rowing, by decide +kernel⟩

theorem witness_MeasurementsStartAndAbort_4 : ∃ (h : CmdHdr) (p : Bytes) (s : State),
    p.length = 8 ∧ fld p 0 1 < 32 ∧ allZero (slice p 1 3) = true ∧ 256 ≤ fld p 4 4 ∧ fld p 4 4 ≤ 65536 ∧
    s.cal.running = none ∧ Accepted 0x0305 h p s 0 = true :=
  ⟨hdr, [31, 0, 0, 0] ++ le 4 256, rowing, by decide +kernel⟩

theorem witness_MeasurementsStartAndAbort_5 : ∃ (h : CmdHdr) (s : State),
    Accepted 0x0302 h [] s 0 = true :=
  ⟨hdr, rowing, by decide +kernel⟩

theorem witness_MeasurementResults_1 : ∃ (m : Meas) (s : State),
    s.cal.running = some m ∧ m.kind = .point ∧ m.first + m.n ≤ s.flt.rows.row :=
  ⟨meas .point 0 { MeasAcc.init with flagged := true }, measured .point 0 { MeasAcc.init with flagged := true },
    by decide +kernel⟩

theorem witness_MeasurementResults_2 : ∃ (m : Meas) (s : State),
    s.cal.running = some m ∧ m.kind = .phase ∧ m.first + m.n ≤ s.flt.rows.row :=
  ⟨{ meas .phase 0 { MeasAcc.init with rows := 16, inPhase := 1000 } with condEnd := [(255, 256)] }, { rowing with cal := { rowing.cal with running := some { meas .phase 0 { MeasAcc.init with rows := 16, inPhase := 1000 } with condEnd := [(255, 256)] } } },
    by decide +kernel⟩

theorem witness_MeasurementResults_3 : ∃ (m : Meas) (s : State),
    s.cal.running = some m ∧ m.kind = .skew ∧ m.first + m.n ≤ s.flt.rows.row :=
  ⟨meas .skew 255 { MeasAcc.init with rows := 16, sine := 2 ^ 70, cosine := 2 ^ 60 }, measured .skew 255 { MeasAcc.init with rows := 16, sine := 2 ^ 70, cosine := 2 ^ 60 },
    by decide +kernel⟩

theorem witness_MeasurementResults_4_1 : ∃ (m : Meas) (s : State),
    let chs := (clChans m.point).filter s.fdtCounts
    let q := 4 * (chs.map fun ch => (Tbl.get MeasAcc.init m.acc ch).quadMax).foldl Nat.max 0
    let v := 4 * (chs.map fun ch => (Tbl.get MeasAcc.init m.acc ch).testMax).foldl Nat.max 0
    s.cal.running = some m ∧ m.kind = .fdt ∧ m.first + m.n ≤ s.flt.rows.row ∧
    (∀ ch ∈ chs, (Tbl.get MeasAcc.init m.acc ch).flagged = false) ∧ q * 10000000 ≤ 5000 * 2 ^ 31 ∧
    v * 100000000 ≤ 1000 * 2 ^ 31 :=
  ⟨meas .fdt 31 { MeasAcc.init with rows := 16 }, measured .fdt 31 { MeasAcc.init with rows := 16 }, by decide +kernel⟩

theorem witness_MeasurementResults_4_2 : ∃ (m : Meas) (s : State),
    let chs := (clChans m.point).filter s.fdtCounts
    let q := 4 * (chs.map fun ch => (Tbl.get MeasAcc.init m.acc ch).quadMax).foldl Nat.max 0
    let v := 4 * (chs.map fun ch => (Tbl.get MeasAcc.init m.acc ch).testMax).foldl Nat.max 0
    s.cal.running = some m ∧ m.kind = .fdt ∧ m.first + m.n ≤ s.flt.rows.row ∧
    (∀ ch ∈ chs, (Tbl.get MeasAcc.init m.acc ch).flagged = false) ∧
    (5000 * 2 ^ 31 < q * 10000000 ∨ 1000 * 2 ^ 31 < v * 100000000) :=
  ⟨meas .fdt 31 { MeasAcc.init with rows := 16, quadMax := 2 ^ 31 }, measured .fdt 31 { MeasAcc.init with rows := 16, quadMax := 2 ^ 31 },
    by decide +kernel⟩

theorem witness_MeasurementResults_4_3 : ∃ (m : Meas) (s : State),
    let chs := (clChans m.point).filter s.fdtCounts
    s.cal.running = some m ∧ m.kind = .fdt ∧ m.first + m.n ≤ s.flt.rows.row ∧
    (∃ ch ∈ chs, (Tbl.get MeasAcc.init m.acc ch).flagged = true) :=
  ⟨meas .fdt 31 { MeasAcc.init with rows := 16, flagged := true }, measured .fdt 31 { MeasAcc.init with rows := 16, flagged := true },
    by decide +kernel⟩

theorem witness_SolveAndStageSwatches_1_1 : ∃ (h : CmdHdr) (p : Bytes) (s : State),
    let v := solve s (fld p 0 2) (fld p 2 1 = 1) (signed 32 (fld p 4 4)) (signed 32 (fld p 8 4))
    p.length = 12 ∧ fld p 0 2 < 256 ∧ fld p 2 1 < 2 ∧ allZero (slice p 3 1) = true ∧ Accepted 0x0301 h p s 10 = true ∧
    v.reason ≠ 0 :=
  ⟨hdr, [255, 0, 0, 0] ++ le 4 0 ++ le 4 (2 ^ 30), ready, by decide +kernel⟩

theorem witness_SolveAndStageSwatches_1_2 : ∃ (h : CmdHdr) (p : Bytes) (s : State),
    let v := solve s (fld p 0 2) (fld p 2 1 = 1) (signed 32 (fld p 4 4)) (signed 32 (fld p 8 4))
    p.length = 12 ∧ fld p 0 2 < 256 ∧ fld p 2 1 < 2 ∧ allZero (slice p 3 1) = true ∧ Accepted 0x0301 h p s 10 = true ∧
    v.reason = 0 :=
  ⟨hdr, [255, 0, 0, 0] ++ le 4 0 ++ le 4 (2 ^ 30), solvable, by decide +kernel⟩

theorem witness_SolveAndStageSwatches_2 : ∃ (h : CmdHdr) (p : Bytes) (s : State),
    p.length = 32 ∧ s.isSealed = false ∧ MayStage h s = true ∧
    (∀ ch ∈ bitsOf 256 (fld p 0 32), (s.calRes ch).proposal = true) ∧ Accepted 0x0306 h p s 0 = true :=
  ⟨hdr, zeros 31 ++ [0x80], solvable, by decide +kernel⟩

theorem witness_BaseRegisterWrites_1 : ∃ (n : Nat) (byHost : Bool) (w : BitVec 48) (s : State),
    n < 4 ∧ s.ownsBase n byHost = true ∧ incrOk w.toNat = true :=
  ⟨3, true, 0x0009FEB851EC, ready, by decide +kernel⟩

theorem witness_BaseRegisterWrites_2 : ∃ (n : Nat) (byHost : Bool) (o : BitVec 48) (r : BitVec 16) (s : State),
    n < 4 ∧ s.ownsBase n byHost = true ∧ (byHost = true ∨ s.servoMay n r.toNat = true) ∧
    o.toInt.natAbs ≤ 1000000000 * 65536 ∧ 1 ≤ r.toNat ∧ (r.toNat ≤ 100 ∨ s.followed n = false) :=
  ⟨3, true, -(1000000000 * 65536), 65535, ready, by decide +kernel⟩

theorem witness_BaseRegisterWrites_3 : ∃ (n : Nat) (s : State),
    n < 4 ∧ Undisturbed s ∧ 0 < (s.base n).incr * (s.base n).slewRate ∧ s.rowFirst (s.base n).ticksToEnd false = false :=
  ⟨3, timed (fun t => { t with b3 := { t.b3 with slewRem := -1000, slewRate := 1000 } }) ready,
    by and_intros <;> first | (unfold Undisturbed; decide +kernel) | decide +kernel⟩

theorem witness_BaseRegisterWrites_4 : ∃ (h : CmdHdr) (p : Bytes) (s : State),
    p.length = 8 ∧ hostBase (fld p 0 1) = true ∧ allZero (slice p 1 1) = true ∧ s.ownsBase (fld p 0 1) true = true ∧
    incrOk (fld p 2 6) = true ∧ Accepted 0x0400 h p s 0 = true :=
  ⟨hdr, [3, 0] ++ le 6 0x000A0147AE14, ready, by decide +kernel⟩

theorem witness_BaseRegisterWrites_5 : ∃ (h : CmdHdr) (p : Bytes) (s : State),
    p.length = 12 ∧ hostBase (fld p 0 1) = true ∧ allZero (slice p 1 1) = true ∧ allZero (slice p 10 2) = true ∧
    s.ownsBase (fld p 0 1) true = true ∧ Accepted 0x0401 h p s 0 = true ∧
    (signed 48 (fld p 4 6)).natAbs ≤ 1000000000 * 65536 ∧ 1 ≤ fld p 2 2 ∧
    (fld p 2 2 ≤ 100 ∨ s.followed (fld p 0 1) = false) :=
  ⟨hdr, [3, 0] ++ le 2 65535 ++ le 6 (1000000000 * 65536) ++ [0, 0], ready, by decide +kernel⟩

theorem witness_BaseRegisterWrites_7 : ∃ (h : CmdHdr) (p : Bytes) (s : State),
    p.length = 8 ∧ allZero (slice p 6 2) = true ∧ Accepted 0x0403 h p s 0 = true :=
  ⟨hdr, le 6 (2 ^ 48 - 1) ++ [0, 0], ready, by decide +kernel⟩

theorem witness_BaseLoads_1 : ∃ (h : CmdHdr) (p : Bytes) (s : State),
    p.length = 12 ∧ fld p 2 4 < 1000000000 ∧ s.rowOpen = false ∧ Accepted 0x0402 h p s 0 = true ∧
    (auditGate (taken 0x0402 h p s) 0x3060 0 (s.time.b3.val / secF) (ofTime96 (fld p 0 12) / secF)).1 = .accepted ∧
    NoneDue (s.updBase 3 fun b => { b with val := ofTime96 (fld p 0 12) }) :=
  ⟨hdr, le 2 65535 ++ le 4 999999999 ++ le 6 7, ready, by and_intros <;> first | exact noneDue_of_nil rfl | decide +kernel⟩

theorem witness_BaseLoads_2_1 : ∃ (s : State),
    s.time.selected < 2 ∧ s.selBase.st = .unset ∧
    NoneDue (s.updBase s.time.selected fun b => { b with val := s.pm.rtc * secF }) ∧ s.flt.rows.phase ≠ .waitBase :=
  ⟨ready, by and_intros <;> first | exact noneDue_of_nil rfl | decide +kernel⟩

theorem witness_BaseLoads_2_2 : ∃ (s : State),
    s.time.selected < 2 ∧ s.selBase.st = .unset ∧
    NoneDue (s.updBase s.time.selected fun b => { b with val := s.pm.rtc * secF }) ∧ s.flt.rows.phase = .waitBase :=
  ⟨rowsIn .waitBase { ready with pm := { ready.pm with rtc := 77 } },
    by and_intros <;> first | exact noneDue_of_nil rfl | decide +kernel⟩

theorem witness_DomainDecidesBaseState_1 : ∃ (m : PtpSync) (n : Nat) (s : State),
    let v := (((s.base n).val : Int) - s.syncOffsetOf n m).toNat
    s.domainBase m.domain = some n ∧ s.takesFrom n m.port = true ∧ s.syncFrom n m = true ∧
    ((s.base n).setCopy m.port (some m.hops)).steerPort = some m.port ∧
    ((s.base n).gmId = 0 ∨ (s.base n).gmId = m.gmId) ∧ (s.base n).st = .unset ∧
    NoneDue (s.updBase n fun b => { b with val := v }) :=
  ⟨⟨0, 0, 5, 0, 7, 3, 9, 0⟩, 0, ready, by and_intros <;> first | exact noneDue_of_nil rfl | decide +kernel⟩

theorem witness_DomainDecidesBaseState_2_1 : ∃ (m : PtpSync) (n : Nat) (s : State),
    s.domainBase m.domain = some n ∧ s.takesFrom n m.port = true ∧ s.syncFrom n m = true ∧
    ((s.base n).setCopy m.port (some m.hops)).steerPort = some m.port ∧
    ((s.base n).gmId = 0 ∨ (s.base n).gmId = m.gmId) ∧ (s.base n).st = .acquiring ∧ (s.base n).reload = false ∧
    s.within 1 m.offset = true ∧ s.jumps m.offset = false ∧ m.offset.natAbs ≤ 256 * 1000000000 ∧ 15 ≤ (s.base n).inLock ∧
    NoneDue s ∧ s.isGm n = false :=
  ⟨⟨0, 0, 0, 0, 0, 3, 9, 0⟩, 0, ready.updBase 0 fun b => { b with st := .acquiring, inLock := 15 },
    by and_intros <;> first | exact noneDue_of_nil rfl | decide +kernel⟩

theorem witness_DomainDecidesBaseState_3 : ∃ (m : PtpAnnounce) (n : Nat) (s : State),
    s.domainBase m.domain = some n ∧ s.takesFrom n m.port = true ∧ s.follows n m = true ∧
    ((s.base n).gmId = 0 ∨ (s.base n).gmId = m.gmId) ∧ (s.base n).st = .locked ∧ (s.base n).failed = false ∧
    (s.base n).clsLock < m.cls :=
  ⟨⟨1, 0, 9, 128, 7, 0x20, 0, 128, 1, 37, false, false⟩, 0, ready.updBase 0 fun b => { b with st := .locked, gmId := 9, clsLock := 6 },
    by decide +kernel⟩

theorem witness_DomainDecidesBaseState_4 : ∃ (n : Nat) (s : State),
    n < 2 ∧ (s.base n).failed = false ∧ ((s.base n).st = .acquiring ∨ (s.base n).st = .locked ∨ (s.base n).st = .holdover) :=
  ⟨1, ready.updBase 1 fun b => { b with st := .acquiring }, by decide +kernel⟩

theorem witness_DomainDecidesBaseState_5 : ∃ (n p hops : Nat) (s : State),
    n < 2 ∧ p < 2 ∧ (s.base n).steerPort = some p ∧ (s.base n).copy (1 - p) = some hops :=
  ⟨1, 0, 2, ready.updBase 1 fun b => { b with st := .holdover, copyA := some 2, copyB := some 2 }, by decide +kernel⟩

theorem witness_PtpMessages_1 : ∃ (n : Nat) (s : State),
    n < 2 ∧ s.isGm n = true ∧ (s.queue 6).level ≤ 56 :=
  ⟨0, grandmaster, by decide +kernel⟩

theorem witness_PtpMessages_2 : ∃ (n : Nat) (s : State),
    n < 2 ∧ s.isGm n = true :=
  ⟨0, grandmaster, by decide +kernel⟩

theorem witness_PtpMessages_3 : ∃ (port : Nat) (s : State),
    port < 2 ∧ s.portRole port ≠ 2 ∧ (s.queue 6).level ≤ 60 :=
  ⟨1, foreign 0, by decide +kernel⟩

theorem witness_PtpMessages_4 : ∃ (port : Nat) (s : State),
    port < 2 ∧ s.portRole port ≠ 2 ∧ s.endToEnd port = false ∧ (s.queue 6).level ≤ 60 :=
  ⟨1, foreign 4, by decide +kernel⟩

theorem witness_PtpMessages_5 : ∃ (port : Nat) (id : Nat) (sent : Nat) (s : State),
    port < 2 ∧ (s.tbPort port).asked = some (id, sent) ∧ s.endToEnd port = false :=
  ⟨1, 5, 1000, foreign 4, by decide +kernel⟩

theorem witness_PtpMessages_6 : ∃ (port : Nat) (id : Nat) (sent : Nat) (down : Int) (s : State),
    port < 2 ∧ (s.tbPort port).asked = some (id, sent) ∧ (s.tbPort port).down = some down ∧ s.endToEnd port = true :=
  ⟨1, 5, 1000, 7, foreign 0, by decide +kernel⟩

theorem witness_PtpMessages_7 : ∃ (port : Nat) (s : State),
    port < 2 ∧ s.portRole port = 0 ∧ s.ptpRing (1 - port) = true :=
  ⟨0, grandmaster, by decide +kernel⟩

theorem witness_PulsePerSecond_1 : ∃ (s : State),
    (∀ n < 2, (s.isGm n && s.gmSrc n = 1) = false) :=
  ⟨ready, by decide +kernel⟩

theorem witness_PulsePerSecond_2 : ∃ (stamp sec : Nat) (s : State),
    let o := ((stamp : Int) + (s.base 0).val - s.selBase.val - s.pat.f sTime 0 18 2 * 2 ^ 28 - sec * secF) / 2 ^ 24
    s.isGm 0 = true ∧ s.gmSrc 0 = 1 ∧ (s.isGm 1 && s.gmSrc 1 = 1) = false ∧ s.time.tod = some sec ∧
    ((s.base 0).st = .acquiring ∨ (s.base 0).st = .locked) ∧ (s.base 0).reload = false ∧ NoneDue s ∧
    o.natAbs ≤ 256 * 1000000000 :=
  ⟨3 * secF, 3, grandmaster, by and_intros <;> first | exact noneDue_of_nil rfl | decide +kernel⟩

theorem witness_PulsePerSecond_3 : ∃ (s : State),
    s.time.ppsLost = false ∧ (∃ n < 2, s.isGm n = true ∧ s.gmSrc n = 1) ∧ s.time.ppsAt ≠ some s.time.b2.val :=
  ⟨grandmaster, by decide +kernel⟩

theorem witness_PulsePerSecond_4 : ∃ (s : State),
    let b := s.base (s.timeCfg 20)
    let second := b.wholeSecond s.time.ppsOut
    s.timeCfg 20 ≠ 0xFF ∧ s.rowFirst (b.ticksTo second) false = false :=
  ⟨setPat ready sTime 0 (putFld (defStruct sTime) 20 1 0), by decide +kernel⟩

theorem witness_PulsePerSecond_5 : ∃ (s : State),
    s.time.ppsOut = true ∧ s.rowFirst (s.time.b2.ticksTo s.time.ppsEnd) false = false :=
  ⟨timed (fun t => { t with ppsOut := true, ppsEnd := 1000 }) ready, by decide +kernel⟩

theorem witness_FrequencyAndAsymmetry_1 : ∃ (p : Nat) (s : State),
    s.time.freq = .port p :=
  ⟨1, timed (fun t => { t with freq := .port 1 }) ready, by decide +kernel⟩

theorem witness_FrequencyAndAsymmetry_2 : ∃ (p : Nat) (s : State),
    s.time.freq = .holdover p :=
  ⟨0, timed (fun t => { t with freq := .holdover 0 }) ready, by decide +kernel⟩

theorem witness_FrequencyAndAsymmetry_3 : ∃ (st : Nat) (s : State),
    s.freqSource = some st ∧ (s.time.freqSrc ≠ st ∨ s.time.freq = .ownRef) :=
  ⟨0, { grandmaster with ring := { grandmaster.ring with order := [0, 1], linkUp := 3 }, time := { grandmaster.time with freqSrc := 1 } },
    by decide +kernel⟩

theorem witness_FrequencyAndAsymmetry_4 : ∃ (h : CmdHdr) (p : Bytes) (s : State),
    p.length = 4 ∧ fld p 0 1 < 2 ∧ fld p 1 1 < 3 ∧ 10 ≤ fld p 2 2 ∧ fld p 2 2 ≤ 300 ∧
    s.time.asym.any (·.ends.isSome) = false ∧ s.selBase.path = fld p 0 1 + 1 ∧ s.time.selected < 2 ∧
    Accepted 0x0404 h p s 0 = true :=
  ⟨hdr, [1, 0] ++ le 2 300, ready.updBase 0 fun b => { b with path := 2 }, by decide +kernel⟩

theorem witness_FrequencyAndAsymmetry_5 : ∃ (a : Asym) (e : Fns) (s : State),
    s.time.asym = some a ∧ a.ends = some e ∧ a.port < 2 ∧ a.phase < 2 ∧ s.rowFirst (s.time.b2.ticksTo e) false = false :=
  ⟨asymmetry 1, 1000, timed (fun t => { t with asym := some (asymmetry 1) }) ready, by decide +kernel⟩

theorem witness_FrequencyAndAsymmetry_6 : ∃ (a : Asym) (e : Fns) (s : State),
    s.time.asym = some a ∧ a.ends = some e ∧ a.port < 2 ∧ a.phase = 2 ∧ s.rowFirst (s.time.b2.ticksTo e) false = false :=
  ⟨asymmetry 2, 1000, timed (fun t => { t with asym := some (asymmetry 2) }) ready, by decide +kernel⟩

theorem witness_TimeEventsArmAndFire_1_1 : ∃ (h : CmdHdr) (p : Bytes) (s : State),
    let at_ := ofTime96 (fld p 16 12)
    let late := at_ ≤ (s.base (fld p 8 1)).val ∨
      ((fld p 9 1).testBit 0 = true ∧ at_ < s.instant + 2 * s.tRow + 10 * msF)
    p.length = 40 ∧ firstBad (teArmChecks s p) = none ∧ Accepted 0x0405 h p s 0 = true ∧ late :=
  ⟨hdr, teArmBytes 8, armed 8 0 (5 * secF), by decide +kernel⟩

theorem witness_TimeEventsArmAndFire_1_2 : ∃ (h : CmdHdr) (p : Bytes) (s : State),
    let at_ := ofTime96 (fld p 16 12)
    let late := at_ ≤ (s.base (fld p 8 1)).val ∨
      ((fld p 9 1).testBit 0 = true ∧ at_ < s.instant + 2 * s.tRow + 10 * msF)
    p.length = 40 ∧ firstBad (teArmChecks s p) = none ∧ Accepted 0x0405 h p s 0 = true ∧ (¬late) :=
  ⟨hdr, teArmBytes 8, ready, by decide +kernel⟩

theorem witness_TimeEventsArmAndFire_2 : ∃ (h : CmdHdr) (n : Byte) (s : State),
    n.toNat < 16 ∧ Accepted 0x0406 h [n] s 0 = true :=
  ⟨hdr, 15, armed 8 5 0, by decide +kernel⟩

theorem witness_TimeEventsArmAndFire_3_1 : ∃ (n : Nat) (s : State),
    let e := s.tev n
    let fired := { e with
      st := if e.crossed then 3 else 2, result := 0, fires := sat 65535 (e.fires + 1), row := s.rowAt (s.firedAt e)
      crossed := false }
    n < 16 ∧ s.timeRuns = true ∧ (∀ m ≠ n, (s.tev m).st ≠ 1) ∧ (s.tev n).st = 1 ∧ s.timeCome (s.tev n) = true ∧
    s.boundaryFirst (s.tev n) = false ∧ (s.tev n).period = 0 ∧
    (fld (s.tev n).cfg 1 1 = 8 ∨ fld (s.tev n).cfg 1 1 = 4 ∧ s.pm.st ≠ .watch) ∧
    (s.rowOpen = false ∨ s.flt.rows.row ≤ fired.row) :=
  ⟨15, armed 8 5 5, by and_intros <;> first | exact armed_alone _ _ _ | decide +kernel⟩

theorem witness_TimeEventsArmAndFire_3_2 : ∃ (n : Nat) (s : State),
    let e := s.tev n
    n < 16 ∧ s.timeRuns = true ∧ (∀ m ≠ n, (s.tev m).st ≠ 1) ∧ (s.tev n).st = 1 ∧ s.timeCome (s.tev n) = true ∧
    s.boundaryFirst (s.tev n) = false ∧ (s.tev n).period = 0 ∧
    (fld (s.tev n).cfg 1 1 = 8 ∨ fld (s.tev n).cfg 1 1 = 4 ∧ s.pm.st ≠ .watch) ∧ fld e.cfg 1 1 = 8 :=
  ⟨15, armed 8 5 5, by and_intros <;> first | exact armed_alone _ _ _ | decide +kernel⟩

theorem witness_TimeEventsArmAndFire_3_3 : ∃ (n : Nat) (s : State),
    let e := s.tev n
    n < 16 ∧ s.timeRuns = true ∧ (∀ m ≠ n, (s.tev m).st ≠ 1) ∧ (s.tev n).st = 1 ∧ s.timeCome (s.tev n) = true ∧
    s.boundaryFirst (s.tev n) = false ∧ (s.tev n).period = 0 ∧
    (fld (s.tev n).cfg 1 1 = 8 ∨ fld (s.tev n).cfg 1 1 = 4 ∧ s.pm.st ≠ .watch) ∧ fld e.cfg 1 1 = 4 :=
  ⟨15, armed 4 5 5, by and_intros <;> first | exact armed_alone _ _ _ | decide +kernel⟩

theorem witness_TimeEventsArmAndFire_4 : ∃ (n : Nat) (s : State),
    let b := s.base (s.tev n).base
    n < 16 ∧ s.timeRuns = true ∧ (∀ x ∈ s.time.events, x.2.st = 1 → x.2 = s.tev n) ∧ (∀ m ≠ n, (s.tev m).st ≠ 1) ∧
    (s.tev n).st = 1 ∧ s.pm.st ≠ .watch ∧ s.rowOpen = false ∧ s.ring.egress = [] ∧ (s.tev n).crossed = false ∧
    (s.tev n).period = 0 ∧ fld (s.tev n).cfg 1 1 = 8 ∧ (s.tev n).outMode = 0 ∧ b.val < (s.tev n).next ∧ b.slewRem = 0 ∧
    0 < b.incr :=
  ⟨15, armed 8 5 0, by and_intros <;> first | exact armed_alone _ _ _ | decide +kernel⟩

theorem witness_TimeEventsArmAndFire_5 : ∃ (n : Nat) (s : State),
    (s.tev n).pulse = true ∧ (s.tev n).pulseEnd ≤ s.time.b2.val :=
  ⟨0, ready.updTev 0 fun e => { e with pulse := true }, by decide +kernel⟩

theorem witness_TransmitStampQueue_1_1 : ∃ (byHost : Bool) (i : QItem) (r : List QItem) (s : State),
    byHost = s.servoExt ∧ (s.queue 6).items = i :: r ∧ i.complete = true ∧ (s.queue 6).stalled = [] ∧ byHost = true :=
  ⟨true, ⟨[1, 2], true, false⟩, [], setPat (txq [1, 2]) sTime 0 (putFld (defStruct sTime) 1 1 2), by decide +kernel⟩

theorem witness_TransmitStampQueue_2 : ∃ (port : Nat) (s : State),
    port < 2 ∧ s.portRole port ≠ 2 ∧ 64 ≤ (s.queue 6).level :=
  ⟨1, txq (List.replicate 64 0), by decide +kernel⟩

theorem witness_TransmitStampQueue_3 : ∃ (s : State),
    0 < s.time.txqDue :=
  ⟨timed (fun t => { t with txqDue := 1 }) ready, by decide +kernel⟩

/-! ### Witnesses: rows, capture, leases, power -/

/-- Sequencer 3 runs a program of one transition, from state 0 to state 7, and has row 999 to step. -/
def stepRec : RowRec := ⟨999, [], [], [], 0, RowEv.none⟩
def entry (action : Nat) : Bytes := le 8 (1 + 7 * 256 + action * 2 ^ 32)
def stepping (action : Nat) : State :=
  let s := setPat rowing sTsProg 3 (putFld (defStruct sTsProg) 48 8 (1 + 7 * 256 + action * 2 ^ 32))
  let s := { s with flt := { s.flt with recent := [stepRec] } }
  s.updSeq 3 fun q => { q with run := .running, late := 1 }

/-- A resident skein of sequencer 3. -/
def sk : Skein :=
  { id := 7, seq := 3, cls := 0, cfg := defStruct sSkc, trig := 900, first := 800, pre := 0, patEpoch := 0, base := 0,
    tflags := 0, timeSel := 0, timeOther := 0, wpMask := 0, isOpen := true, last := none, endCause := 0, moved := 871,
    reduced := 900, captured := 71, missing := 0, chunks := [], marks := [], marksLost := 0, trflags := 0, wftOnset := 0,
    reds := [], closed := false, flush := false, headed := true, lossEp := false, gone := false }
def holding (k : Skein) : State := { rowing with cap := { rowing.cap with skeins := [k], marks := [(7, ⟨7, true, false, false⟩)] } }

/-- The same with more in the log than MD holds; open or not. -/
def fullSk (o : Bool) : Skein :=
  { sk with isOpen := o, last := if o then none else some 950, chunks := [⟨1, 5, 866, List.replicate Config.mdBytes 0⟩] }

theorem fullSk_full (o : Bool) (x : Nat) : ¬(holding (fullSk o)).logFill + x ≤ (holding (fullSk o)).pat.logSize := by
  have h : (holding (fullSk o)).logFill = (fullSk o).frameBytes + (16 + pad8 (List.replicate Config.mdBytes (0 : Byte)).length) := by
    simp [State.logFill, holding, fullSk, Skein.imageBytes, Skein.chunkBytes, Chunk.bytes, sk]
  rw [h, List.length_replicate]
  unfold Pat.logSize pad8 ceilDiv
  omega

/-- PCIe holds the staging store; the lease has been declared faulty, or not yet. -/
def staging (f : List (LeaseRes × Nat)) : State :=
  { ready with mbx := { ready.mbx with staged := some [], stageOwner := 0x41 }, leases := { ready.leases with faulty := f } }
def updating (f : List (LeaseRes × Nat)) : State :=
  { ready with sec := { ready.sec with updOwner := 0x41 }, leases := { ready.leases with faulty := f } }

def powered (f : Pm → Pm) (s : State) : State := { s with pm := f s.pm }
def inPower (st : PwrState) : State := powered (fun p => { p with st := st }) rowing

/-- WATCH with cluster 31 a sentinel and a comparator of channel 255 on the level 0. -/
def watching : State :=
  let s := setPat (setPat (inPower .watch) sPwr 0 (putFld (defStruct sPwr) 0 4 (2 ^ 31))) sThr 255
    (putFld (defStruct sThr) 8 1 1)
  { s with flt := { s.flt with corr := [(8 * 286 + 7, ⟨0, 2 ^ 30, 0, none⟩)] }
           pm := { s.pm with sentInit := 2 ^ 255 } }

theorem witness_BoundaryProducesOneRow_1 : ∃ (s : State),
    s.rowOpen = true ∧ s.mbx.pending = none ∧ s.time.switch = none ∧ Undisturbed s :=
  ⟨rowing, by and_intros <;> first | (unfold Undisturbed; decide +kernel) | decide +kernel⟩

theorem witness_StreamStartsOnItsGrid_1_1 : ∃ (s : State),
    s.flt.rows.phase = .waitStart ∧ Undisturbed s ∧ s.flt.rows.startAt = none :=
  ⟨rowsIn .waitStart rowing, by and_intros <;> first | (unfold Undisturbed; decide +kernel) | decide +kernel⟩

theorem witness_SequencerTakesOneTransition_1_1 : ∃ (n : Nat) (r : RowRec) (e : Bytes) (s : State),
    let a := fld e 4 4
    n < 4 ∧ s.stepRow = some r ∧ (s.seq n).run = .running ∧ (∀ m < 4, m ≠ n → (s.seq m).run ≠ .running) ∧
    (s.seq n).disarmAt = none ∧ (s.seq n).hold = none ∧ (s.seq n).pendingOpen = none ∧
    (∀ k ∈ s.cap.skeins, k.isOpen = true → r.row < (endOf k none).1) ∧ pick s n r = some e ∧ a % 4 = 0 ∧
    a.testBit 17 = false ∧ a.testBit 18 = false :=
  ⟨3, stepRec, entry 0xE060, stepping 0xE060, by decide +kernel⟩

theorem witness_SequencerTakesOneTransition_2 : ∃ (n cls : Nat) (r : RowRec) (e : Bytes) (s : State),
    cls < 4 ∧ n < 4 ∧ s.stepRow = some r ∧ (s.seq n).run = .running ∧ (∀ m < 4, m ≠ n → (s.seq m).run ≠ .running) ∧
    (s.seq n).disarmAt = none ∧ (s.seq n).hold = none ∧ (s.seq n).pendingOpen = none ∧
    (∀ k ∈ s.cap.skeins, k.isOpen = true → r.row < (endOf k none).1) ∧ pick s n r = some e ∧ fld e 4 4 = 1 + 4 * cls ∧
    (s.openOf n).length < maxOpen (s.pat.prog n) ∧ s.cap.skeins.length < 65536 ∧ s.logFill + 13256 ≤ s.pat.logSize :=
  ⟨3, 3, stepRec, entry 13, stepping 13, by and_intros <;> first | exact logSize_ge _ _ (by decide +kernel) | decide +kernel⟩

theorem witness_SequencerTakesOneTransition_3 : ∃ (n : Nat) (r : RowRec) (e : Bytes) (s : State),
    n < 4 ∧ s.stepRow = some r ∧ (s.seq n).run = .running ∧ (∀ m < 4, m ≠ n → (s.seq m).run ≠ .running) ∧
    (s.seq n).disarmAt = none ∧ (s.seq n).hold = none ∧ (s.seq n).pendingOpen = none ∧
    (∀ k ∈ s.cap.skeins, k.isOpen = true → r.row < (endOf k none).1) ∧ pick s n r = some e ∧ fld e 4 4 = 3 ∧
    (s.cap.skeins.map (·.id)).Nodup :=
  ⟨3, stepRec, entry 3, stepping 3, by decide +kernel⟩

theorem witness_ArmingActsAtNextRow_1 : ∃ (h : CmdHdr) (m : Byte) (s : State),
    m.toNat < 16 ∧ Accepted 0x0500 h [m] s 0 = true :=
  ⟨hdr, 15, rowing, by decide +kernel⟩

theorem witness_ArmingActsAtNextRow_2 : ∃ (h : CmdHdr) (m : Byte) (s : State),
    m.toNat < 16 ∧ Accepted 0x0501 h [m] s 0 = true :=
  ⟨hdr, 8, rowing, by decide +kernel⟩

theorem witness_LogWriterMovesRows_1_1 : ∃ (k : Skein) (s : State),
    let cs := appendRow k k.moved (rowOfSkein s k k.moved)
    let head := if k.headed then 0 else k.frameBytes
    let fits := s.logFill + ((cs.map Chunk.bytes).sum - k.chunkBytes + head) ≤ s.pat.logSize
    s.cap.skeins = [k] ∧ k.closed = false ∧ k.seq < 4 ∧ k.compressed = false ∧ s.writeEnd k = k.moved + 1 ∧
    s.bufferFrom k ≤ k.moved ∧ fits :=
  ⟨sk, holding sk, by and_intros <;> first | exact logSize_ge _ _ (by decide +kernel) | decide +kernel⟩

theorem witness_LogWriterMovesRows_1_2 : ∃ (k : Skein) (s : State),
    let cs := appendRow k k.moved (rowOfSkein s k k.moved)
    let head := if k.headed then 0 else k.frameBytes
    let fits := s.logFill + ((cs.map Chunk.bytes).sum - k.chunkBytes + head) ≤ s.pat.logSize
    s.cap.skeins = [k] ∧ k.closed = false ∧ k.seq < 4 ∧ k.compressed = false ∧ s.writeEnd k = k.moved + 1 ∧
    s.bufferFrom k ≤ k.moved ∧ (¬fits) :=
  ⟨fullSk true, holding (fullSk true), rfl, rfl, by decide, rfl, rfl, by decide, fullSk_full _ _⟩

theorem witness_LogWriterMovesRows_1_3 : ∃ (k : Skein) (s : State),
    let cs := appendRow k k.moved (rowOfSkein s k k.moved)
    let head := if k.headed then 0 else k.frameBytes
    let fits := s.logFill + ((cs.map Chunk.bytes).sum - k.chunkBytes + head) ≤ s.pat.logSize
    s.cap.skeins = [k] ∧ k.closed = false ∧ k.seq < 4 ∧ k.compressed = false ∧ s.writeEnd k = k.moved + 1 ∧
    s.bufferFrom k ≤ k.moved ∧ (¬fits) ∧ k.isOpen = false :=
  ⟨fullSk false, holding (fullSk false), rfl, rfl, by decide, rfl, rfl, by decide, fullSk_full _ _, rfl⟩

theorem witness_LogWriterMovesRows_2 : ∃ (id : Nat) (k : Skein) (s : State),
    s.skein? id = some k ∧ Skein.trailerDue s k = true ∧ k.headed = true :=
  ⟨7, { sk with last := some 500, moved := 501, isOpen := false }, holding { sk with last := some 500, moved := 501, isOpen := false },
    by decide +kernel⟩

theorem witness_MarksAndReadout_1 : ∃ (h : CmdHdr) (p : Bytes) (k : Skein) (s : State),
    p.length = 8 ∧ fld p 0 1 < 8 ∧ fld p 1 1 < 2 ∧ allZero (slice p 2 2) = true ∧
    ((if fld p 4 4 = 0 then s.cap.skeins.getLast? else s.skein? (fld p 4 4)) = some k) ∧ Accepted 0x0502 h p s 4 = true :=
  ⟨hdr, [7, 1, 0, 0] ++ le 4 0, sk, holding sk, by decide +kernel⟩

theorem witness_MarksAndReadout_2 : ∃ (h : CmdHdr) (m : Byte) (s : State),
    m.toNat < 8 ∧ Accepted 0x0503 h [m] s 0 = true :=
  ⟨hdr, 7, holding sk, by decide +kernel⟩

theorem witness_MarksAndReadout_3 : ∃ (h : CmdHdr) (m : Byte) (s : State),
    m.toNat < 8 ∧ (s.capMark m.toNat).valid = true ∧ Accepted 0x0504 h [m] s 4 = true :=
  ⟨hdr, 7, holding sk, by decide +kernel⟩

theorem witness_MarksAndReadout_4 : ∃ (h : CmdHdr) (k : Skein) (s : State),
    nextAfter s.cap.skeins (s.cursor h.via) = some k ∧ k.closed = true ∧ Accepted 0x0505 h [] s 8 = true :=
  ⟨hdr, { sk with closed := true }, holding { sk with closed := true }, by decide +kernel⟩

theorem witness_MarksAndReadout_5 : ∃ (h : CmdHdr) (s : State),
    (∀ k, nextAfter s.cap.skeins (s.cursor h.via) = some k → k.closed = false) ∧ Accepted 0x0505 h [] s 8 = true :=
  ⟨hdr, holding sk, by decide +kernel⟩

theorem witness_MarksAndReadout_6 : ∃ (h : CmdHdr) (p : Bytes) (k : Skein) (s : State),
    p.length = 24 ∧ allZero (slice p 4 4) = true ∧ allZero (slice p 21 3) = true ∧ fld p 20 1 = 0 ∧ 1 ≤ fld p 16 4 ∧
    fld p 16 4 ≤ 2032 ∧ s.skein? (fld p 0 4) = some k ∧ k.closed = true ∧ Accepted 0x0506 h p s (fld p 16 4) = true :=
  ⟨hdr, le 4 7 ++ zeros 4 ++ le 8 0 ++ le 4 2032 ++ zeros 4, { sk with closed := true }, holding { sk with closed := true },
    by decide +kernel⟩

theorem witness_LeasesExpireAndAreRevoked_1 : ∃ (r : LeaseRes) (s : State),
    s.leaseExpires r = true ∧ s.isFaulty r = false :=
  ⟨.staging, staging [], by decide +kernel⟩

theorem witness_LeasesExpireAndAreRevoked_2 : ∃ (r : LeaseRes) (s : State),
    s.leaseExpires r = false :=
  ⟨.dma 15, ready, by decide +kernel⟩

theorem witness_LeasesExpireAndAreRevoked_3_1 : ∃ (r : LeaseRes) (e : LeaseRes × Nat) (s : State),
    s.leases.faulty.find? (·.1 == r) = some e ∧ s.leaseOwner r ≠ 0 ∧ barsHolder r e.2 = true :=
  ⟨.staging, (.staging, 0), staging [(.staging, 0)], by decide +kernel⟩

theorem witness_LeasesExpireAndAreRevoked_3_2 : ∃ (r : LeaseRes) (e : LeaseRes × Nat) (s : State),
    s.leases.faulty.find? (·.1 == r) = some e ∧ s.leaseOwner r ≠ 0 ∧ r = .staging :=
  ⟨.staging, (.staging, 0), staging [(.staging, 0)], by decide +kernel⟩

theorem witness_LeasesExpireAndAreRevoked_3_3 : ∃ (r : LeaseRes) (e : LeaseRes × Nat) (s : State),
    s.leases.faulty.find? (·.1 == r) = some e ∧ s.leaseOwner r ≠ 0 ∧ r = .fwUpdate :=
  ⟨.fwUpdate, (.fwUpdate, 0), updating [(.fwUpdate, 0)], by decide +kernel⟩

theorem witness_LeasesExpireAndAreRevoked_4 : ∃ (r : LeaseRes) (s : State),
    s.leaseOwner r = 0 :=
  ⟨.skein 3, ready, by decide +kernel⟩

theorem witness_LeasesExpireAndAreRevoked_5 : ∃ (r : LeaseRes) (s : State),
    s.isFaulty r = false :=
  ⟨.handover 31, ready, by decide +kernel⟩

theorem witness_LeasesExpireAndAreRevoked_6_1 : ∃ (r : LeaseRes) (s : State),
    s.leaseOwner r ≠ 0 ∧ r = .staging :=
  ⟨.staging, staging [(.staging, 0)], by decide +kernel⟩

theorem witness_LeasesExpireAndAreRevoked_6_2 : ∃ (r : LeaseRes) (s : State),
    s.leaseOwner r ≠ 0 ∧ r = .fwUpdate :=
  ⟨.fwUpdate, updating [], by decide +kernel⟩

theorem witness_LeasesExpireAndAreRevoked_7 : ∃ (r : LeaseRes) (s : State),
    s.leaseOwner r = 0 :=
  ⟨.kilzar true, ready, by decide +kernel⟩

theorem witness_PowerFailInput_1 : ∃ (n : Nat) (s : State),
    s.pm.st ≠ .cocoon ∧ s.pm.inReset = false ∧ s.pm.pfw = false ∧ s.pm.pfwCount + n < 4 :=
  ⟨3, rowing, by decide +kernel⟩

theorem witness_PowerFailInput_2 : ∃ (n : Nat) (s : State),
    s.pm.st ≠ .cocoon ∧ s.pm.inReset = false ∧ s.pm.pfw = true ∧ s.pm.pfwCount + n < 4 :=
  ⟨3, powered (fun p => { p with pfw := true, emergency := true }) ready, by decide +kernel⟩

theorem witness_PowerFailInput_3 : ∃ (n : Nat) (s : State),
    s.pm.st ≠ .cocoon ∧ s.pm.inReset = false ∧ s.pm.pfw = false ∧ s.pm.emergency = false ∧ 4 ≤ s.pm.pfwCount + n ∧
    s.rowOpen = true :=
  ⟨4, rowing, by decide +kernel⟩

theorem witness_PowerFailInput_4 : ∃ (n : Nat) (s : State),
    s.pm.st ≠ .cocoon ∧ s.pm.inReset = false ∧ s.pm.pfw = false ∧ s.pm.emergency = false ∧ 4 ≤ s.pm.pfwCount + n ∧
    s.rowOpen = false ∧ NoneDue s :=
  ⟨1, powered (fun p => { p with pfwCount := 3 }) ready, by and_intros <;> first | exact noneDue_of_nil rfl | decide +kernel⟩

theorem witness_PowerFailInput_5 : ∃ (n : Nat) (s : State),
    s.pm.st ≠ .cocoon ∧ s.pm.inReset = false ∧ s.pm.pfw = true ∧ 4 ≤ s.pm.pfwCount + n :=
  ⟨4, powered (fun p => { p with pfw := true, emergency := true }) ready, by decide +kernel⟩

theorem witness_PowerFailInput_6 : ∃ (s : State),
    s.pm.pfwWait = true ∧ s.pm.railsOk = true :=
  ⟨powered (fun p => { p with pfwWait := true }) ready, by decide +kernel⟩

theorem witness_ResetsKeepWhatTheyMust_1 : ∃ (s : State),
    s.pm.st ≠ .cocoon :=
  ⟨rowing, by decide +kernel⟩

theorem witness_ResetsKeepWhatTheyMust_2 : ∃ (s : State),
    s.pm.st ≠ .cocoon ∧ s.pm.inReset = true ∧ s.pm.held = false :=
  ⟨powered (fun p => { p with inReset := true }) ready, by decide +kernel⟩

theorem witness_ResetsKeepWhatTheyMust_3 : ∃ (h : CmdHdr) (s : State),
    Accepted 0x0020 h [] s 0 = true :=
  ⟨hdr, rowing, by decide +kernel⟩

theorem witness_CastOnOpensMailbox_1_1 : ∃ (n : Nat) (a b : Bool) (s : State),
    s.pm.castOn = false ∧ s.pm.inReset = false ∧ s.pm.st = .active ∧ s.sec.header.isSome = true ∧ s.slotToRun = some n ∧
    (a || b) = true :=
  ⟨0, true, true, State.reset, by decide +kernel⟩

theorem witness_CastOnOpensMailbox_1_2 : ∃ (n : Nat) (a b : Bool) (s : State),
    s.pm.castOn = false ∧ s.pm.inReset = false ∧ s.pm.st = .active ∧ s.sec.header.isSome = true ∧ s.slotToRun = some n ∧
    (a && b) = true :=
  ⟨0, true, true, State.reset, by decide +kernel⟩

theorem witness_CastOnOpensMailbox_2 : ∃ (ok : Bool) (s : State),
    s.pm.castOn = false ∧ s.pm.inReset = false ∧ s.pm.st = .active ∧
    (ok = false ∨ s.sec.header = none ∨ s.slotToRun = none) :=
  ⟨false, State.reset, by decide +kernel⟩

theorem witness_FieldDiesPowerUp_1 : ∃ (d : Die) (s : State),
    s.fieldOn = true ∧ s.dieCan d = true ∧ (s.die d).powered = false :=
  ⟨1, ready, by decide +kernel⟩

theorem witness_FieldDiesPowerUp_2_1 : ∃ (d : Die) (s : State),
    s.fieldOn = true ∧ (s.die d).starting = true ∧ (s.die d).trimmed = true :=
  ⟨1, ready.updDie 1 fun d => { d with starting := true, trimmed := true }, by decide +kernel⟩

theorem witness_FieldDiesPowerUp_3 : ∃ (d : Die) (lane : Nat) (s : State),
    (s.die d).powered = true ∧ (s.die d).lanesLost.contains lane = false ∧ lane < 8 :=
  ⟨1, 7, rowing, by decide +kernel⟩

theorem witness_FieldDiesPowerUp_4 : ∃ (d : Die) (lane : Nat) (s : State),
    (s.die d).powered = true ∧ (s.die d).lanesLost.contains lane = false ∧ 8 ≤ lane :=
  ⟨1, 8, rowing, by decide +kernel⟩

theorem witness_FieldDiesPowerUp_5 : ∃ (d : Die) (lane : Nat) (s : State),
    (s.die d).lanesLost.contains lane = true :=
  ⟨0, 0, rowing.updDie 0 fun d => { d with lanesLost := [0] }, by decide +kernel⟩

theorem witness_PowerStatesAreEntered_1 : ∃ (h : CmdHdr) (p : Bytes) (s : State),
    p.length = 8 ∧ fld p 0 1 = 2 ∧ allZero (slice p 1 1) = true ∧ s.powerBusy = false ∧ s.pm.st = .active ∧
    Accepted 0x0700 h p s 0 = true :=
  ⟨hdr, [2, 0] ++ le 6 0, rowing, by decide +kernel⟩

theorem witness_PowerStatesAreEntered_2 : ∃ (h : CmdHdr) (p : Bytes) (s : State),
    p.length = 8 ∧ fld p 0 1 = 3 ∧ allZero (slice p 1 1) = true ∧ s.powerBusy = false ∧
    (s.pm.st = .active ∨ s.pm.st = .doze) ∧ s.mbx.wait = none ∧ Accepted 0x0700 h p s 0 = true :=
  ⟨hdr, [3, 0] ++ le 6 (2 ^ 48 - 1), rowing, by decide +kernel⟩

theorem witness_PowerStatesAreEntered_3 : ∃ (h : CmdHdr) (p : Bytes) (s : State),
    p.length = 8 ∧ fld p 0 1 = 1 ∧ allZero (slice p 1 1) = true ∧ s.powerBusy = false ∧
    (s.pm.st = .active ∨ s.pm.st = .doze) ∧ s.mbx.wait = none ∧ s.noWayBack = false ∧ Accepted 0x0700 h p s 0 = true :=
  ⟨hdr, [1, 0] ++ le 6 0, rowing, by decide +kernel⟩

theorem witness_PowerStatesAreEntered_4 : ∃ (h : CmdHdr) (p : Bytes) (s : State),
    p.length = 8 ∧ fld p 0 1 = 0 ∧ allZero (slice p 1 1) = true ∧ s.powerBusy = false ∧ s.pm.st = .doze ∧
    Accepted 0x0700 h p s 0 = true :=
  ⟨hdr, [0, 0] ++ le 6 0, inPower .doze, by decide +kernel⟩

theorem witness_PowerStatesAreEntered_5 : ∃ (h : CmdHdr) (b : Byte) (s : State),
    b.toNat < 3 ∧ s.powerBusy = false ∧ s.mbx.wait = none ∧ Accepted 0x0701 h [b, 0, 0, 0] s 0 = true :=
  ⟨hdr, 2, rowing, by decide +kernel⟩

theorem witness_PowerStatesAreEntered_6_1 : ∃ (tg : BindTarget) (s : State),
    s.pm.binding = some tg ∧ s.drained = true ∧ tg = .watch :=
  ⟨.watch, powered (fun p => { p with binding := some .watch }) rowing, by decide +kernel⟩

theorem witness_PowerStatesAreEntered_6_2 : ∃ (tg : BindTarget) (s : State),
    s.pm.binding = some tg ∧ s.drained = true ∧ tg = .cocoon :=
  ⟨.cocoon, powered (fun p => { p with binding := some .cocoon }) rowing, by decide +kernel⟩

theorem witness_PowerStatesAreEntered_6_3 : ∃ (tg : BindTarget) (s : State),
    s.pm.binding = some tg ∧ s.drained = true ∧ tg = .holdReset :=
  ⟨.holdReset, powered (fun p => { p with binding := some .holdReset }) rowing, by decide +kernel⟩

theorem witness_PowerStatesAreEntered_6_4 : ∃ (tg : BindTarget) (s : State),
    s.pm.binding = some tg ∧ s.drained = true ∧ tg = .castOn :=
  ⟨.castOn, powered (fun p => { p with binding := some .castOn }) rowing, by decide +kernel⟩

theorem witness_PowerStatesAreEntered_7 : ∃ (s : State),
    s.pm.toDoze = true ∧ s.drained = true :=
  ⟨powered (fun p => { p with toDoze := true }) rowing, by decide +kernel⟩

theorem witness_PowerStatesAreEntered_8_1 : ∃ (s : State),
    (s.pm.binding = none ∨ s.drained = false) :=
  ⟨rowing, by decide +kernel⟩

theorem witness_PowerStatesAreEntered_8_2 : ∃ (s : State),
    (s.pm.toDoze = false ∨ s.drained = false) :=
  ⟨rowing, by decide +kernel⟩

theorem witness_WakeSourcesBringActive_1_1 : ∃ (src : WakeSrc) (c n : Nat) (s : State),
    s.wakeCode src = some (c, n) ∧ s.pm.binding = none ∧ s.pm.emergency = false ∧ s.pm.st ≠ .active ∧ s.pm.st = .cocoon :=
  ⟨.wakeIn, 1, 18, inPower .cocoon, by decide +kernel⟩

theorem witness_WakeSourcesBringActive_1_2 : ∃ (src : WakeSrc) (c n : Nat) (s : State),
    s.wakeCode src = some (c, n) ∧ s.pm.binding = none ∧ s.pm.emergency = false ∧ s.pm.st ≠ .active ∧ s.pm.st = .watch :=
  ⟨.sealSw, 6, 0, watching, by decide +kernel⟩

theorem witness_WakeSourcesBringActive_2 : ∃ (src : WakeSrc) (s : State),
    (s.wakeCode src = none ∨ s.pm.st = .active ∧ s.wokeFrom = none ∨ s.pm.binding ≠ none ∨ s.pm.emergency = true) :=
  ⟨.mgWake, rowing, by decide +kernel⟩

theorem witness_WakeSourcesBringActive_3 : ∃ (src : WakeSrc) (c n : Nat) (s : State),
    s.wakeCode src = some (c, n) ∧ s.pm.binding = none ∧ s.pm.emergency = false ∧ s.pm.st = .active ∧
    s.wokeFrom.isSome = true :=
  ⟨.wakeIn, 1, 18, powered (fun p => { p with woke := some (rowing.time.b2.val, .cocoon), lastWake := 7 }) rowing,
    by decide +kernel⟩

theorem witness_WakeSourcesBringActive_4 : ∃ (s : State),
    (s.pm.st = .watch ∨ s.pm.st = .doze) ∧ s.wokeFrom = none ∧ s.wakeSrc 4 = true ∧ s.pm.binding = none ∧
    s.pm.emergency = false :=
  ⟨watching, by decide +kernel⟩

theorem witness_WakeSourcesBringActive_5 : ∃ (s : State),
    s.pm.st = .cocoon ∧ s.wokeFrom = none ∧ s.pm.rtcAlarm ≠ 0 ∧ s.pm.binding = none ∧ s.pm.emergency = false :=
  ⟨powered (fun p => { p with rtcAlarm := 5 }) (inPower .cocoon), by decide +kernel⟩

theorem witness_WakeSourcesBringActive_6 : ∃ (ch : Nat) (raw : Int) (s : State),
    s.pm.st = .watch ∧ s.pm.binding = none ∧ s.pm.emergency = false ∧ s.wakeSrc 3 = true ∧ (sentinelOne s ch raw).2 = true :=
  ⟨255, 1000, watching, by decide +kernel⟩

theorem witness_WakeSourcesBringActive_7 : ∃ (ch : Nat) (raw : Int) (s : State),
    s.pm.st = .watch ∧ s.pm.binding = none ∧ (sentinelOne s ch raw).2 = false :=
  ⟨255, -1000, watching, by decide +kernel⟩

theorem witness_SensorsActOnAlarms_1 : ∃ (v : Int) (s : State),
    s.ldOn = true ∧ v < 115 * 128 :=
  ⟨80 * 128, ready, by decide +kernel⟩

theorem witness_SensorsActOnAlarms_2 : ∃ (v : Int) (s : State),
    let sensor := fun (s : State) (i : Nat) => Tbl.get Sensor.init s.pm.sensors i
    s.ldOn = true ∧ 130 * 128 ≤ v ∧ (sensor s 0).st ≠ 2 :=
  ⟨130 * 128, rowing, by decide +kernel⟩

theorem witness_SensorsActOnAlarms_3 : ∃ (d : Die) (s : State),
    let sensor := fun (s : State) (i : Nat) => Tbl.get Sensor.init s.pm.sensors i
    (s.die d).alarmed = true ∧ (∀ i ∈ dieSensors d, (sensor s i).value < 110 * 128) :=
  ⟨1, ready.updDie 1 fun d => { d with alarmed := true }, by decide +kernel⟩

theorem witness_ManagementServices_1 : ∃ (s : State),
    s.ldOn = true :=
  ⟨ready, by decide +kernel⟩

theorem witness_ManagementServices_2 : ∃ (s : State),
    s.ldOn = true :=
  ⟨{ rowing with flt := { rowing.flt with recent := [⟨990, [], [], [], 0, RowEv.none⟩] } }, by decide +kernel⟩

theorem witness_ManagementServices_3 : ∃ (b r i : Nat) (s : State),
    s.pm.st ≠ .cocoon ∧ s.pm.inReset = false ∧ i < regCount b r ∧ (s.pm.st ≠ .watch ∨ watchReg b r = true) :=
  ⟨1, 0, 31, ready, by decide +kernel⟩

theorem witness_ManagementServices_4 : ∃ (b r i : Nat) (s : State),
    s.pm.st = .watch ∧ s.pm.inReset = false ∧ i < regCount b r ∧ watchReg b r = false :=
  ⟨1, 0, 31, inPower .watch, by decide +kernel⟩

theorem witness_ManagementServices_5_1 : ∃ (mgmt : Bool) (s : State),
    let recent := fun s : State => s.pm.watchdogs.filter fun w => s.time.b2.val < w + 10 * secF
    let tag := if mgmt then 2 else 1
    s.ldOn = true ∧ (recent s).length < 2 ∧ s.serialHolder = tag :=
  ⟨true, ready.setQueue 4 { Queue.init 0 with items := [⟨List.replicate 16 0, true, false⟩] }, by decide +kernel⟩

theorem witness_ManagementServices_6 : ∃ (s : State),
    let recent := fun s : State => s.pm.watchdogs.filter fun w => s.time.b2.val < w + 10 * secF
    s.ldOn = true ∧ 2 ≤ (recent s).length :=
  ⟨powered (fun p => { p with watchdogs := [0, 0] }) ready, by decide +kernel⟩

theorem witness_ManagementServices_7_1 : ∃ (s : State),
    s.ldOn = true ∧ s.pm.emergency = false ∧ s.pm.noMem = false ∧ s.serialHolder ≠ 1 ∧
    (∀ i ∈ (s.queue 7).items, i.complete = true) ∧ s.pm.hlog.length ≤ hlogCap :=
  ⟨ready.setQueue 7 { Queue.init 0 with items := [⟨List.replicate 8 0, true, false⟩] }, by decide +kernel⟩

theorem witness_ManagementServices_8 : ∃ (h : CmdHdr) (p : Bytes) (s : State),
    p.length = 8 ∧ 1 ≤ fld p 4 2 ∧ fld p 4 2 ≤ 63 ∧ allZero (slice p 6 2) = true ∧
    Accepted 0x0702 h p s (16 + 32 * fld p 4 2) = true :=
  ⟨hdr, le 4 0 ++ le 2 63 ++ [0, 0], ready, by decide +kernel⟩

/-! ### Witnesses: interrupts, queues, Kilzar -/

def queued (q : Nat) (f : Queue → Queue) : State := ready.setQueue q (f (ready.queue q))
def interrupted (f : Ic → Ic) : State := { ready with ic := f ready.ic }

def kzJob (op flags : Byte) (shift : Nat) : Bytes :=
  [op, flags, 0, 0] ++ le 2 (if op = 0 ∧ flags.getLsbD 0 then 1 else 0) ++ le 2 shift ++ le 4 64 ++ zeros 20
/-- A job of holder 2 is running at an engine; others wait as given. -/
def kzEnded : KzEnd := ⟨0, 2, true, 0, 0, 0, 0, [7]⟩
def kzBusy (d : Bool) (w : List KzReq) : State :=
  if d then { ready with kzD := { ready.kzD with job := some kzEnded, runner := 2, waiting := w, stat := { ready.kzD.stat with busy := true } } }
  else { ready with kzC := { ready.kzC with job := some kzEnded, runner := 2, waiting := w, stat := { ready.kzC.stat with busy := true } } }

theorem witness_CoresClaimAndComplete_1_1 : ∃ (m : Bool) (s : State),
    s.ic.active m ≠ 255 :=
  ⟨true, interrupted fun i => { i with activeM := 191 }, by decide +kernel⟩

theorem witness_CoresClaimAndComplete_1_2 : ∃ (m : Bool) (s : State),
    let n := s.ic.present m
    n = 255 :=
  ⟨false, ready, by decide +kernel⟩

theorem witness_CoresClaimAndComplete_1_3 : ∃ (m : Bool) (s : State),
    let n := s.ic.present m
    n ≠ 255 :=
  ⟨false, interrupted fun i => { i with pend := 2 ^ 176, cmask := 2 ^ 192 - 1, mmask := 2 ^ 192 - 1 }, by decide +kernel⟩

theorem witness_CoresClaimAndComplete_2 : ∃ (m : Bool) (n : Nat) (s : State),
    n ≠ 255 ∧ s.ic.active m = n :=
  ⟨true, 191, interrupted fun i => { i with activeM := 191 }, by decide +kernel⟩

theorem witness_CoresClaimAndComplete_3 : ∃ (m : Bool) (n : Nat) (s : State),
    s.ic.active m ≠ n :=
  ⟨false, 0, ready, by decide +kernel⟩

theorem witness_CoresClaimAndComplete_4 : ∃ (n : Nat),
    n < 3 :=
  ⟨2, by decide +kernel⟩

theorem witness_CausesReachTheController_2 : ∃ (n : Nat),
    srcUsed n = true ∧ srcLevel n = false ∧ (¬(128 ≤ n ∧ n ≤ 143)) :=
  ⟨168, by decide +kernel⟩

theorem witness_CausesReachTheController_3 : ∃ (n : Nat),
    128 ≤ n ∧ n ≤ 143 :=
  ⟨143, by decide +kernel⟩

theorem witness_CausesReachTheController_4 : ∃ (n : Nat),
    srcLevel n = true :=
  ⟨152, by decide +kernel⟩

theorem witness_CausesReachTheController_5 : ∃ (n : Nat),
    srcUsed n = false :=
  ⟨191, by decide +kernel⟩

theorem witness_CausesReachTheController_6 : ∃ (i n : Nat) (b : Bool) (s : State),
    (s.pm.st ≠ .cocoon ∨ i = 18) ∧ s.pm.inReset = false ∧
    (s.ic.diLevel.testBit i = b ∨ Tbl.get 0 s.ic.diCount i + n < s.diN i) :=
  ⟨18, 1, true, ready, by decide +kernel⟩

theorem witness_CausesReachTheController_7_1 : ∃ (i n : Nat) (b : Bool) (s : State),
    i < 19 ∧ s.pm.st = .active ∧ s.pm.inReset = false ∧ s.ic.diLevel.testBit i ≠ b ∧
    s.diN i ≤ Tbl.get 0 s.ic.diCount i + n ∧ s.wokeFrom = none :=
  ⟨18, 100, true, rowing, by decide +kernel⟩

theorem witness_CausesReachTheController_7_2 : ∃ (i n : Nat) (b : Bool) (s : State),
    let early := s.rowOpen && s.dated i ≤ s.flt.rows.last && s.stepRow.isSome
    i < 19 ∧ s.pm.st = .active ∧ s.pm.inReset = false ∧ s.ic.diLevel.testBit i ≠ b ∧
    s.diN i ≤ Tbl.get 0 s.ic.diCount i + n ∧ early = false :=
  ⟨18, 100, true, rowing, by decide +kernel⟩

theorem witness_CausesReachTheController_7_3 : ∃ (i n : Nat) (b : Bool) (s : State),
    i < 19 ∧ s.pm.st = .active ∧ s.pm.inReset = false ∧ s.ic.diLevel.testBit i ≠ b ∧
    s.diN i ≤ Tbl.get 0 s.ic.diCount i + n ∧ i < 16 :=
  ⟨15, 400, true, rowing, by decide +kernel⟩

theorem witness_CausesReachTheController_7_4 : ∃ (i n : Nat) (b : Bool) (s : State),
    let hit := edgeSel (s.diSetting i).2 b
    i < 19 ∧ s.pm.st = .active ∧ s.pm.inReset = false ∧ s.ic.diLevel.testBit i ≠ b ∧
    s.diN i ≤ Tbl.get 0 s.ic.diCount i + n ∧ i = 18 ∧ hit = true :=
  ⟨18, 100, true, rowing, by decide +kernel⟩

theorem witness_CausesReachTheController_7_5 : ∃ (i n : Nat) (b : Bool) (s : State),
    let hit := edgeSel (s.diSetting i).2 b
    i < 19 ∧ s.pm.st = .active ∧ s.pm.inReset = false ∧ s.ic.diLevel.testBit i ≠ b ∧
    s.diN i ≤ Tbl.get 0 s.ic.diCount i + n ∧ hit = false :=
  ⟨18, 100, false, { rowing with ic := { rowing.ic with diLevel := 2 ^ 18 } }, by decide +kernel⟩

theorem witness_QueuesHoldItems_1 : ∃ (q : Nat) (ws : List (BitVec 32)) (s : State),
    q < 9 ∧ qStall q = false ∧ ws ≠ [] ∧ (s.queue q).discard = false ∧ (∀ i ∈ (s.queue q).items, i.complete = true) ∧
    (s.queue q).level + ws.length ≤ qDepth q :=
  ⟨7, List.replicate 8 1, ready, by decide +kernel⟩

theorem witness_QueuesHoldItems_2 : ∃ (q : Nat) (ws : List (BitVec 32)) (s : State),
    q < 9 ∧ ws ≠ [] ∧ (s.queue q).discard = true :=
  ⟨3, [1], queued 3 fun x => { x with discard := true }, by decide +kernel⟩

theorem witness_QueuesHoldItems_3 : ∃ (ws : List (BitVec 32)) (s : State),
    (s.queue 4).discard = false ∧ 512 < (s.queue 4).level + ws.length ∧ ws ≠ [] :=
  ⟨List.replicate 16 0, queued 4 fun x => { x with items := [⟨List.replicate 504 0, true, false⟩, ⟨[1], false, false⟩] },
    by decide +kernel⟩

theorem witness_QueuesHoldItems_4_1 : ∃ (q : Nat) (i : QItem) (r : List QItem) (s : State),
    q < 9 ∧ (s.queue q).items = i :: r ∧ (s.queue q).stalled = [] ∧ q ≠ 8 :=
  ⟨1, ⟨[1], true, false⟩, [], queued 1 fun x => { x with items := [⟨[1], true, false⟩] }, by decide +kernel⟩

theorem witness_QueuesHoldItems_4_2 : ∃ (q : Nat) (i : QItem) (r : List QItem) (s : State),
    q < 9 ∧ (s.queue q).items = i :: r ∧ (s.queue q).stalled = [] ∧ i.complete = false ∧
    (qStall q = true → i.words.length < qItemWords q) :=
  ⟨7, ⟨[1], false, false⟩, [], queued 7 fun x => { x with items := [⟨[1], false, false⟩] }, by decide +kernel⟩

theorem witness_QueuesHoldItems_5_1 : ∃ (q : Nat) (s : State),
    q < 9 ∧ (s.queue q).stalled = [] ∧ (∀ i ∈ (s.queue q).items, i.complete = true) ∧ q ≠ 8 :=
  ⟨1, queued 1 fun x => { x with items := [⟨[1, 2], true, false⟩] }, by decide +kernel⟩

theorem witness_QueuesHoldItems_6_1 : ∃ (q : Nat) (i : QItem) (s : State),
    q < 9 ∧ (s.queue q).stalled = [] ∧ (s.queue q).items.find? (fun x => !x.complete) = some i ∧ q ≠ 8 :=
  ⟨7, ⟨[1], false, false⟩, queued 7 fun x => { x with items := [⟨[1], false, false⟩] }, by decide +kernel⟩

theorem witness_QueuesHoldItems_7 : ∃ (q : Nat) (s : State),
    q < 9 ∧ (s.queue q).items ≠ [] ∧ (s.queue q).staleRun = true ∧ (s.queue q).staleCfg ≠ 0 ∧
    (s.queue q).readAt ≠ some s.time.b2.val :=
  ⟨1, queued 1 fun x => { x with items := [⟨[1], true, false⟩] }, by decide +kernel⟩

theorem witness_QueuesHoldItems_8 : ∃ (q : Nat) (s : State),
    ((s.queue q).items = [] ∨ (s.queue q).staleRun = false ∨ (s.queue q).staleCfg = 0 ∨
      (s.queue q).readAt = some s.time.b2.val) :=
  ⟨1, ready, by decide +kernel⟩

theorem witness_KilzarJobsRunAndEnd_1_1 : ∃ (tag : Nat) (j : Bytes) (s : State),
    s.kzC.stat.busy = false ∧ s.kzC.waiting = [] ∧ jobOk j = true ∧ jobOp j = 0 ∧
    (jobFlag j 0 = true → s.kzC.stat.isOpen = true → s.kzC.stat.holder = tag) ∧ s.isBarred (.kilzar false) tag = false ∧
    jobFlag j 0 = false ∧ (¬(s.kzC.stat.isOpen = true ∧ s.kzC.stat.holder = tag)) :=
  ⟨2, kzJob 0 2 2, ready, by decide +kernel⟩

theorem witness_KilzarJobsRunAndEnd_1_2 : ∃ (tag : Nat) (j i : Bytes) (s : State),
    s.kzC.stat.busy = false ∧ s.kzC.waiting = [] ∧ jobOk j = true ∧ jobOp j = 0 ∧
    (jobFlag j 0 = true → s.kzC.stat.isOpen = true → s.kzC.stat.holder = tag) ∧ s.isBarred (.kilzar false) tag = false ∧
    jobFlag j 0 = false ∧ s.kzC.stat.isOpen = true ∧ s.kzC.stat.holder = tag ∧ s.kzC.headed = true ∧
    s.kzC.closing = false ∧ i = [] ∧ s.kzC.block = [] ∧ jobFlag j 3 = false :=
  ⟨2, kzJob 0 2 2, [], { ready with kzC := { ready.kzC with headed := true, stat := { ready.kzC.stat with isOpen := true, holder := 2 } } },
    by decide +kernel⟩

theorem witness_KilzarJobsRunAndEnd_2_1 : ∃ (tag : Nat) (j : Bytes) (s : State),
    s.kzD.stat.busy = false ∧ s.kzD.waiting = [] ∧ jobOk j = true ∧ jobOp j = 1 ∧
    (jobFlag j 0 = true → s.kzD.stat.isOpen = true → s.kzD.stat.holder = tag) ∧ s.isBarred (.kilzar true) tag = false ∧
    jobFlag j 0 = false ∧ (¬(s.kzD.stat.isOpen = true ∧ s.kzD.stat.holder = tag)) :=
  ⟨2, kzJob 1 2 2, ready, by decide +kernel⟩

theorem witness_KilzarJobsRunAndEnd_2_2 : ∃ (tag : Nat) (j i : Bytes) (s : State),
    s.kzD.stat.busy = false ∧ s.kzD.waiting = [] ∧ jobOk j = true ∧ jobOp j = 1 ∧
    (jobFlag j 0 = true → s.kzD.stat.isOpen = true → s.kzD.stat.holder = tag) ∧ s.isBarred (.kilzar true) tag = false ∧
    jobFlag j 0 = true ∧ i.length < 16 :=
  ⟨2, kzJob 1 1 2, zeros 8, ready, by decide +kernel⟩

theorem witness_KilzarJobsRunAndEnd_3_1 : ∃ (tag : Nat) (j : Bytes) (s : State),
    s.kzC.stat.busy = true ∧ jobOk j = true ∧ jobOp j = 0 ∧ s.isBarred (.kilzar false) tag = false ∧
    (s.queue 8).stalled = [] ∧ (∀ x ∈ (s.queue 8).items, x.complete = true) ∧ (s.queue 8).level < qDepth 8 :=
  ⟨0x31, kzJob 0 1 2, kzBusy false [], by decide +kernel⟩

theorem witness_KilzarJobsRunAndEnd_4 : ∃ (tag : Nat) (j : Bytes) (s : State),
    s.kzD.stat.busy = true ∧ jobOk j = true ∧ jobOp j = 1 ∧ s.isBarred (.kilzar true) tag = false :=
  ⟨2, kzJob 1 1 2, kzBusy true [], by decide +kernel⟩

theorem witness_KilzarJobsRunAndEnd_5 : ∃ (e : KzEnd) (s : State),
    s.kzC.job = some e ∧ s.kzC.waiting = [] :=
  ⟨kzEnded, kzBusy false [], by decide +kernel⟩

theorem witness_KilzarJobsRunAndEnd_6 : ∃ (e : KzEnd) (s : State),
    s.kzD.job = some e ∧ s.kzD.waiting = [] :=
  ⟨kzEnded, kzBusy true [], by decide +kernel⟩

theorem witness_KilzarJobsRunAndEnd_7 : ∃ (d : Bool) (e : KzEnd) (r : KzReq) (s : State),
    ((if d then s.kzD.job else s.kzC.job) = some e) ∧ ((if d then s.kzD.waiting else s.kzC.waiting) = [r]) ∧
    (jobFlag r.job 0 = true → e.isOpen = true → e.holder = r.tag) :=
  ⟨true, kzEnded, ⟨2, kzJob 1 1 2, []⟩, kzBusy true [⟨2, kzJob 1 1 2, []⟩], by decide +kernel⟩

theorem witness_KilzarJobsRunAndEnd_8 : ∃ (s : State),
    s.kzD.kept = true :=
  ⟨{ ready with kzD := { ready.kzD with kept := true } }, by decide +kernel⟩

theorem witness_KilzarJobsRunAndEnd_9 : ∃ (d : Bool) (tag : Nat) (j : Bytes) (s : State),
    ((jobOk j && jobOp j == b2n d) = false ∨ s.isBarred (.kilzar d) tag = true) :=
  ⟨true, 2, kzJob 1 1 0, ready, by decide +kernel⟩

/-! ### Witnesses: the mailbox and the patterns -/

/-- A NOP stands in slot 7 of the PCIe bank. -/
def slotted : State :=
  ready.updBank .pcie fun b => { b with cmd := Tbl.setRun 0 b.cmd (256 * 7) (le 2 1 ++ le 2 0 ++ le 4 0 ++ le 4 9 ++ le 4 0xFFFFFFFF) }

/-- A REG_WRITE of one value to a register of `n` bytes, and that to REG of a block at INDEX of `ready`. -/
def regPay (addr n v : Nat) : Bytes := le 4 addr ++ zeros 4 ++ le n v
def regWriteOf (b r i v : Nat) : Bytes :=
  let a := b * 2 ^ 24 + r * 2 ^ 16 + i
  regPay a ((taken 0x0011 hdr (regPay a 0 0) ready).regBytes b r i).length v

/-- DI_CFG of WAKE_IN, the structure that the tests stage. -/
def diBytes (n : Byte) : Bytes := le 2 sDi ++ le 2 18 ++ zeros 4 ++ [n, 2, 0, 0]
def gainBytes : Bytes := le 2 sSlc ++ le 2 31 ++ zeros 4 ++ List.replicate 8 7
def sealedBy (s : State) : State := { s with sec := { s.sec with life := .sealed } }
def patDef (sid : Nat) : StructDef := (structDef? sid).getD ⟨0, 0, 0, 0, false⟩

/-- PCIe has staged a new DI_CFG of WAKE_IN. -/
def committable (s : State) : State :=
  { s with mbx := { s.mbx with staged := some (Pat.setStr [] sDi 18 [5, 2, 0, 0]), stageOwner := 0x41 } }
def commitOf (s : State) : Commit := (s.stagedCommit 0x41 2000).getD ⟨[], 0, 0, 0, []⟩
def storing : State := { ready with mbx := { ready.mbx with store := [(7, (patBlob []).getD [])] } }
def saving : State := { ready with mbx := { ready.mbx with saving := some (7, 2, []) } }
def waitingFor (w : CommitWait) (s : State) : State := { s with mbx := { s.mbx with wait := some w } }

/-- The root of a ring of 64 stations. -/
def fullRing : State :=
  let s := setPat ready sRing 0 (putFld (defStruct sRing) 0 1 1)
  { s with ring := { s.ring with numbered := true, enumerated := true, count := 64 } }

theorem witness_PostingAndWatchdog_1 : ∃ (port : HostPort) (slot : Nat) (s : State),
    let v := portVia port
    let b := s.slotHeader v slot
    let len := fld b 4 4
    let span := spanOf (BitVec.ofNat 16 (fld b 2 2)) len
    slot < 8 ∧ opKnown (fld b 0 2) = true ∧ (s.bank v).busy.testBit slot = false ∧ len ≤ 2032 ∧ slot + span ≤ 8 ∧
    (s.bank v).busy &&& spanMask slot span = 0 ∧ s.mbxOpen = true ∧ (s.queue 0).stalled = [] ∧
    (∀ i ∈ (s.queue 0).items, i.complete = true) ∧ (s.queue 0).level < 8 :=
  ⟨.pcie, 7, slotted, by decide +kernel⟩

theorem witness_PostingAndWatchdog_2 : ∃ (port : HostPort) (slot : Nat) (s : State),
    let v := portVia port
    let b := s.slotHeader v slot
    let len := fld b 4 4
    let e := postError s v slot (spanOf (BitVec.ofNat 16 (fld b 2 2)) len) len
    slot < 8 ∧ e ≠ 0 :=
  ⟨.qspi, 0, State.reset, by decide +kernel⟩

theorem witness_PostingAndWatchdog_3 : ∃ (port : HostPort) (slot : Nat) (s : State),
    slot < 8 ∧ (s.bank (portVia port)).ready.testBit slot = true :=
  ⟨.qspi, 7, ready.updBank .qspi fun b => { b with ready := 128 }, by decide +kernel⟩

theorem witness_PostingAndWatchdog_4 : ∃ (port : HostPort) (o : Outst) (s : State),
    s.mbx.out.find? (fun x => x.via == portVia port && x.slot == o.slot && !x.dead) = some o :=
  ⟨.pcie, ⟨.pcie, 7, 1, 9, false, false⟩, { slotted with mbx := { slotted.mbx with out := [⟨.pcie, 7, 1, 9, false, false⟩] } },
    by decide +kernel⟩

theorem witness_GeneralCommands_1 : ∃ (h : CmdHdr) (s : State),
    Accepted 0x0001 h [] s 0 = true :=
  ⟨hdr, ready, by decide +kernel⟩

theorem witness_GeneralCommands_2 : ∃ (h : CmdHdr) (s : State),
    Accepted 0x0002 h [] s 24 = true :=
  ⟨hdr, ready, by decide +kernel⟩

theorem witness_GeneralCommands_3 : ∃ (h : CmdHdr) (p : Bytes) (b r i : Nat) (s : State),
    let v := ((List.range (fld p 4 1)).map fun k => (taken 0x0010 h p s).regBytes b r (i + k)).flatten
    p.length = 8 ∧ addrParts (fld p 0 4) = (b, r, i) ∧ inR 1 64 (fld p 4 1) = true ∧ allZero (slice p 5 3) = true ∧
    i < regCount b r ∧ i + fld p 4 1 ≤ regCount b r ∧ (¬(b = 4 ∧ r = 9)) ∧ Accepted 0x0010 h p s v.length = true :=
  ⟨hdr, le 4 0x0100001F ++ [1, 0, 0, 0], 1, 0, 31, ready, by decide +kernel⟩

theorem witness_GeneralCommands_4_1 : ∃ (h : CmdHdr) (p : Bytes) (b r i : Nat) (s : State),
    8 ≤ p.length ∧ addrParts (fld p 0 4) = (b, r, i) ∧ allZero (slice p 4 4) = true ∧ i < regCount b r ∧
    (¬(b = 4 ∧ (r = 3 ∨ r = 4))) ∧ p.length = 8 + ((taken 0x0011 h p s).regBytes b r i).length ∧
    Accepted 0x0011 h p s 0 = true ∧
    (b, r) ∉ [(1, 1), (1, 2), (1, 3), (1, 7), (1, 8), (2, 2), (3, 2), (4, 0), (4, 10), (6, 1), (13, 0), (13, 1), (16, 0),
      (16, 2), (16, 4)] :=
  ⟨hdr, regWriteOf 1 0 31 5, 1, 0, 31, ready, by decide +kernel⟩

theorem witness_GeneralCommands_4_2 : ∃ (h : CmdHdr) (p : Bytes) (b r i : Nat) (s : State),
    8 ≤ p.length ∧ addrParts (fld p 0 4) = (b, r, i) ∧ allZero (slice p 4 4) = true ∧ i < regCount b r ∧
    (¬(b = 4 ∧ (r = 3 ∨ r = 4))) ∧ p.length = 8 + ((taken 0x0011 h p s).regBytes b r i).length ∧
    Accepted 0x0011 h p s 0 = true ∧ (b, r) = (1, 8) :=
  ⟨hdr, regWriteOf 1 8 19 (2 ^ 20 - 1), 1, 8, 19, { ready with flt := { ready.flt with thrEvent := 7 } }, by decide +kernel⟩

theorem witness_GeneralCommands_4_3 : ∃ (h : CmdHdr) (p : Bytes) (b r i : Nat) (s : State),
    8 ≤ p.length ∧ addrParts (fld p 0 4) = (b, r, i) ∧ allZero (slice p 4 4) = true ∧ i < regCount b r ∧
    (¬(b = 4 ∧ (r = 3 ∨ r = 4))) ∧ p.length = 8 + ((taken 0x0011 h p s).regBytes b r i).length ∧
    Accepted 0x0011 h p s 0 = true ∧ (b, r) = (4, 0) ∧ (fld p 8 1).testBit 0 = true :=
  ⟨hdr, regWriteOf 4 0 0 1, 4, 0, 0, rowing, by decide +kernel⟩

theorem witness_GeneralCommands_4_4 : ∃ (h : CmdHdr) (p : Bytes) (b r i : Nat) (s : State),
    8 ≤ p.length ∧ addrParts (fld p 0 4) = (b, r, i) ∧ allZero (slice p 4 4) = true ∧ i < regCount b r ∧
    (¬(b = 4 ∧ (r = 3 ∨ r = 4))) ∧ p.length = 8 + ((taken 0x0011 h p s).regBytes b r i).length ∧
    Accepted 0x0011 h p s 0 = true ∧ (b, r) = (13, 1) ∧ fld p 8 2 ≤ 65000 :=
  ⟨hdr, regWriteOf 13 1 8 65000, 13, 1, 8, ready, by decide +kernel⟩

theorem witness_GeneralCommands_5 : ∃ (h : CmdHdr) (p b : Bytes) (s : State),
    p.length = 4 ∧ fld p 0 1 < 8 ∧ allZero (slice p 1 3) = true ∧ s.mbx.saving = none ∧ s.serialShut 1 = false ∧
    patBlob s.mbx.force = some b ∧ Accepted 0x0105 h p s 0 = true :=
  ⟨hdr, [7, 0, 0, 0], (patBlob []).getD [], ready, by decide +kernel⟩

theorem witness_GeneralCommands_6 : ∃ (h : CmdHdr) (p b : Bytes) (n o : Nat) (s : State),
    p.length = 4 ∧ fld p 0 1 < 8 ∧ allZero (slice p 1 3) = true ∧ s.mbx.saving = some (n, o, b) ∧
    Accepted 0x0105 h p s 0 = true :=
  ⟨hdr, [7, 0, 0, 0], [], 7, 2, saving, by decide +kernel⟩

theorem witness_GeneralCommands_7 : ∃ (n o : Nat) (b : Bytes) (s : State),
    s.mbx.saving = some (n, o, b) ∧ s.pm.emergency = false ∧ s.serialHolder = 1 :=
  ⟨7, 2, [], saving, by decide +kernel⟩

theorem witness_GeneralCommands_8 : ∃ (h : CmdHdr) (p : Bytes) (q : Pat) (s : State),
    p.length = 4 ∧ fld p 0 1 < 8 ∧ allZero (slice p 1 3) = true ∧ s.savedPat (fld p 0 1) = some q ∧ MayStage h s = true ∧
    (s.isSealed = true → legalBytes q = legalBytes s.mbx.force) ∧ Accepted 0x0106 h p s 0 = true :=
  ⟨hdr, [7, 0, 0, 0], [], storing, by decide +kernel⟩

theorem witness_GeneralCommands_9 : ∃ (h : CmdHdr) (p : Bytes) (s : State),
    p.length = 4 ∧ fld p 0 1 < 8 ∧ allZero (slice p 1 3) = true ∧ s.savedPat (fld p 0 1) = none ∧
    Accepted 0x0106 h p s 0 = true :=
  ⟨hdr, [6, 0, 0, 0], storing, by decide +kernel⟩

theorem witness_GeneralCommands_10_1 : ∃ (h : CmdHdr) (p : Bytes) (s : State),
    p.length = 12 ∧ fld p 0 1 < 64 ∧ allZero (slice p 1 3) = true ∧ inR 1 4096 (fld p 8 2) = true ∧
    allZero (slice p 10 2) = true ∧ Accepted 0x0600 h p s 0 = true ∧ s.isRoot = false :=
  ⟨hdr, [63, 0, 0, 0] ++ le 4 5 ++ le 2 4096 ++ [0, 0], ready, by decide +kernel⟩

theorem witness_GeneralCommands_10_2 : ∃ (h : CmdHdr) (p : Bytes) (s : State),
    p.length = 12 ∧ fld p 0 1 < 64 ∧ allZero (slice p 1 3) = true ∧ inR 1 4096 (fld p 8 2) = true ∧
    allZero (slice p 10 2) = true ∧ Accepted 0x0600 h p s 0 = true ∧ s.isRoot = true ∧
    (s.ring.enumerated && fld p 0 1 < s.ring.count) = false :=
  ⟨hdr, [63, 0, 0, 0] ++ le 4 5 ++ le 2 4096 ++ [0, 0], { fullRing with ring := { fullRing.ring with count := 63 } },
    by decide +kernel⟩

theorem witness_GeneralCommands_10_3 : ∃ (h : CmdHdr) (p : Bytes) (s : State),
    p.length = 12 ∧ fld p 0 1 < 64 ∧ allZero (slice p 1 3) = true ∧ inR 1 4096 (fld p 8 2) = true ∧
    allZero (slice p 10 2) = true ∧ Accepted 0x0600 h p s 0 = true ∧ s.isRoot = true ∧ s.ring.enumerated = true ∧
    fld p 0 1 < s.ring.count :=
  ⟨hdr, [63, 0, 0, 0] ++ le 4 5 ++ le 2 4096 ++ [0, 0], fullRing, by decide +kernel⟩

theorem witness_StagingCommands_1_1 : ∃ (h : CmdHdr) (p : Bytes) (d : StructDef) (s : State),
    let sid := fld p 0 2
    structDef? (fld p 0 2) = some d ∧ fld p 2 2 < d.count ∧ p.length = 8 + d.size ∧ allZero (slice p 4 4) = true ∧
    Accepted 0x0100 h p s 0 = true ∧ s.isSealed = true ∧ legalStruct sid = true :=
  ⟨hdr, gainBytes, patDef sSlc, sealedBy ready, by decide +kernel⟩

theorem witness_StagingCommands_1_2 : ∃ (h : CmdHdr) (p : Bytes) (d : StructDef) (s : State),
    let sid := fld p 0 2
    structDef? (fld p 0 2) = some d ∧ fld p 2 2 < d.count ∧ p.length = 8 + d.size ∧ allZero (slice p 4 4) = true ∧
    Accepted 0x0100 h p s 0 = true ∧ (¬(s.isSealed = true ∧ legalStruct sid = true)) ∧ s.mbx.staged.isSome = true ∧
    s.mbx.stageOwner ≠ viaTag h.via :=
  ⟨{ hdr with via := .qspi }, diBytes 5, patDef sDi, { staging [] with pm := ready.pm }, by decide +kernel⟩

theorem witness_StagingCommands_1_3 : ∃ (h : CmdHdr) (p : Bytes) (d : StructDef) (s : State),
    let sid := fld p 0 2
    structDef? (fld p 0 2) = some d ∧ fld p 2 2 < d.count ∧ p.length = 8 + d.size ∧ allZero (slice p 4 4) = true ∧
    Accepted 0x0100 h p s 0 = true ∧ (¬(s.isSealed = true ∧ legalStruct sid = true)) ∧ MayStage h s = true :=
  ⟨hdr, diBytes 5, patDef sDi, ready, by decide +kernel⟩

theorem witness_StagingCommands_1_4 : ∃ (h : CmdHdr) (p : Bytes) (d : StructDef) (s : State),
    let sid := fld p 0 2
    let b := p.drop 8
    structDef? (fld p 0 2) = some d ∧ fld p 2 2 < d.count ∧ p.length = 8 + d.size ∧ allZero (slice p 4 4) = true ∧
    Accepted 0x0100 h p s 0 = true ∧ (¬(s.isSealed = true ∧ legalStruct sid = true)) ∧ MayStage h s = true ∧
    checkStruct sid (fld p 2 2) b = none :=
  ⟨hdr, diBytes 5, patDef sDi, ready, by decide +kernel⟩

theorem witness_StagingCommands_2 : ∃ (h : CmdHdr) (p : Bytes) (d : StructDef) (q : Pat) (s : State),
    p.length = 8 ∧ structDef? (fld p 0 2) = some d ∧ fld p 2 2 < d.count ∧ fld p 4 1 < 3 ∧ allZero (slice p 5 3) = true ∧
    s.whichPat (fld p 4 1) = some q ∧ Accepted 0x0101 h p s (q.str (fld p 0 2) (fld p 2 2)).length = true :=
  ⟨hdr, le 2 sPwr ++ le 2 0 ++ [1, 0, 0, 0], patDef sPwr, [], staging [], by decide +kernel⟩

theorem witness_StagingCommands_3_1 : ∃ (h : CmdHdr) (s : State),
    Accepted 0x0102 h [] s 0 = true ∧ s.mbx.staged.isSome = true ∧ s.mbx.stageOwner = viaTag h.via :=
  ⟨hdr, staging [], by decide +kernel⟩

theorem witness_StagingCommands_3_2 : ∃ (h : CmdHdr) (s : State),
    Accepted 0x0102 h [] s 0 = true ∧ s.mbx.staged = none :=
  ⟨hdr, ready, by decide +kernel⟩

theorem witness_StagingCommands_3_3 : ∃ (h : CmdHdr) (s : State),
    Accepted 0x0102 h [] s 0 = true ∧ s.mbx.staged.isSome = true ∧ s.mbx.stageOwner ≠ viaTag h.via :=
  ⟨{ hdr with via := .qspi }, staging [], by decide +kernel⟩

theorem witness_CommitsArePendingUntilTheirRow_1_1 : ∃ (h : CmdHdr) (p : Bytes) (c : Commit) (s : State),
    let s0 := { s with mbx := { s.mbx with last := none } }
    p.length = 8 ∧ allZero (slice p 6 2) = true ∧ s.mbx.pending = none ∧ s.mbx.wait = none ∧
    s.mbx.stageOwner = viaTag h.via ∧ s.stagedCommit (viaTag h.via) (fld p 0 6) = some c ∧
    Accepted 0x0103 h p s0 16 = true ∧ s.leadOk c = false :=
  ⟨hdr, le 6 1000 ++ [0, 0], { commitOf (committable rowing) with row := 1000 }, committable rowing, by decide +kernel⟩

theorem witness_CommitsArePendingUntilTheirRow_1_2 : ∃ (h : CmdHdr) (p : Bytes) (c : Commit) (s : State),
    let s0 := { s with mbx := { s.mbx with last := none } }
    p.length = 8 ∧ allZero (slice p 6 2) = true ∧ s.mbx.pending = none ∧ s.mbx.wait = none ∧
    s.mbx.stageOwner = viaTag h.via ∧ s.stagedCommit (viaTag h.via) (fld p 0 6) = some c ∧
    Accepted 0x0103 h p s0 16 = true ∧ s.leadOk c = true ∧ s.patternAns c.pat = none ∧ touches sSkw c.keys = false ∧
    touches sSwatch c.keys = false ∧ c.pat.gS ≤ s.admitted ∧
    (gateAll c.row (commitRecords s.pat c) (taken 0x0103 h p s0)).1 = .accepted :=
  ⟨hdr, le 6 2000 ++ [0, 0], commitOf (committable rowing), committable rowing, by decide +kernel⟩

theorem witness_CommitsArePendingUntilTheirRow_2 : ∃ (h : CmdHdr) (c : Commit) (s : State),
    s.mbx.pending = some c ∧ Accepted 0x0104 h [] s 0 = true :=
  ⟨hdr, commitOf (committable rowing), { rowing with mbx := { rowing.mbx with pending := some (commitOf (committable rowing)) } },
    by decide +kernel⟩

theorem witness_CommitsArePendingUntilTheirRow_3 : ∃ (w : CommitWait) (s : State),
    s.mbx.wait = some w ∧ w.onRing = false ∧ s.rowOpen = true ∧ s.pm.emergency = false ∧ s.serialHolder = 1 :=
  ⟨⟨some hdr, none, commitOf (committable rowing), false⟩, waitingFor ⟨some hdr, none, commitOf (committable rowing), false⟩ rowing,
    by decide +kernel⟩

theorem witness_CommitsArePendingUntilTheirRow_4 : ∃ (w : CommitWait) (s : State),
    s.mbx.wait = some w ∧ w.onRing = false ∧ s.pm.emergency = false ∧ s.serialHolder = 1 :=
  ⟨⟨some hdr, none, commitOf (committable rowing), false⟩, waitingFor ⟨some hdr, none, commitOf (committable rowing), false⟩ rowing,
    by decide +kernel⟩

/-! ### Witnesses: the ring -/

def inRing (s : State) (f : Ring → Ring) : State := { s with ring := f s.ring }
def linked (p : Nat) (st : PortState) : State := ready.updPort p fun q => { q with st := st }
def root : State := setPat ready sRing 0 (putFld (defStruct sRing) 0 1 1)
def bothUp (s : State) : State :=
  inRing s fun r => { r with za := { r.za with st := .up }, zb := { r.zb with st := .up } }
def msg (lo hi : Nat) : HelloMsg := ⟨9, lo, hi, false, 1, BitVec.ofNat 32 ready.pat.ringDigest, 0, 1, 0⟩
def beat : BeatMsg := ⟨9, 1, 0, true, true, 2, 3, 0, 0, 5⟩

/-- A commit waits for the ring, on a part in BLANK. -/
def ringWait : CommitWait := ⟨some hdr, none, commitOf (committable rowing), true⟩
def waitingRing : State := waitingFor ringWait { rowing with sec := { rowing.sec with life := .blank } }

def frame (kind src seq : Nat) (p : Bytes) : ZFrame := zSeal ⟨3, kind, 0, 5, src, 0xFF, 0, seq, 0, 0, p, 0⟩
def heard (x : RxSrc) : State := inRing ready fun r => { r with rx := [(63, x)] }
def rx63 : RxSrc := { RxSrc.init with started := true, high := 7 }
def nopCmd : Bytes := le 2 1 ++ le 2 0 ++ le 4 0 ++ le 4 9 ++ le 4 0xFFFFFFFF
def rspOut : Outst := ⟨.qspi, 7, 1, 9, true, false⟩
def rspFrame : ZFrame := frame 4 63 8 (le 2 1 ++ le 2 0 ++ le 4 0 ++ le 4 9 ++ le 4 0)
def arrived (f : ZFrame) (s : State) : State := inRing s fun r => { r with accepted := [f] }

theorem witness_LinksComeUpAndBreak_1 : ∃ (p : Nat),
    p < 2 :=
  ⟨1, by decide +kernel⟩

theorem witness_LinksComeUpAndBreak_2_1 : ∃ (p m : Nat) (s : State),
    p < 2 ∧ (s.port p).st ≠ .off ∧ (m = 2 ∨ (m = 1 ∧ s.pat.f sRing 0 1 1 ≠ 1)) ∧ s.portRole p = 0 ∧
    s.ring.conflict = false ∧ (s.port p).st ≠ .up :=
  ⟨1, 2, linked 1 .negotiating, by decide +kernel⟩

theorem witness_LinksComeUpAndBreak_2_2 : ∃ (p m : Nat) (s : State),
    p < 2 ∧ (s.port p).st ≠ .off ∧ (m = 2 ∨ (m = 1 ∧ s.pat.f sRing 0 1 1 ≠ 1)) ∧ s.portRole p = 0 ∧
    s.ring.conflict = false ∧ (s.port p).st = .up :=
  ⟨0, 1, linked 0 .up, by decide +kernel⟩

theorem witness_LinksComeUpAndBreak_3 : ∃ (p m : Nat) (s : State),
    p < 2 ∧ ((s.port p).st = .off ∨ (m ≠ 2 ∧ (m ≠ 1 ∨ s.pat.f sRing 0 1 1 = 1))) :=
  ⟨0, 3, ready, by decide +kernel⟩

theorem witness_LinksComeUpAndBreak_4 : ∃ (p m : Nat) (s : State),
    p < 2 ∧ (s.port p).st ≠ .off ∧ (s.port p).st ≠ .up ∧ (m = 2 ∨ (m = 1 ∧ s.pat.f sRing 0 1 1 ≠ 1)) ∧
    s.ring.conflict = true :=
  ⟨1, 2, inRing (linked 1 .negotiating) fun r => { r with conflict := true }, by decide +kernel⟩

theorem witness_LinksComeUpAndBreak_5 : ∃ (p : Nat) (s : State),
    p < 2 ∧ s.portRole p = 0 :=
  ⟨1, linked 1 .blockLock, by decide +kernel⟩

theorem witness_LinksComeUpAndBreak_6_1 : ∃ (p : Nat) (m : HelloMsg) (s : State),
    p < 2 ∧ ((s.port p).st = .blockLock ∨ (s.port p).st = .hello) ∧ (¬(m.root = true ∧ s.isRoot = true)) ∧
    s.helloCause p m = 0 :=
  ⟨0, msg 2 3, linked 0 .hello, by decide +kernel⟩

theorem witness_LinksComeUpAndBreak_6_2 : ∃ (p : Nat) (m : HelloMsg) (s : State),
    p < 2 ∧ ((s.port p).st = .blockLock ∨ (s.port p).st = .hello) ∧ (¬(m.root = true ∧ s.isRoot = true)) ∧
    s.helloCause p m = 0 ∧ (∀ q, s.time.freq ≠ .holdover q) :=
  ⟨0, msg 2 3, linked 0 .hello, by and_intros <;> first | exact fun _ h => nomatch h | decide +kernel⟩

theorem witness_LinksComeUpAndBreak_6_3 : ∃ (p : Nat) (m : HelloMsg) (s : State),
    p < 2 ∧ ((s.port p).st = .blockLock ∨ (s.port p).st = .hello) ∧ (¬(m.root = true ∧ s.isRoot = true)) ∧
    s.helloCause p m ≠ 0 ∧ s.portRole p = 0 :=
  ⟨0, msg 1 1, linked 0 .hello, by decide +kernel⟩

theorem witness_LinksComeUpAndBreak_7_2 : ∃ (p : Nat) (m : HelloMsg) (s : State),
    p < 2 ∧ ((s.port p).st = .blockLock ∨ (s.port p).st = .hello) ∧ m.root = true ∧ s.isRoot = true ∧ s.portRole 0 = 0 ∧
    s.portRole 1 = 0 ∧ Config.uid.toNat ≤ m.uid.toNat :=
  ⟨0, { msg 2 3 with root := true, uid := 0xFFFFFFFFFFFFFFFF }, inRing root fun r => { r with za := { r.za with st := .hello } },
    by and_intros <;> first | exact Nat.le_of_lt_succ Config.uid.isLt | decide +kernel⟩

theorem witness_LinksComeUpAndBreak_8 : ∃ (p : Nat) (s : State),
    p < 2 ∧ (s.port p).st = .up ∧ s.portRole p = 0 :=
  ⟨1, linked 1 .up, by decide +kernel⟩

theorem witness_LinksComeUpAndBreak_9 : ∃ (p : Nat) (s : State),
    p < 2 ∧ s.portRole p = 0 :=
  ⟨1, linked 1 .hello, by decide +kernel⟩

theorem witness_LinksComeUpAndBreak_10 : ∃ (p : Nat) (s : State),
    p < 2 ∧ s.portRole p = 0 ∧ s.ring.conflict = false :=
  ⟨1, linked 1 .heldOut, by decide +kernel⟩

theorem witness_LinksComeUpAndBreak_11 : ∃ (p : Nat) (s : State),
    p < 2 ∧ (s.port p).st = .heldOut ∧ s.ring.conflict = true :=
  ⟨1, inRing (linked 1 .heldOut) fun r => { r with conflict := true }, by decide +kernel⟩

theorem witness_LinksComeUpAndBreak_12 : ∃ (p : Nat) (s : State),
    p < 2 ∧ (s.port p).st = .up :=
  ⟨1, linked 1 .up, by decide +kernel⟩

theorem witness_LinksComeUpAndBreak_13 : ∃ (p : Nat),
    p < 2 :=
  ⟨1, by decide +kernel⟩

theorem witness_LinksComeUpAndBreak_14 : ∃ (p : Nat),
    p < 2 :=
  ⟨1, by decide +kernel⟩

theorem witness_LinksComeUpAndBreak_15 : ∃ (p : Nat) (s : State),
    p < 2 ∧ (s.port p).st = .up :=
  ⟨1, linked 1 .up, by decide +kernel⟩

theorem witness_LinksComeUpAndBreak_16_1 : ∃ (p : Nat) (s : State),
    p < 2 ∧ (s.port p).beSecond = some (s.time.b2.val / secF) :=
  ⟨1, (linked 1 .up).updPort 1 fun q => { q with beSecond := some 0 }, by decide +kernel⟩

theorem witness_EnumerationAndAdmission_1_1 : ∃ (p : Nat) (n : Nat) (s : State),
    p < 2 ∧ s.isRoot = false ∧ s.portRole p = 0 ∧ (¬(s.ring.enumSent = true ∧ s.ring.enumerated = false)) ∧ n = 64 :=
  ⟨0, 64, bothUp ready, by decide +kernel⟩

theorem witness_EnumerationAndAdmission_1_2 : ∃ (p : Nat) (n : Nat) (s : State),
    p < 2 ∧ s.isRoot = false ∧ s.portRole p = 0 ∧ (¬(s.ring.enumSent = true ∧ s.ring.enumerated = false)) ∧ n < 64 :=
  ⟨0, 5, bothUp ready, by decide +kernel⟩

theorem witness_EnumerationAndAdmission_1_3 : ∃ (p : Nat) (n : Nat) (s : State),
    let d := 1 - p
    p < 2 ∧ s.isRoot = false ∧ s.portRole p = 0 ∧ (¬(s.ring.enumSent = true ∧ s.ring.enumerated = false)) ∧ n < 64 ∧
    (s.port d).st = .up ∧ s.portRole d = 0 :=
  ⟨0, 5, bothUp ready, by decide +kernel⟩

theorem witness_EnumerationAndAdmission_1_4 : ∃ (p : Nat) (n : Nat) (s : State),
    let d := 1 - p
    p < 2 ∧ s.isRoot = false ∧ s.portRole p = 0 ∧ (¬(s.ring.enumSent = true ∧ s.ring.enumerated = false)) ∧ n < 64 ∧
    (s.port d).st ≠ .up :=
  ⟨0, 5, ready, by decide +kernel⟩

theorem witness_EnumerationAndAdmission_2 : ∃ (p : Nat) (s : State),
    (s.portRole p ≠ 0 ∨ (s.isRoot = false ∧ s.ring.enumSent = true ∧ s.ring.enumerated = false)) :=
  ⟨0, inRing ready fun r => { r with enumSent := true }, by decide +kernel⟩

theorem witness_EnumerationAndAdmission_3 : ∃ (n : Nat) (w : BitVec 64) (s : State),
    2 ≤ n ∧ n ≤ 64 ∧ s.isRoot = true ∧ s.portRole 0 = 0 ∧ s.ring.state = 4 ∧ s.ring.enumSent = false ∧
    (n - 1) * 20000 + s.pat.gS ≤ s.ledgerAfter w.toNat (List.range n) (2 ^ n - 1) :=
  ⟨64, 0, inRing (bothUp root) fun r => { r with state := 4 }, by decide +kernel⟩

theorem witness_EnumerationAndAdmission_4 : ∃ (n : Nat) (w : BitVec 64) (s : State),
    2 ≤ n ∧ n ≤ 64 ∧ s.isRoot = true ∧ s.portRole 0 = 0 ∧ s.ring.state = 4 ∧ s.ring.enumSent = false ∧
    s.ledgerAfter w.toNat (List.range n) (2 ^ n - 1) < (n - 1) * 20000 + s.pat.gS ∧ s.rowOpen = false ∧ NoneDue s :=
  ⟨64, 0, inRing { bothUp root with host := { root.host with cameUp := true } } fun r => { r with state := 4 },
    by and_intros <;> first | exact noneDue_of_nil rfl | decide +kernel⟩

theorem witness_EnumerationAndAdmission_6_1 : ∃ (s : State),
    s.isRoot = false ∧ s.bothWays = true ∧ (s.port 0).st = .up ∧ (s.port 1).st = .up ∧ s.engineOn = true :=
  ⟨bothUp ready, by decide +kernel⟩

theorem witness_EnumerationAndAdmission_7 : ∃ (c : Nat) (w : BitVec 64) (s : State),
    let n := Nat.min c 64
    s.isRoot = true ∧ s.ring.state = 4 ∧ s.ring.enumSent = true ∧ 2 ≤ c ∧
    (n - 1) * 20000 + s.pat.gS ≤
      s.ledgerAfter w.toNat (ringOrder s.ring.count n) (2 ^ n - 1 - 2 ^ (Nat.min s.ring.count n - 1)) :=
  ⟨2, 0, inRing (bothUp root) fun r => { r with state := 4, enumSent := true }, by decide +kernel⟩

theorem witness_EnumerationAndAdmission_8_1 : ∃ (s : State),
    s.ring.enumerated = true ∧ s.isRoot = false ∧ s.rowOpen = true :=
  ⟨inRing rowing fun r => { r with enumerated := true }, by decide +kernel⟩

theorem witness_EnumerationAndAdmission_8_2 : ∃ (s : State),
    s.ring.enumerated = true ∧ s.isRoot = false ∧ s.rowOpen = false :=
  ⟨inRing ready fun r => { r with enumerated := true }, by decide +kernel⟩

theorem witness_EnumerationAndAdmission_9 : ∃ (s : State),
    s.ring.enumerated = true ∧ s.isRoot = true ∧ s.ring.nextTopo = none ∧ s.ring.admitWait = [] :=
  ⟨inRing root fun r => { r with enumerated := true, order := [0, 1] }, by decide +kernel⟩

theorem witness_EnumerationAndAdmission_10 : ∃ (s : State),
    s.ring.enumerated = false :=
  ⟨ready, by decide +kernel⟩

theorem witness_EnumerationAndAdmission_11 : ∃ (st : Nat) (s : State),
    s.isRoot = true ∧ s.ring.enumerated = true ∧ s.ring.admitNext < st ∧ st < s.ring.count ∧
    (∀ a ∈ s.ring.admitWait, a.1 ≠ s.ring.admitNext) ∧
    reachable s.hopsNow s.ring.order.length ((indexIn s.ring.order s.ring.admitNext).getD 0) = true :=
  ⟨2, inRing (bothUp root) fun r => { r with enumerated := true, admitNext := 1, count := 3, order := [0, 1, 2], linkUp := 7, state := 1 },
    by decide +kernel⟩

theorem witness_EnumerationAndAdmission_12_1 : ∃ (st g r : Nat) (s : State),
    let later := g < Tbl.get 0 s.ring.ledger st ∧ s.rowOpen = true ∧ s.flt.rows.row < r
    s.isRoot = true ∧ s.ring.enumerated = true ∧ (st < s.ring.admitNext ∨ s.ring.count ≤ st) ∧ s.ledgerRoom st g = true ∧
    later :=
  ⟨1, 100, 2000, inRing (setPat rowing sRing 0 (putFld (defStruct sRing) 0 1 1)) fun r => { r with enumerated := true, ledger := [(0, 20000), (1, 20000)] },
    by decide +kernel⟩

theorem witness_EnumerationAndAdmission_12_2 : ∃ (st : Nat) (s : State),
    s.isRoot = true ∧ s.ring.enumerated = true ∧ (st < s.ring.admitNext ∨ s.ring.count ≤ st) ∧ s.bothWays = true ∧
    s.engineOn = true ∧ st ≠ 0xFF :=
  ⟨1, inRing (bothUp root) fun r => { r with enumerated := true, ledger := [(0, 20000), (1, 20000)] },
    by decide +kernel⟩

theorem witness_EnumerationAndAdmission_13 : ∃ (s : State),
    (s.isRoot = false ∨ s.ring.enumerated = false) :=
  ⟨ready, by decide +kernel⟩

theorem witness_EnumerationAndAdmission_14_1 : ∃ (s : State),
    s.mbx.wait = none ∧ s.flt.rows.refused = false :=
  ⟨ready, by decide +kernel⟩

theorem witness_EnumerationAndAdmission_14_2 : ∃ (s : State),
    s.mbx.wait = none ∧ s.flt.rows.refused = true :=
  ⟨{ ready with flt := { ready.flt with rows := { ready.flt.rows with refused := true } } }, by decide +kernel⟩

theorem witness_EnumerationAndAdmission_14_3 : ∃ (s : State),
    s.mbx.wait = none ∧ s.flt.rows.refused = true ∧ s.pm.binding = none ∧ s.pm.emergency = false :=
  ⟨{ ready with flt := { ready.flt with rows := { ready.flt.rows with refused := true } } }, by decide +kernel⟩

theorem witness_EnumerationAndAdmission_15_1 : ∃ (s : State),
    s.mbx.wait = none ∧ s.flt.rows.refused = true :=
  ⟨{ ready with flt := { ready.flt with rows := { ready.flt.rows with refused := true } } }, by decide +kernel⟩

theorem witness_EnumerationAndAdmission_15_2 : ∃ (s : State),
    s.mbx.wait = none ∧ s.flt.rows.refused = false ∧ s.rowOpen = false ∧ NoneDue s :=
  ⟨ready, by and_intros <;> first | exact noneDue_of_nil rfl | decide +kernel⟩

theorem witness_EnumerationAndAdmission_15_3 : ∃ (s : State),
    s.mbx.wait = none ∧ s.rowOpen = true ∧ NoneDue s ∧ (s.base 0).reload = false ∧ (s.base 1).reload = false ∧
    s.flt.rows.refused = false :=
  ⟨rowing, by and_intros <;> first | exact noneDue_of_nil rfl | decide +kernel⟩

theorem witness_EnumerationAndAdmission_16_1 : ∃ (w : CommitWait) (s : State),
    s.mbx.wait = some w ∧ w.onRing = true ∧ s.rowOpen = true ∧ touches sSwatch w.commit.keys = false ∧ s.sec.life = .blank :=
  ⟨ringWait, waitingRing, by decide +kernel⟩

theorem witness_EnumerationAndAdmission_17 : ∃ (s : State),
    s.mbx.wait.any (·.onRing) = false :=
  ⟨ready, by decide +kernel⟩

theorem witness_FramesAreSequenced_1 : ∃ (p : Nat),
    p < 2 :=
  ⟨0, by decide +kernel⟩

theorem witness_FramesAreSequenced_2 : ∃ (f : ZFrame) (s : State),
    (kindGuaranteed f.kind = false ∨ 64 ≤ f.src ∨ s.accepts f = false) :=
  ⟨frame 2 63 8 [], ready, by decide +kernel⟩

theorem witness_FramesAreSequenced_3_1 : ∃ (f : ZFrame) (s : State),
    let x := s.rxSrc f.src
    kindGuaranteed f.kind = true ∧ f.src < 64 ∧ s.accepts f = true ∧ s.deliveryCh f.kind = none ∧
    (s.rxSrc f.src).gaps = [] ∧ s.ring.heldCmds = [] ∧ x.started = false :=
  ⟨frame 5 63 7 [], heard RxSrc.init, by decide +kernel⟩

theorem witness_FramesAreSequenced_3_2 : ∃ (f : ZFrame) (s : State),
    let x := s.rxSrc f.src
    let d := seqDist f.seq x.high
    kindGuaranteed f.kind = true ∧ f.src < 64 ∧ s.accepts f = true ∧ s.deliveryCh f.kind = none ∧
    (s.rxSrc f.src).gaps = [] ∧ s.ring.heldCmds = [] ∧ x.started = true ∧ d = 1 :=
  ⟨frame 5 63 8 [], heard rx63, by decide +kernel⟩

theorem witness_FramesAreSequenced_3_3 : ∃ (f : ZFrame) (s : State),
    let x := s.rxSrc f.src
    let d := seqDist f.seq x.high
    kindGuaranteed f.kind = true ∧ f.src < 64 ∧ s.accepts f = true ∧ s.deliveryCh f.kind = none ∧
    (s.rxSrc f.src).gaps = [] ∧ s.ring.heldCmds = [] ∧ x.started = true ∧ 1 < d ∧ d ≤ 65536 :=
  ⟨frame 5 63 (7 + 65536) [], heard rx63, by decide +kernel⟩

theorem witness_FramesAreSequenced_3_4 : ∃ (f : ZFrame) (s : State),
    let x := s.rxSrc f.src
    let d := seqDist f.seq x.high
    let b := seqDist x.high f.seq
    kindGuaranteed f.kind = true ∧ f.src < 64 ∧ s.accepts f = true ∧ s.deliveryCh f.kind = none ∧
    (s.rxSrc f.src).gaps = [] ∧ s.ring.heldCmds = [] ∧ x.started = true ∧
    (d = 0 ∨ (2 ^ 31 ≤ d ∧ (65535 < b ∨ x.map.testBit (b - 1) = true))) :=
  ⟨frame 5 63 7 [], heard rx63, by decide +kernel⟩

theorem witness_FramesAreSequenced_4 : ∃ (f : ZFrame) (s : State),
    let x := s.rxSrc f.src
    let b := seqDist x.high f.seq
    kindGuaranteed f.kind = true ∧ f.src < 64 ∧ s.accepts f = true ∧ s.deliveryCh f.kind = none ∧
    (s.rxSrc f.src).started = true ∧ (s.rxSrc f.src).gaps = [⟨f.seq, 1⟩] ∧ s.ring.heldCmds = [] ∧ 0 < b ∧ b ≤ 65535 ∧
    x.map.testBit (b - 1) = false ∧ f.flags.getLsbD 0 = true :=
  ⟨zSeal { frame 5 63 6 [] with flags := 1 }, heard { rx63 with gaps := [⟨6, 1⟩] }, by decide +kernel⟩

theorem witness_FramesAreSequenced_6 : ∃ (f : ZFrame) (s : State),
    (f.kind ≠ 3 ∨ (f ∉ s.ring.accepted ∧ s.accepts f = false)) :=
  ⟨frame 2 63 8 [], ready, by decide +kernel⟩

theorem witness_FramesAreSequenced_7 : ∃ (f : ZFrame) (s : State),
    (f.kind ≠ 4 ∨ (f ∉ s.ring.accepted ∧ s.accepts f = false)) :=
  ⟨frame 3 63 8 [], ready, by decide +kernel⟩

theorem witness_FramesAreSequenced_8 : ∃ (f : ZFrame) (s : State),
    (f.kind = 3 ∨ f.kind = 4) ∧ f ∉ s.ring.accepted ∧ f.src < 64 ∧ s.accepts f = true ∧
    ((s.rxSrc f.src).take f.seq).1 = .duplicate :=
  ⟨frame 3 63 7 [], heard rx63, by decide +kernel⟩

theorem witness_FramesAreSequenced_9_1 : ∃ (f : ZFrame) (s : State),
    f.kind = 3 ∧ f ∈ s.ring.accepted ∧ (f.payload.length < 16 ∨ s.mbxOpen = false) :=
  ⟨frame 3 63 8 [], arrived (frame 3 63 8 []) ready, by decide +kernel⟩

theorem witness_FramesAreSequenced_9_2 : ∃ (f : ZFrame) (s : State),
    f.kind = 3 ∧ f ∈ s.ring.accepted ∧ 16 ≤ f.payload.length ∧ s.mbxOpen = true ∧ s.gapBelow f = true :=
  ⟨frame 3 63 8 nopCmd, arrived (frame 3 63 8 nopCmd) (heard { rx63 with gaps := [⟨5, 2⟩] }), by decide +kernel⟩

theorem witness_FramesAreSequenced_9_3 : ∃ (f : ZFrame) (s : State),
    f.kind = 3 ∧ f ∈ s.ring.accepted ∧ 16 ≤ f.payload.length ∧ s.mbxOpen = true ∧ s.gapBelow f = false ∧
    s.ring.heldCmds = [] ∧ opKnown (fld f.payload 0 2) = true ∧ fld f.payload 4 4 + 16 = f.payload.length ∧
    (∀ o ∈ s.mbx.out, o.via = .ring f.src → o.tag ≠ (frameHdr f).tag) ∧
    (s.mbx.out.filter fun o => o.via == .ring f.src).length < 8 :=
  ⟨frame 3 63 8 nopCmd, arrived (frame 3 63 8 nopCmd) ready, by decide +kernel⟩

theorem witness_FramesAreSequenced_10 : ∃ (f : ZFrame) (o : Outst) (s : State),
    f.kind = 4 ∧ f ∈ s.ring.accepted ∧ 16 ≤ f.payload.length ∧ (o.via = .pcie ∨ o.via = .qspi) ∧
    s.mbx.out.find? (fun x => x.remote && x.tag.toNat = fld f.payload 8 4) = some o ∧ f.payload.length ≤ 256 * o.span :=
  ⟨rspFrame, rspOut, arrived rspFrame { ready with mbx := { ready.mbx with out := [rspOut] } }, by decide +kernel⟩

theorem witness_FramesAreSequenced_11 : ∃ (f : ZFrame) (s : State),
    f.kind = 4 ∧ f ∈ s.ring.accepted ∧
    (f.payload.length < 16 ∨
      s.mbx.out.find? (fun x => x.remote && x.tag.toNat = fld f.payload 8 4) = none) :=
  ⟨rspFrame, arrived rspFrame ready, by decide +kernel⟩

theorem witness_FramesAreSequenced_13_1 : ∃ (o : Nat) (g : Gap) (s : State),
    (s.rxSrc o).gaps = [g] ∧ 0 < g.count ∧ g.count < 2 ^ 32 ∧ s.ring.heldCmds = [] :=
  ⟨63, ⟨5, 2⟩, heard { rx63 with gaps := [⟨5, 2⟩] }, by decide +kernel⟩

theorem witness_FramesAreSequenced_14_1 : ∃ (o q : Nat) (g : Gap) (s : State),
    (s.rxSrc o).gaps = [g] ∧ g.has q = true ∧ g.count < 2 ^ 32 ∧ s.ring.heldCmds = [] :=
  ⟨63, 6, ⟨5, 2⟩, heard { rx63 with gaps := [⟨5, 2⟩] }, by decide +kernel⟩

theorem witness_FramesAreSequenced_15 : ∃ (o q : Nat) (s : State),
    (∀ g ∈ (s.rxSrc o).gaps, g.has q = false) :=
  ⟨63, 9, heard { rx63 with gaps := [⟨5, 2⟩] }, by decide +kernel⟩

theorem witness_FramesAreSequenced_16_1 : ∃ (o q : Nat) (g : Gap) (s : State),
    (s.rxSrc o).gaps.find? (fun x => x.has q) = some g ∧ s.engineOn = false :=
  ⟨63, 6, ⟨5, 2⟩, { heard { rx63 with gaps := [⟨5, 2⟩] } with fe := { ready.fe with a := .faulty } }, by decide +kernel⟩

theorem witness_FramesAreSequenced_16_2 : ∃ (o q : Nat) (g : Gap) (s : State),
    (s.rxSrc o).gaps.find? (fun x => x.has q) = some g ∧ s.engineOn = true :=
  ⟨63, 6, ⟨5, 2⟩, inRing (bothUp (heard { rx63 with gaps := [⟨5, 2⟩] })) fun r => { r with numbered := true },
    by decide +kernel⟩

theorem witness_FramesAreSequenced_16_3 : ∃ (o q : Nat) (g : Gap) (s : State),
    (s.rxSrc o).gaps.find? (fun x => x.has q) = some g ∧ s.engineOn = true ∧ s.bothWays = true ∧ o ≠ 0xFF :=
  ⟨63, 6, ⟨5, 2⟩, inRing (bothUp (heard { rx63 with gaps := [⟨5, 2⟩] })) fun r => { r with numbered := true },
    by decide +kernel⟩

/-! ### Witnesses: frame engines, host ports, DMA -/

def engines (f : Fe → Fe) : State := { rowing with fe := f rowing.fe }
/-- The first row of a frame cycle is in production. -/
def cycled (f : Fe → Fe) : State :=
  { rowing with flt := { rowing.flt with rows := { rowing.flt.rows with row := 1024 } }, fe := f rowing.fe }
def feRec : FeRec := ⟨0, 0, 0, 0, 0, 0, 0, 0, 0, false, false, 0, 0, [], 0, 0⟩

/-- The host link is up at generation 4, four lanes. -/
def hosted : State := { ready with host := { ready.host with gen := 4, width := 4, mps := 2 } }

/-- A MOVE of one line of 64 bytes to host address 0; `flags` 2 makes it the last of its list. -/
def moveDesc (op flags : Byte) : Bytes :=
  [op, flags, 0, 0] ++ zeros 4 ++ le 8 0 ++ le 8 0 ++ le 4 64 ++ le 4 0 ++ le 4 1 ++ le 4 64 ++ le 4 0 ++ le 4 1 ++ zeros 16
def channel (f : DmaCh → DmaCh) : State := hosted.updDma 15 f
/-- A running delivery channel for ROW frames, with a ring of 2^rsize bytes. -/
def delivering (rsize wr : Nat) : State :=
  channel fun c => { c with st := .running, delivery := true, kindMask := 2, rsize := rsize, wr := wr, rd := wr, thrCount := 1 }

theorem witness_FrameEnginesFailOver_1_1 : ∃ (s : State),
    s.rowOpen = true ∧ 0 < s.flt.rows.row ∧ s.flt.rows.row % 2 ^ s.pat.cycleM = 0 ∧ s.fe.active < 2 ∧ s.engineOn = true ∧
    s.fe.switchReq = false :=
  ⟨cycled id, by decide +kernel⟩

theorem witness_FrameEnginesFailOver_1_2 : ∃ (s : State),
    s.rowOpen = true ∧ 0 < s.flt.rows.row ∧ s.flt.rows.row % 2 ^ s.pat.cycleM = 0 ∧ s.fe.active < 2 ∧ s.engineOn = true ∧
    s.fe.switchReq = true ∧ s.fe.eng (1 - s.fe.active) = .ready ∧ s.fe.misses = 0 :=
  ⟨cycled fun e => { e with switchReq := true }, by decide +kernel⟩

theorem witness_FrameEnginesFailOver_2 : ∃ (s : State),
    (¬(s.rowOpen = true ∧ 0 < s.flt.rows.row ∧ s.flt.rows.row % 2 ^ s.pat.cycleM = 0)) :=
  ⟨ready, by decide +kernel⟩

theorem witness_FrameEnginesFailOver_3 : ∃ (r : FeRec) (s : State),
    s.fe.sentRec = some r :=
  ⟨feRec, engines fun e => { e with sentRec := some feRec }, by decide +kernel⟩

theorem witness_FrameEnginesFailOver_4 : ∃ (s : State),
    s.fe.sentRec = none :=
  ⟨rowing, by decide +kernel⟩

theorem witness_FrameEnginesFailOver_5 : ∃ (s : State),
    (s.fe.beatAt = some s.time.b2.val ∨ s.engineOn = false ∨ s.pm.binding.isSome = true ∨
      s.pm.emergency = true) :=
  ⟨engines fun e => { e with beatAt := some 0 }, by decide +kernel⟩

theorem witness_FrameEnginesFailOver_6 : ∃ (s : State),
    s.engineOn = true ∧ s.pm.binding = none ∧ s.pm.emergency = false ∧ s.fe.beatAt ≠ some s.time.b2.val ∧ s.fe.misses = 0 :=
  ⟨rowing, by decide +kernel⟩

theorem witness_FrameEnginesFailOver_7_1 : ∃ (s : State),
    s.engineOn = true ∧ s.pm.binding = none ∧ s.pm.emergency = false ∧ s.fe.beatAt ≠ some s.time.b2.val ∧
    s.fe.misses ≠ 0 ∧ s.fe.active < 2 ∧ s.fe.eng s.standby = .ready :=
  ⟨engines fun e => { e with misses := 1 }, by decide +kernel⟩

theorem witness_FrameEnginesFailOver_7_2 : ∃ (s : State),
    let agrees := s.takeoverAgrees ((s.fe.lastRec.map FeRec.gSeq).getD 0)
    s.engineOn = true ∧ s.pm.binding = none ∧ s.pm.emergency = false ∧ s.fe.beatAt ≠ some s.time.b2.val ∧
    s.fe.misses ≠ 0 ∧ s.fe.active < 2 ∧ s.fe.eng s.standby = .ready ∧ agrees = true :=
  ⟨engines fun e => { e with misses := 1 }, by decide +kernel⟩

theorem witness_FrameEnginesFailOver_7_3 : ∃ (s : State),
    s.engineOn = true ∧ s.pm.binding = none ∧ s.pm.emergency = false ∧ s.fe.beatAt ≠ some s.time.b2.val ∧
    s.fe.misses ≠ 0 ∧ s.fe.active < 2 ∧ s.fe.eng s.standby ≠ .ready :=
  ⟨engines fun e => { e with misses := 1, b := .faulty }, by decide +kernel⟩

theorem witness_FrameEnginesFailOver_8 : ∃ (e : Nat) (s : State),
    e < 2 ∧ s.fe.fence = some e :=
  ⟨1, engines fun e => { e with fence := some 1, b := .faulty }, by decide +kernel⟩

theorem witness_FrameEnginesFailOver_9 : ∃ (s : State),
    s.fe.fence = none :=
  ⟨rowing, by decide +kernel⟩

theorem witness_FrameEnginesFailOver_10 : ∃ (h : CmdHdr) (s : State),
    Accepted 0x0601 h [] s 0 = true :=
  ⟨hdr, rowing, by decide +kernel⟩

theorem witness_FrameEnginesFailOver_11 : ∃ (h : CmdHdr) (p : Bytes) (s : State),
    p.length = 1 ∧ fld p 0 1 < 2 ∧ Accepted 0x0602 h p s 0 = true :=
  ⟨hdr, [1], rowing, by decide +kernel⟩

theorem witness_FrameEnginesFailOver_12_1 : ∃ (e : Nat) (pass : Bool) (s : State),
    e < 2 ∧ s.fe.eng e = .selftest ∧ pass = false :=
  ⟨1, false, engines fun e => { e with b := .selftest }, by decide +kernel⟩

theorem witness_FrameEnginesFailOver_12_2 : ∃ (e : Nat) (pass : Bool) (s : State),
    e < 2 ∧ s.fe.eng e = .selftest ∧ pass = true ∧ s.engineOn = true :=
  ⟨1, true, engines fun e => { e with b := .selftest }, by decide +kernel⟩

theorem witness_FrameEnginesFailOver_12_3 : ∃ (e : Nat) (pass : Bool) (s : State),
    e < 2 ∧ s.fe.eng e = .selftest ∧ pass = true ∧ s.engineOn = false :=
  ⟨0, true, engines fun e => { e with a := .selftest, b := .faulty }, by decide +kernel⟩

theorem witness_FrameEnginesFailOver_13 : ∃ (e : Nat) (s : State),
    e < 2 ∧ s.fe.eng e = .resync ∧ s.engineOn = true :=
  ⟨1, engines fun e => { e with b := .resync }, by decide +kernel⟩

theorem witness_FrameEnginesFailOver_14_1 : ∃ (e : Nat) (s : State),
    s.fe.eng e ≠ .selftest :=
  ⟨1, rowing, by decide +kernel⟩

theorem witness_FrameEnginesFailOver_14_2 : ∃ (e : Nat) (s : State),
    s.fe.eng e ≠ .resync :=
  ⟨1, rowing, by decide +kernel⟩

theorem witness_FrameEnginesFailOver_15_1 : ∃ (s : State),
    s.fe.eng s.standby = .ready ∧ s.fe.recheck = false :=
  ⟨rowing, by decide +kernel⟩

theorem witness_FrameEnginesFailOver_15_2 : ∃ (s : State),
    s.fe.eng s.standby = .ready ∧ s.fe.recheck = true ∧ s.fe.active < 2 :=
  ⟨engines fun e => { e with recheck := true }, by decide +kernel⟩

theorem witness_FrameEnginesFailOver_16 : ∃ (s : State),
    s.fe.eng s.standby ≠ .ready :=
  ⟨engines fun e => { e with b := .resync }, by decide +kernel⟩

theorem witness_HostPortsServeTheMap_1_1 : ∃ (g : Nat) (w : Nat) (m : Nat) (s : State),
    s.linkOk = true ∧ s.hCap ≤ hostCap g w m :=
  ⟨4, 4, 0, { hosted with host := { hosted.host with gen := 1, width := 1, mps := 0 } }, by decide +kernel⟩

theorem witness_HostPortsServeTheMap_3_1 : ∃ (c : Instr) (s : State),
    s.linkOk = true ∧ (c = .hostLinkDown ∨ c = .pciePerst ∨ c = .hostFlr) ∧ c ≠ .hostFlr :=
  ⟨.hostLinkDown, hosted, by decide +kernel⟩

theorem witness_HostPortsServeTheMap_3_2 : ∃ (c : Instr) (s : State),
    s.linkOk = true ∧ (c = .hostLinkDown ∨ c = .pciePerst ∨ c = .hostFlr) ∧ c = .pciePerst :=
  ⟨.pciePerst, hosted, by decide +kernel⟩

theorem witness_HostPortsServeTheMap_4 : ∃ (s : State),
    s.linkOk = false :=
  ⟨ready, by decide +kernel⟩

theorem witness_HostPortsServeTheMap_6 : ∃ (port : HostPort) (s : State),
    (s.portOn port = false ∨ s.pm.recovery = true) :=
  ⟨.pcie, ready, by decide +kernel⟩

theorem witness_HostPortsServeTheMap_7_1 : ∃ (port : HostPort) (o : Nat) (d : Bytes) (u : State),
    u.portOn port = true ∧ u.pm.recovery = false ∧ ((d.length ≠ 4 ∧ d.length ≠ 8) ∨ o % d.length ≠ 0 ∨ 0x4000 ≤ o) :=
  ⟨.pcie, 2, [1, 2, 3], hosted, by decide +kernel⟩

theorem witness_HostPortsServeTheMap_7_2 : ∃ (port : HostPort) (o : Nat) (d : Bytes) (u : State),
    u.portOn port = true ∧ u.pm.recovery = false ∧ d.length = 4 ∧ o % 4 = 0 :=
  ⟨.pcie, 0x7FC, [1, 2, 3, 4], hosted.updBank .pcie fun b => { b with busy := 128 }, by decide +kernel⟩

theorem witness_HostPortsServeTheMap_7_3 : ∃ (port : HostPort) (o : Nat) (d : Bytes) (m : List (Nat × Bytes)) (u : State),
    let s := hostHolds u m
    let v := portVia port
    u.portOn port = true ∧ u.pm.recovery = false ∧ d.length = 4 ∧ o % 4 = 0 ∧ o < 0x800 ∧
    (s.bank v).busy.testBit (o / 256) = true :=
  ⟨.pcie, 0x7FC, [1, 2, 3, 4], [], hosted.updBank .pcie fun b => { b with busy := 128 }, by decide +kernel⟩

theorem witness_HostPortsServeTheMap_7_4 : ∃ (port : HostPort) (o : Nat) (d : Bytes) (m : List (Nat × Bytes)) (u : State),
    let s := hostHolds u m
    let v := portVia port
    u.portOn port = true ∧ u.pm.recovery = false ∧ d.length = 4 ∧ o % 4 = 0 ∧ o < 0x800 ∧
    (s.bank v).busy.testBit (o / 256) = false :=
  ⟨.qspi, 0x7FC, [1, 2, 3, 4], [], hosted, by decide +kernel⟩

theorem witness_HostPortsServeTheMap_7_5 : ∃ (port : HostPort) (o : Nat) (d : Bytes) (u : State),
    u.portOn port = true ∧ u.pm.recovery = false ∧ d.length = 4 ∧ o % 4 = 0 ∧ 0x800 ≤ o ∧ o < 0x1000 :=
  ⟨.pcie, 0xFFC, [1, 2, 3, 4], hosted, by decide +kernel⟩

theorem witness_HostPortsServeTheMap_7_6 : ∃ (port : HostPort) (o : Nat) (d : Bytes) (u : State),
    u.portOn port = true ∧ u.pm.recovery = false ∧ d.length = 4 ∧ o % 4 = 0 ∧ o = 0x1004 :=
  ⟨.pcie, 0x1004, [255, 255, 255, 255], hosted.updBank .pcie fun b => { b with terr := 255 }, by decide +kernel⟩

theorem witness_HostPortsServeTheMap_7_7 : ∃ (port : HostPort) (o : Nat) (d : Bytes) (u : State),
    u.portOn port = true ∧ u.pm.recovery = false ∧ d.length = 4 ∧ o % 4 = 0 ∧ o = 0x1050 :=
  ⟨.pcie, 0x1050, [255, 255, 255, 255], hosted, by decide +kernel⟩

theorem witness_HostPortsServeTheMap_7_8 : ∃ (port : HostPort) (o : Nat) (d : Bytes) (u : State),
    u.portOn port = true ∧ u.pm.recovery = false ∧ d.length = 4 ∧ o % 4 = 0 ∧ o = 0x1054 :=
  ⟨.qspi, 0x1054, [255, 0, 0, 0], { ready with host := { ready.host with qsPend := 511 } }, by decide +kernel⟩

theorem witness_HostPortsServeTheMap_7_9 : ∃ (port : HostPort) (o : Nat) (d : Bytes) (u : State),
    u.portOn port = true ∧ u.pm.recovery = false ∧ d.length = 4 ∧ o % 4 = 0 ∧ o = 0x1100 :=
  ⟨.pcie, 0x1100, [255, 255, 255, 255], { hosted with ic := { hosted.ic with hpend := 2 ^ 191 + 5 } }, by decide +kernel⟩

theorem witness_HostPortsServeTheMap_7_10 : ∃ (port : HostPort) (o : Nat) (d : Bytes) (u : State),
    u.portOn port = true ∧ u.pm.recovery = false ∧ d.length = 4 ∧ o % 4 = 0 ∧ 0x1200 ≤ o ∧ o < 0x2000 :=
  ⟨.pcie, 0x1FFC, [1, 2, 3, 4], hosted, by decide +kernel⟩

theorem witness_HostPortsServeTheMap_8_1 : ∃ (port : HostPort) (o : Nat) (s : State),
    s.portOn port = true ∧ o % 4 = 0 ∧ o < 0x4000 ∧ s.mapAt (portVia port) o = .cmd :=
  ⟨.pcie, 0x7FC, hosted, by decide +kernel⟩

theorem witness_HostPortsServeTheMap_8_2 : ∃ (port : HostPort) (o : Nat) (s : State),
    s.portOn port = true ∧ o % 4 = 0 ∧ o < 0x4000 ∧ s.mapAt (portVia port) o = .rsp :=
  ⟨.qspi, 0x800, ready, by decide +kernel⟩

theorem witness_HostPortsServeTheMap_8_3 : ∃ (port : HostPort) (o : Nat) (s : State),
    s.portOn port = true ∧ o % 4 = 0 ∧ o < 0x4000 ∧ (s.mapAt (portVia port) o = .hole ∨ s.mapAt (portVia port) o = .blank) :=
  ⟨.pcie, 0x1120, hosted, by decide +kernel⟩

theorem witness_HostPortsServeTheMap_9_1 : ∃ (port : HostPort) (o : Nat) (s : State),
    s.portOn port = true ∧ o % 8 = 0 ∧ o < 0x4000 ∧ o < 0x800 :=
  ⟨.pcie, 0x7F8, hosted, by decide +kernel⟩

theorem witness_HostPortsServeTheMap_10_1 : ∃ (port : HostPort) (s : State),
    s.portOn port = false :=
  ⟨.pcie, ready, by decide +kernel⟩

theorem witness_HostPortsServeTheMap_10_2 : ∃ (port : HostPort) (o z : Nat) (s : State),
    s.portOn port = true ∧ ((z ≠ 4 ∧ z ≠ 8) ∨ o % z ≠ 0 ∨ 0x4000 ≤ o) :=
  ⟨.qspi, 0x4000, 4, ready, by decide +kernel⟩

theorem witness_HostPortsServeTheMap_11 : ∃ (v : Nat),
    v < 32 :=
  ⟨31, by decide +kernel⟩

theorem witness_HostPortsServeTheMap_12 : ∃ (o n : Nat) (s : State),
    s.portOn .qspi = true ∧ o % 4 = 0 ∧ o + 4 * n ≤ 0x800 :=
  ⟨0x7FC, 1, ready, by decide +kernel⟩

theorem witness_HostPortsServeTheMap_13 : ∃ (o : Nat) (d : Bytes) (s : State),
    s.portOn .qspi = true ∧ s.pm.recovery = false ∧ o % 4 = 0 ∧ o < 0x800 ∧ d.length = 4 ∧
    s.mbx.qspi.busy.testBit (o / 256) = false :=
  ⟨0x7FC, [1, 2, 3, 4], ready, by decide +kernel⟩

theorem witness_DmaChannelsRun_1_1 : ∃ (n : Nat) (s : State),
    let c := s.dmaCh n
    n < 16 ∧ c.st ≠ .idle ∧ c.st ≠ .stopped :=
  ⟨15, channel fun c => { c with st := .running }, by decide +kernel⟩

theorem witness_DmaChannelsRun_1_2 : ∃ (n : Nat) (s : State),
    let c := s.dmaCh n
    n < 16 ∧ (c.st = .idle ∨ c.st = .stopped) :=
  ⟨15, hosted, by decide +kernel⟩

theorem witness_DmaChannelsRun_1_3 : ∃ (n : Nat) (s : State),
    let c := s.dmaCh n
    n < 16 ∧ (c.st = .idle ∨ c.st = .stopped) ∧ c.rsvSet = true :=
  ⟨15, channel fun c => { c with rsvSet := true }, by decide +kernel⟩

theorem witness_DmaChannelsRun_1_4 : ∃ (n : Nat) (s : State),
    let c := s.dmaCh n
    n < 16 ∧ (c.st = .idle ∨ c.st = .stopped) ∧ c.rsvSet = false ∧ s.linkOk = true :=
  ⟨15, hosted, by decide +kernel⟩

theorem witness_DmaChannelsRun_1_5 : ∃ (n : Nat) (s : State),
    let c := s.dmaCh n
    n < 16 ∧ (c.st = .idle ∨ c.st = .stopped) ∧ c.rsvSet = false ∧ s.linkOk = true ∧ c.delivery = true ∧
    s.kindTwice n = true :=
  ⟨15, (channel fun c => { c with delivery := true, kindMask := 2 }).updDma 0 fun c => { c with delivery := true, kindMask := 6 },
    by decide +kernel⟩

theorem witness_DmaChannelsRun_1_6 : ∃ (n : Nat) (s : State),
    let c := s.dmaCh n
    n < 16 ∧ (c.st = .idle ∨ c.st = .stopped) ∧ c.rsvSet = false ∧ s.linkOk = true ∧ c.delivery = true ∧
    s.kindTwice n = false :=
  ⟨15, channel fun c => { c with delivery := true, kindMask := 2 }, by decide +kernel⟩

theorem witness_DmaChannelsRun_1_7 : ∃ (n : Nat) (s : State),
    let c := s.dmaCh n
    n < 16 ∧ (c.st = .idle ∨ c.st = .stopped) ∧ c.rsvSet = false ∧ s.linkOk = true ∧ c.delivery = false ∧
    c.px64 = false ∧ c.desc % 64 = 0 :=
  ⟨15, hosted, by decide +kernel⟩

theorem witness_DmaChannelsRun_1_8 : ∃ (n : Nat) (d : Bytes) (s : State),
    let c := s.dmaCh n
    n < 16 ∧ (c.st = .idle ∨ c.st = .stopped) ∧ c.rsvSet = false ∧ s.linkOk = true ∧ c.delivery = false ∧
    c.px64 = false ∧ c.desc % 64 = 0 ∧ nativeOk d = false :=
  ⟨15, [], hosted, by decide +kernel⟩

theorem witness_DmaChannelsRun_1_9 : ∃ (n : Nat) (d : Bytes) (s : State),
    let c := s.dmaCh n
    n < 16 ∧ (c.st = .idle ∨ c.st = .stopped) ∧ c.rsvSet = false ∧ s.linkOk = true ∧ c.delivery = false ∧
    c.px64 = false ∧ c.desc % 64 = 0 ∧ nativeOk d = true ∧ fld d 0 1 ≠ 2 :=
  ⟨15, moveDesc 0 2, hosted, by decide +kernel⟩

theorem witness_DmaChannelsRun_2 : ∃ (n : Nat),
    n < 16 :=
  ⟨15, by decide +kernel⟩

theorem witness_DmaChannelsRun_3_1 : ∃ (n : Nat) (s : State),
    let c := s.dmaCh n
    n < 16 ∧ c.st ≠ .paused ∧ c.st ≠ .pausedPower :=
  ⟨15, hosted, by decide +kernel⟩

theorem witness_DmaChannelsRun_3_2 : ∃ (n : Nat) (s : State),
    let c := s.dmaCh n
    n < 16 ∧ (c.st = .paused ∨ c.st = .pausedPower) :=
  ⟨15, ready.updDma 15 fun c => { c with st := .paused }, by decide +kernel⟩

theorem witness_DmaChannelsRun_3_3 : ∃ (n : Nat) (s : State),
    let c := s.dmaCh n
    n < 16 ∧ (c.st = .paused ∨ c.st = .pausedPower) ∧ s.linkOk = false :=
  ⟨15, ready.updDma 15 fun c => { c with st := .paused }, by decide +kernel⟩

theorem witness_DmaChannelsRun_3_4 : ∃ (n : Nat) (s : State),
    let c := s.dmaCh n
    n < 16 ∧ (c.st = .paused ∨ c.st = .pausedPower) ∧ s.linkOk = true ∧ c.delivery = true :=
  ⟨15, channel fun c => { c with st := .paused, delivery := true }, by decide +kernel⟩

theorem witness_DmaChannelsRun_3_5 : ∃ (n : Nat) (s : State),
    let c := s.dmaCh n
    n < 16 ∧ (c.st = .paused ∨ c.st = .pausedPower) ∧ s.linkOk = true ∧ c.delivery = false ∧ c.px64 = false :=
  ⟨15, channel fun c => { c with st := .pausedPower }, by decide +kernel⟩

theorem witness_DmaChannelsRun_3_6 : ∃ (n : Nat) (d : Bytes) (s : State),
    let c := s.dmaCh n
    n < 16 ∧ (c.st = .paused ∨ c.st = .pausedPower) ∧ s.linkOk = true ∧ c.delivery = false ∧ c.px64 = false ∧
    nativeOk d = false :=
  ⟨15, [], channel fun c => { c with st := .pausedPower }, by decide +kernel⟩

theorem witness_DmaChannelsRun_3_7 : ∃ (n : Nat) (d : Bytes) (s : State),
    let c := s.dmaCh n
    n < 16 ∧ (c.st = .paused ∨ c.st = .pausedPower) ∧ s.linkOk = true ∧ c.delivery = false ∧ c.px64 = false ∧
    nativeOk d = true ∧ fld d 0 1 ≠ 2 :=
  ⟨15, moveDesc 0 2, channel fun c => { c with st := .pausedPower }, by decide +kernel⟩

theorem witness_DmaChannelsRun_4_1 : ∃ (n : Nat) (s : State),
    let st := (s.dmaCh n).st
    n < 16 ∧ (st = .running ∨ st = .pausing) :=
  ⟨15, channel fun c => { c with st := .running }, by decide +kernel⟩

theorem witness_DmaChannelsRun_4_2 : ∃ (n : Nat) (s : State),
    let st := (s.dmaCh n).st
    n < 16 ∧ (st = .paused ∨ st = .pausedPower) :=
  ⟨15, channel fun c => { c with st := .paused }, by decide +kernel⟩

theorem witness_DmaChannelsRun_4_3 : ∃ (n : Nat) (s : State),
    let st := (s.dmaCh n).st
    n < 16 ∧ (st = .idle ∨ st = .stopped ∨ st = .draining) :=
  ⟨15, channel fun c => { c with st := .draining }, by decide +kernel⟩

theorem witness_DmaChannelsRun_5 : ∃ (n : Nat),
    n < 16 :=
  ⟨15, by decide +kernel⟩

theorem witness_DmaChannelsRun_6_1 : ∃ (n : Nat) (s : State),
    let c := s.dmaCh n
    n < 16 ∧ (s.dmaCh n).delivery = false ∧ (s.dmaCh n).px64 = false ∧ (s.dmaCh n).op = 0 ∧ c.st = .pausing :=
  ⟨15, channel fun c => { c with st := .pausing, cur := moveDesc 0 2 }, by decide +kernel⟩

theorem witness_DmaChannelsRun_6_2 : ∃ (n : Nat) (s : State),
    let c := s.dmaCh n
    n < 16 ∧ (s.dmaCh n).delivery = false ∧ (s.dmaCh n).px64 = false ∧ (s.dmaCh n).op = 0 ∧ c.st = .draining :=
  ⟨15, channel fun c => { c with st := .draining, cur := moveDesc 0 2 }, by decide +kernel⟩

theorem witness_DmaChannelsRun_6_3 : ∃ (n : Nat) (s : State),
    let c := s.dmaCh n
    n < 16 ∧ (s.dmaCh n).delivery = false ∧ (s.dmaCh n).px64 = false ∧ (s.dmaCh n).op = 0 ∧ c.cur ≠ [] ∧ c.st = .running :=
  ⟨15, channel fun c => { c with st := .running, cur := moveDesc 0 2 }, by decide +kernel⟩

theorem witness_DmaChannelsRun_7_1 : ∃ (n : Nat) (e : KzEnd) (s : State),
    let c := s.dmaCh n
    n < 16 ∧ (s.dmaCh n).delivery = false ∧ (s.dmaCh n).px64 = false ∧ (s.dmaCh n).op = 1 ∧ (s.dmaCh n).cur ≠ [] ∧
    (s.dmaCh n).st = .running ∧ (s.dmaCh n).kz = some e ∧ e.result ≤ 1 ∧ c.isLast = true :=
  ⟨15, kzEnded, channel fun c => { c with st := .running, cur := moveDesc 1 2, kz := some kzEnded },
    by decide +kernel⟩

theorem witness_DmaChannelsRun_7_2 : ∃ (n : Nat) (e : KzEnd) (s : State),
    n < 16 ∧ (s.dmaCh n).delivery = false ∧ (s.dmaCh n).px64 = false ∧ (s.dmaCh n).op = 1 ∧ (s.dmaCh n).cur ≠ [] ∧
    (s.dmaCh n).st = .running ∧ (s.dmaCh n).kz = some e ∧ 1 < e.result :=
  ⟨15, { kzEnded with result := 6 }, channel fun c => { c with st := .running, cur := moveDesc 1 2, kz := some { kzEnded with result := 6 } },
    by decide +kernel⟩

theorem witness_DmaChannelsRun_8 : ∃ (n : Nat),
    n < 16 :=
  ⟨15, by decide +kernel⟩

theorem witness_DmaChannelsRun_9 : ∃ (f : ZFrame) (s : State),
    ((match s.deliveryCh f.kind with
      | none => true
      | some n => s.ring.numbered && f.src = s.ring.station && !s.wantsOwn n) = true) :=
  ⟨frame 2 63 8 [], delivering 12 0, by decide +kernel⟩

theorem witness_DmaChannelsRun_10_1 : ∃ (f : ZFrame) (n : Nat) (s : State),
    let c := s.dmaCh n
    let e := entryBytes f
    s.deliveryCh f.kind = some n ∧ s.takesEntry n f = true ∧
    (kindGuaranteed f.kind = false ∨ 64 ≤ f.src ∨ (s.ring.numbered = true ∧ f.src = s.ring.station ∧ s.isRoot = false)) ∧
    c.room e.length = true ∧ c.padFor e.length = 0 :=
  ⟨frame 1 64 8 [], 15, delivering 12 0, by decide +kernel⟩

theorem witness_DmaChannelsRun_10_2 : ∃ (f : ZFrame) (n : Nat) (s : State),
    let c := s.dmaCh n
    let e := entryBytes f
    s.deliveryCh f.kind = some n ∧ s.takesEntry n f = true ∧
    (kindGuaranteed f.kind = false ∨ 64 ≤ f.src ∨ (s.ring.numbered = true ∧ f.src = s.ring.station ∧ s.isRoot = false)) ∧
    c.room e.length = true ∧ c.padFor e.length ≠ 0 :=
  ⟨frame 1 64 8 (zeros 64), 15, delivering 12 4032, by decide +kernel⟩

theorem witness_DmaChannelsRun_10_3 : ∃ (f : ZFrame) (n : Nat) (s : State),
    let c := s.dmaCh n
    let e := entryBytes f
    s.deliveryCh f.kind = some n ∧ s.takesEntry n f = true ∧
    (kindGuaranteed f.kind = false ∨ 64 ≤ f.src ∨ (s.ring.numbered = true ∧ f.src = s.ring.station ∧ s.isRoot = false)) ∧
    c.room e.length = false :=
  ⟨frame 1 64 8 (zeros 64), 15, delivering 6 0, by decide +kernel⟩

theorem witness_DmaChannelsRun_11_1 : ∃ (i : Instr) (f : ZFrame) (n : Nat) (s : State),
    (i = .deliveryEntry f ∨ (i = .guaranteedFrameRx f ∧ s.accepts f = true)) ∧ s.deliveryCh f.kind = some n ∧
    s.takesEntry n f = true ∧ kindGuaranteed f.kind = true ∧ f.src < 64 ∧
    (¬(s.ring.numbered = true ∧ f.src = s.ring.station ∧ s.isRoot = false)) ∧ ((s.rxSrc f.src).take f.seq).1 = .duplicate :=
  ⟨.deliveryEntry (frame 1 63 7 []), frame 1 63 7 [], 15, (fun s : State => { s with ring := { s.ring with rx := [(63, rx63)] } }) (delivering 12 0),
    by decide +kernel⟩

theorem witness_DmaChannelsRun_11_2 : ∃ (i : Instr) (f : ZFrame) (n : Nat) (s : State),
    (i = .deliveryEntry f ∨ (i = .guaranteedFrameRx f ∧ s.accepts f = true)) ∧ s.deliveryCh f.kind = some n ∧
    s.takesEntry n f = true ∧ kindGuaranteed f.kind = true ∧ f.src < 64 ∧
    (¬(s.ring.numbered = true ∧ f.src = s.ring.station ∧ s.isRoot = false)) ∧
    ((s.rxSrc f.src).take f.seq).1 ≠ .duplicate ∧ s.canDeliver f = false :=
  ⟨.guaranteedFrameRx (frame 1 63 8 (zeros 64)), frame 1 63 8 (zeros 64), 15, (fun s : State => { s with ring := { s.ring with rx := [(63, rx63)] } }) (delivering 6 0),
    by decide +kernel⟩

theorem witness_DmaChannelsRun_11_3 : ∃ (i : Instr) (f : ZFrame) (n : Nat) (s : State),
    (i = .deliveryEntry f ∨ (i = .guaranteedFrameRx f ∧ s.accepts f = true)) ∧ s.deliveryCh f.kind = some n ∧
    s.takesEntry n f = true ∧ kindGuaranteed f.kind = true ∧ f.src < 64 ∧
    (¬(s.ring.numbered = true ∧ f.src = s.ring.station ∧ s.isRoot = false)) ∧ s.canDeliver f = true ∧
    (s.dmaCh n).padFor (entryBytes f).length = 0 ∧ (s.rxSrc f.src).started = true ∧ (s.rxSrc f.src).gaps = [] ∧
    seqDist f.seq (s.rxSrc f.src).high = 1 :=
  ⟨.guaranteedFrameRx (frame 1 63 8 []), frame 1 63 8 [], 15, (fun s : State => { s with ring := { s.ring with rx := [(63, rx63)] } }) (delivering 12 0),
    by decide +kernel⟩

theorem witness_DmaChannelsRun_12 : ∃ (n : Nat) (s : State),
    n < 16 ∧ (s.dmaCh n).delivery = true ∧ 0 < (s.dmaCh n).thrCount :=
  ⟨15, delivering 12 0, by decide +kernel⟩

/-! ### Witnesses: seal, trail, update -/

def sealing (f : Seal → Seal) : State := { ready with sec := f ready.sec }
def keyed : Tbl KeySlot := [(0, ⟨1, true, false⟩), (3, ⟨2, true, false⟩)]
def inLife (l : Lifecycle) : State := sealing fun x => { x with life := l, keys := keyed }
/-- LIFECYCLE_SET with the first four bytes given. -/
def lifePay (b : Bytes) : Bytes := b ++ zeros 196
def auditItem : QItem := ⟨List.replicate 16 0, true, false⟩
def intake (f : Seal → Seal) : State := { queued 4 fun x => { x with items := [auditItem] } with sec := f ready.sec }
def image : FwSlot := ⟨[], 256, 0, 0, 0⟩
def updating41 (c : Chrysalis) : State := sealing fun x => { x with updOwner := 0x41, chrysalis := c, slots := [(1, some image)] }
def writePay : Bytes := le 4 247 ++ zeros 4 ++ List.replicate 9 1

theorem witness_SealKeepsTheLifecycle_1 : ∃ (b : Bool) (n : Nat) (s : State),
    (s.sec.swOpen = b ∨ s.sec.swCount + n < 33) :=
  ⟨true, 32, ready, by decide +kernel⟩

theorem witness_SealKeepsTheLifecycle_2_1 : ∃ (b : Bool) (n : Nat) (s : State),
    s.sec.swOpen ≠ b ∧ 33 ≤ s.sec.swCount + n ∧ s.pm.st ≠ .cocoon ∧ s.pm.inReset = false ∧ b = false :=
  ⟨false, 40, sealing fun x => { x with swOpen := true }, by decide +kernel⟩

theorem witness_SealKeepsTheLifecycle_3 : ∃ (n : Nat) (s : State),
    s.sec.swOpen = false ∧ 33 ≤ s.sec.swCount + n ∧ (s.pm.st = .cocoon ∨ s.pm.inReset = true) :=
  ⟨33, powered (fun p => { p with st := .cocoon }) (inLife .sealed), by decide +kernel⟩

theorem witness_SealKeepsTheLifecycle_4 : ∃ (h : CmdHdr) (p : Bytes) (s : State),
    p.length = 200 ∧ fld p 0 4 = 2 ∧ allZero (slice p 4 64) = true ∧ allZero (slice p 68 132) = true ∧
    s.sec.life = .opened ∧ s.anyKey = true ∧ s.sec.swOpen = false ∧ s.mbx.pending = none ∧ s.mbx.wait = none ∧
    s.sec.fullSeen = false ∧ (auditGate (setLife (taken 0x0800 h p s) .sealed) 0x7001 0 1 2).1 = .accepted ∧
    Accepted 0x0800 h p s 4 = true :=
  ⟨hdr, lifePay [2, 0, 0, 0], inLife .opened, by decide +kernel⟩

theorem witness_SealKeepsTheLifecycle_5 : ∃ (h : CmdHdr) (p : Bytes) (s : State),
    p.length = 200 ∧ fld p 0 4 = 3 ∧ allZero (slice p 4 64) = true ∧ allZero (slice p 69 3) = true ∧
    s.sec.life = .sealed ∧ s.sec.authLock = false ∧ Accepted 0x0800 h p s 4 = true :=
  ⟨hdr, lifePay [3, 0, 0, 0], inLife .sealed, by decide +kernel⟩

theorem witness_SealKeepsTheLifecycle_6 : ∃ (h : CmdHdr) (p : Bytes) (s : State),
    p.length = 200 ∧ fld p 0 4 = 1 ∧ allZero (slice p 4 64) = true ∧ allZero (slice p 69 3) = true ∧
    s.sec.life = .blank ∧ s.sec.authLock = false ∧ Accepted 0x0800 h p s 4 = true :=
  ⟨hdr, lifePay [1, 0, 0, 0], inLife .blank, by decide +kernel⟩

theorem witness_SealKeepsTheLifecycle_7 : ∃ (h : CmdHdr) (p : Bytes) (s : State),
    p.length = 200 ∧ fld p 1 3 = 0 ∧ fld p 0 1 < 4 ∧ allZero (slice p 4 64) = true ∧ allZero (slice p 69 3) = true ∧
    Accepted 0x0800 h p s 4 = true ∧
    (¬((s.sec.life = .blank ∧ fld p 0 1 = 1) ∨ (s.sec.life = .opened ∧ fld p 0 1 = 2) ∨ (s.sec.life = .sealed ∧ fld p 0 1 = 3) ∨
      (s.sec.life = .service ∧ (fld p 0 1 = 1 ∨ fld p 0 1 = 2)))) :=
  ⟨hdr, lifePay [0, 0, 0, 0], inLife .opened, by decide +kernel⟩

theorem witness_SealKeepsTheLifecycle_8_1 : ∃ (h : CmdHdr) (p : Bytes) (s : State),
    p.length = 200 ∧ fld p 1 1 = 1 ∧ fld p 2 1 < 4 ∧ fld p 3 1 = 0 ∧ allZero (slice p 69 3) = true ∧
    fld p 0 1 = lifeCode s.sec.life ∧ Accepted 0x0800 h p s 4 = true ∧ s.sec.life = .sealed :=
  ⟨hdr, lifePay [2, 1, 0, 0], inLife .sealed, by decide +kernel⟩

theorem witness_SealKeepsTheLifecycle_8_2 : ∃ (h : CmdHdr) (p : Bytes) (s : State),
    let n := fld p 2 1
    p.length = 200 ∧ fld p 1 1 = 1 ∧ fld p 2 1 < 4 ∧ fld p 3 1 = 0 ∧ allZero (slice p 69 3) = true ∧
    fld p 0 1 = lifeCode s.sec.life ∧ Accepted 0x0800 h p s 4 = true ∧ s.sec.life ≠ .sealed ∧ (s.key n).filled = true :=
  ⟨hdr, lifePay [1, 1, 0, 0], inLife .opened, by decide +kernel⟩

theorem witness_SealKeepsTheLifecycle_8_3 : ∃ (h : CmdHdr) (p : Bytes) (s : State),
    let n := fld p 2 1
    let new : KeySlot := { s.key n with hash := keyHash (slice p 4 64), filled := true }
    p.length = 200 ∧ fld p 1 1 = 1 ∧ fld p 2 1 < 4 ∧ fld p 3 1 = 0 ∧ allZero (slice p 69 3) = true ∧
    fld p 0 1 = lifeCode s.sec.life ∧ Accepted 0x0800 h p s 4 = true ∧ (s.sec.life = .blank ∨ s.sec.life = .opened) ∧
    (s.key n).filled = false ∧ allZero (slice p 68 132) = true ∧
    (auditGate (setKey (taken 0x0800 h p s) n fun _ => new) 0x7012 n 0 (head8 new.hash)).1 = .accepted :=
  ⟨hdr, lifePay [1, 1, 2, 0], inLife .opened, by decide +kernel⟩

theorem witness_SealKeepsTheLifecycle_8_4 : ∃ (h : CmdHdr) (p : Bytes) (s : State),
    let n := fld p 2 1
    p.length = 200 ∧ fld p 1 1 = 1 ∧ fld p 2 1 < 4 ∧ fld p 3 1 = 0 ∧ allZero (slice p 69 3) = true ∧
    fld p 0 1 = lifeCode s.sec.life ∧ Accepted 0x0800 h p s 4 = true ∧ s.sec.life = .service ∧ (s.key n).filled = false ∧
    s.sec.authLock = false ∧
    (¬(fld p 68 1 ≠ n ∧ tokenOk (taken 0x0800 h p s) false 0x0800 (keyArg p) (slice p 68 132) = true)) :=
  ⟨hdr, lifePay [3, 1, 1, 0], inLife .service, by decide +kernel⟩

theorem witness_SealKeepsTheLifecycle_9 : ∃ (h : CmdHdr) (p : Bytes) (s : State),
    p.length = 200 ∧ fld p 1 1 = 2 ∧ fld p 2 1 < 4 ∧ fld p 3 1 = 0 ∧ allZero (slice p 4 64) = true ∧
    allZero (slice p 69 3) = true ∧ fld p 0 1 = lifeCode s.sec.life ∧ fld p 0 1 ≠ 2 ∧ s.sec.authLock = false ∧
    (s.key (fld p 2 1)).live = true ∧ 1 < ((List.range 4).filter fun i => (s.key i).live).length ∧
    Accepted 0x0800 h p s 4 = true :=
  ⟨hdr, lifePay [1, 2, 3, 0], inLife .opened, by decide +kernel⟩

theorem witness_SealKeepsTheLifecycle_10 : ∃ (h : CmdHdr) (s : State),
    Accepted 0x0801 h [] s 28 = true :=
  ⟨hdr, ready, by decide +kernel⟩

theorem witness_SealKeepsTheLifecycle_12_1 : ∃ (h : CmdHdr) (p : Bytes) (s : State),
    p.length = 136 ∧ fld p 0 4 < 3 ∧ allZero (slice p 5 3) = true ∧ Accepted 0x0808 h p s 0 = true ∧
    s.sec.life = .sealed ∧ fld p 0 1 = 2 :=
  ⟨hdr, [2, 0, 0, 0] ++ zeros 132, inLife .sealed, by decide +kernel⟩

theorem witness_SealKeepsTheLifecycle_12_2 : ∃ (h : CmdHdr) (p : Bytes) (s : State),
    p.length = 136 ∧ fld p 0 4 < 3 ∧ allZero (slice p 5 3) = true ∧ Accepted 0x0808 h p s 0 = true ∧
    needsToken s.sec.life (fld p 0 1) = false ∧ allZero (slice p 4 132) = true :=
  ⟨hdr, [1, 0, 0, 0] ++ zeros 132, inLife .opened, by decide +kernel⟩

theorem witness_SealKeepsTheLifecycle_12_3 : ∃ (h : CmdHdr) (p : Bytes) (s : State),
    p.length = 136 ∧ fld p 0 4 < 3 ∧ allZero (slice p 5 3) = true ∧ Accepted 0x0808 h p s 0 = true ∧
    needsToken s.sec.life (fld p 0 1) = true ∧ (¬(s.sec.life = .sealed ∧ fld p 0 1 = 2)) ∧ s.sec.authLock = false :=
  ⟨hdr, [1, 0, 0, 0] ++ zeros 132, inLife .sealed, by decide +kernel⟩

theorem witness_SealKeepsTheLifecycle_13 : ∃ (s : State),
    s.sec.granted ≠ 0 ∧ s.sec.debug ≠ s.sec.granted ∧ s.pm.st ≠ .cocoon ∧ s.pm.inReset = false :=
  ⟨sealing fun x => { x with granted := 2 }, by decide +kernel⟩

theorem witness_SealKeepsTheLifecycle_14 : ∃ (s : State),
    (s.sec.granted = 0 ∨ s.sec.debug = s.sec.granted ∨ s.pm.st = .cocoon ∨ s.pm.inReset = true) :=
  ⟨ready, by decide +kernel⟩

theorem witness_SealKeepsTheLifecycle_15 : ∃ (h : CmdHdr) (s : State),
    Accepted 0x0809 h [] s 108 = true :=
  ⟨hdr, ready, by decide +kernel⟩

theorem witness_TrailAndUpdate_1_1 : ∃ (i : QItem) (r : List QItem) (s : State),
    s.sec.trailSt = 0 ∧ (s.queue 4).items = i :: r ∧ i.complete = true ∧ (s.queue 4).stalled = [] ∧ s.serialHolder = 2 ∧
    s.sec.intakeShut = false ∧ s.sec.lostIntake = 0 ∧ s.sec.next ≠ 8189 :=
  ⟨auditItem, [], intake id, by decide +kernel⟩

theorem witness_TrailAndUpdate_1_2 : ∃ (i : QItem) (r : List QItem) (s : State),
    s.sec.trailSt = 0 ∧ (s.queue 4).items = i :: r ∧ i.complete = true ∧ (s.queue 4).stalled = [] ∧ s.serialHolder = 2 ∧
    s.sec.intakeShut = false ∧ s.sec.lostIntake = 0 ∧ s.sec.next = 8189 :=
  ⟨auditItem, [], intake fun x => { x with next := 8189 }, by decide +kernel⟩

theorem witness_TrailAndUpdate_2 : ∃ (i : QItem) (r : List QItem) (s : State),
    s.sec.trailSt = 1 ∧ s.sec.next ≠ 8191 ∧ (s.queue 4).items = i :: r ∧ i.complete = true ∧ (s.queue 4).stalled = [] ∧
    s.serialHolder = 2 ∧ s.sec.intakeShut = false ∧ s.sec.lostIntake = 0 :=
  ⟨auditItem, [], intake fun x => { x with trailSt := 1, next := 8190 }, by decide +kernel⟩

theorem witness_TrailAndUpdate_3 : ∃ (s : State),
    (s.sec.trailSt = 2 ∨ s.serialHolder ≠ 2 ∨
      (s.sec.intakeShut = true ∧ s.sec.finishing = false)) :=
  ⟨sealing fun x => { x with trailSt := 2 }, by decide +kernel⟩

theorem witness_TrailAndUpdate_5 : ∃ (h : CmdHdr) (p : Bytes) (s : State),
    let a := fld p 0 2
    let n := Nat.min (fld p 2 2) (8192 - a)
    let v := (List.range n).foldl (fun m i => bitSet m i (s.recordOk (a + i))) 0
    let img := le 2 a ++ le 2 n ++ le 2 s.sec.next ++ le 1 s.sec.trailSt ++ zeros 1 ++ le 4 v ++ zeros 4 ++
      ((List.range n).map fun i => s.trailAt (a + i)).flatten
    p.length = 4 ∧ fld p 0 2 < 8192 ∧ 1 ≤ fld p 2 2 ∧ fld p 2 2 ≤ 31 ∧ Accepted 0x0802 h p s img.length = true :=
  ⟨hdr, le 2 8161 ++ le 2 31, ready, by decide +kernel⟩

theorem witness_TrailAndUpdate_6 : ∃ (h : CmdHdr) (p : Bytes) (s : State),
    p.length = 132 ∧ allZero (slice p 1 3) = true ∧ s.sec.authLock = false ∧ Accepted 0x0803 h p s 0 = true :=
  ⟨hdr, zeros 132, inLife .sealed, by decide +kernel⟩

theorem witness_TrailAndUpdate_7_1 : ∃ (s : State),
    s.sec.trailSt = 2 ∧ s.serialHolder = 2 ∧ s.pm.emergency = false ∧ s.sec.life = .blank :=
  ⟨sealing fun x => { x with trailSt := 2, life := .blank }, by decide +kernel⟩

theorem witness_TrailAndUpdate_7_2 : ∃ (s : State),
    s.sec.trailSt = 2 ∧ s.serialHolder = 2 ∧ s.pm.emergency = false ∧ s.sec.life ≠ .blank :=
  ⟨sealing fun x => { x with trailSt := 2 }, by decide +kernel⟩

theorem witness_TrailAndUpdate_8 : ∃ (s : State),
    (s.sec.trailSt ≠ 2 ∨ s.serialHolder ≠ 2 ∨ s.pm.emergency = true) :=
  ⟨ready, by decide +kernel⟩

theorem witness_TrailAndUpdate_9 : ∃ (h : CmdHdr) (p : Bytes) (s : State),
    p.length = 8 ∧ 256 ≤ fld p 0 4 ∧ fld p 0 4 ≤ 8 * 2 ^ 20 ∧ allZero (slice p 4 4) = true ∧
    Accepted 0x0804 h p s 0 = true :=
  ⟨hdr, le 4 (8 * 2 ^ 20) ++ zeros 4, ready, by decide +kernel⟩

theorem witness_TrailAndUpdate_11 : ∃ (h : CmdHdr) (p : Bytes) (x : FwSlot) (s : State),
    9 ≤ p.length ∧ p.length ≤ 2032 ∧ allZero (slice p 4 4) = true ∧ s.sec.updOwner = viaTag h.via ∧ s.chImage = some x ∧
    Accepted 0x0805 h p s 0 = true :=
  ⟨hdr, writePay, image, updating41 .writing, by decide +kernel⟩

theorem witness_TrailAndUpdate_12 : ∃ (h : CmdHdr) (s : State),
    s.sec.updOwner = viaTag h.via ∧ Accepted 0x0806 h [] s 0 = true :=
  ⟨hdr, updating41 .writing, by decide +kernel⟩

theorem witness_TrailAndUpdate_13_1 : ∃ (h : CmdHdr) (p : Bytes) (s : State),
    9 ≤ p.length ∧ p.length ≤ 2032 ∧ allZero (slice p 4 4) = true ∧ s.sec.updOwner ≠ viaTag h.via ∧
    Accepted 0x0805 h p s 0 = true :=
  ⟨hdr, writePay, ready, by decide +kernel⟩

theorem witness_TrailAndUpdate_13_2 : ∃ (h : CmdHdr) (p : Bytes) (s : State),
    9 ≤ p.length ∧ p.length ≤ 2032 ∧ allZero (slice p 4 4) = true ∧ s.sec.updOwner ≠ viaTag h.via ∧
    Accepted 0x0806 h [] s 0 = true :=
  ⟨hdr, writePay, ready, by decide +kernel⟩

theorem witness_TrailAndUpdate_14_2 : ∃ (x : FwSlot) (s : State),
    s.sec.chrysalis = .verifying ∧ s.chImage = some x ∧ fwCheck s.sec.secMin x ≠ 0 :=
  ⟨image, updating41 .verifying, by decide +kernel⟩

theorem witness_TrailAndUpdate_15 : ∃ (s : State),
    s.sec.chrysalis ≠ .verifying :=
  ⟨ready, by decide +kernel⟩

theorem witness_TrailAndUpdate_16 : ∃ (h : CmdHdr) (p : Bytes) (s : State),
    p.length = 132 ∧ allZero p = true ∧ s.isSealed = false ∧ (s.sec.updOwner = 0 ∨ s.sec.updOwner = viaTag h.via) ∧
    s.sec.chrysalis = .verified ∧ s.mbx.pending = none ∧ s.sec.trailSt ≠ 2 ∧ s.serialShut 2 = false ∧
    (∀ x, s.sec.header = some x → x.1 + 1 < 2 ^ 32) ∧ Accepted 0x0807 h p s 0 = true ∧
    (auditGate (taken 0x0807 h p s) 0x7033 s.chSlot (head8 s.runningFwId) (head8 (s.fwImage s.chSlot).fwId)).1 = .accepted :=
  ⟨hdr, zeros 132, updating41 .verified, by decide +kernel⟩

theorem witness_TrailAndUpdate_17_1 : ∃ (h : CmdHdr) (p : Bytes) (s : State),
    p.length = 132 ∧ allZero (slice p 1 3) = true ∧ s.pm.resetReq = none ∧
    (s.sec.updOwner = 0 ∨ s.sec.updOwner = viaTag h.via) ∧ Accepted 0x0807 h p s 0 = true ∧ s.sec.chrysalis ≠ .verified :=
  ⟨hdr, zeros 132, ready, by decide +kernel⟩

theorem witness_TrailAndUpdate_17_2 : ∃ (h : CmdHdr) (p : Bytes) (s : State),
    p.length = 132 ∧ allZero (slice p 1 3) = true ∧ s.pm.resetReq = none ∧
    (s.sec.updOwner = 0 ∨ s.sec.updOwner = viaTag h.via) ∧ Accepted 0x0807 h p s 0 = true ∧ s.sec.chrysalis = .verified ∧
    s.mbx.pending = none ∧ s.sec.trailSt ≠ 2 ∧ s.serialShut 2 = false ∧ s.isSealed = true ∧ s.sec.authLock = false ∧
    tokenOk (taken 0x0807 h p s) false 0x0807 (head8 (s.fwImage s.chSlot).fwId) p = false :=
  ⟨hdr, zeros 132, sealedBy (updating41 .verified), by decide +kernel⟩

/-! ### The spec's worked examples -/

/-- Chapter 04, the chain of Lane 3: L = 45 rows, D_g = 21,194 f_MOD periods, which the model counts in steps of 10 ns. -/
theorem test_chain_of_lane_3 : (⟨4, 3, 1⟩ : Chain).l = 45 ∧ (⟨4, 3, 1⟩ : Chain).gdelay 10 * 10 = 21194 * 160 := by decide +kernel

/-- Chapter 06, the calibrated cell: GAIN 0x3FFD_318A and OFFSET 1,200,000, RESIDUAL 0. -/
theorem test_two_point_solve :
    let s := { ready with cal := { ready.cal with
      res := [(4, { CalRes.init with points := 3, mean0 := 1200000, mean1 := 1100900000 })] } }
    let v := solve s 4 false 0 1099511628
    v.reason = 0 ∧ v.gain = 0x3FFD318A ∧ v.offset = 1200000 ∧ v.residual = 0 := by decide +kernel

/-- Chapter 05, the two-platform weighbridge: the W64 stitch of WP00. -/
theorem test_w64_stitch : w64 0x46902400 0x10 0x26_25A0 = 0x46902400102625A0 := by decide +kernel

/-- Chapter 09, the conformance stream: 57 bytes that give 32 bytes of 0xFF, and their CRC-32C. -/
theorem test_conformance_stream :
    kzExpand ([0x4B, 0x5A, 0x53, 0x01, 0x00, 0x01, 0x00, 0x00, 0x20, 0x00, 0x00, 0x00, 0x00, 0x00, 0x00, 0x00] ++
      [0x02, 0x01, 0x01, 0x00, 0x00, 0x00, 0x00, 0x00, 0x20, 0x00, 0x00, 0x00, 0x05, 0x00, 0x00, 0x00, 0x43, 0xAB, 0xA8, 0x62] ++
      [0x5F, 0xF1, 0x28, 0x00, 0x38] ++
      [0x0E, 0x00, 0x00, 0x00, 0x43, 0xAB, 0xA8, 0x62, 0x20, 0x00, 0x00, 0x00, 0x00, 0x00, 0x00, 0x00]) =
      some (List.replicate 32 0xFF) ∧ crc32c (List.replicate 32 0xFF) = 0x62A8AB43 := by decide +kernel

/-- Chapter 03, the twelve-cell silo row: OFFSET and DURATION of entry 5, and SCAN_PERIOD. -/
def silo : State :=
  let s := setPat ready sAuxScan 0 ([12, 0, 0, 0] ++ (List.replicate 12 [0, 0xB0, 100, 0]).flatten ++ zeros 208)
  { s with flt := { s.flt with chain := { s.flt.chain with k := 20 } } }
theorem test_aux_schedule :
    silo.pat.auxCount 0 = 12 ∧ silo.pat.auxDur 0 5 = 20580000 ∧ silo.pat.auxOfs 0 5 = 102900000 ∧
      silo.scanPeriod 0 = 251658240 := by decide +kernel

/-- Chapter 07, the four-lane station: with its offsets in the nearest 1/256 ns (819, −474, 845) the proposal is 2.5508 ns. -/
theorem test_asymmetry :
    let s := { ready with time := { ready.time with asym := some ⟨1, 2, 0, some 0, 845, 1⟩, zb := { ready.time.zb with ofs0 := 819, ofs1 := -474 } } }
    Completes (.asymPhaseDone) s fun t => (t.tbPort 1).proposal = 167168 := ⟨_, rfl, by decide +kernel⟩

/-- Chapter 14, the inductive loop: source 51 with COUNT 2 is claimed as 0x0233. -/
theorem test_claim_counted :
    let s := { ready with ic := { ready.ic with pend := 2 ^ 51, counts := [(51, 2)], cmask := 2 ^ 192 - 1 } }
    Completes (.icClaim false) s fun t => t.ic.claim = 0x0233 ∧ t.ic.counts = [] := ⟨_, rfl, by decide +kernel⟩

/-- Chapter 14, the inductive loop: with DI_CFG 14 02 00 00 a rise of DI3 counts once and its fall fires nothing. -/
theorem test_inductive_loop :
    let s := setPat ready sDi 3 [0x14, 0x02, 0, 0]
    Completes (.diEdge 3 true 20) s (fun t => t.ic.counts = [(51, 1)] ∧ t.ic.diRise = 8) ∧
      Completes (.diEdge 3 false 20) { s with ic := { s.ic with diLevel := 8 } } (fun t => t.ic.counts = [] ∧ t.ic.diFall = 8) :=
  ⟨⟨_, rfl, by decide +kernel⟩, ⟨_, rfl, by decide +kernel⟩⟩

/-- Chapter 16, the heatsink: 15,386 at element 0 is STATE 1, with no alarm. -/
theorem test_heatsink :
    Completes (.sensorUpdate [(0, 0), (0, 0), (15386, 0)]) ready fun t =>
      (Tbl.get Sensor.init t.pm.sensors 2).st = 1 ∧ (Tbl.get Sensor.init t.pm.sensors 2).alarms = 0 ∧
        (Tbl.get Sensor.init t.pm.sensors 2).value = 0x3C1A := ⟨_, rfl, by decide +kernel⟩

/-! ### Single commands -/

/-- A NOP is answered OK with its header (R491, R464). -/
theorem test_nop : Completes (.nop hdr []) ready fun t => Answers t 1 hdr 0 0 [] ∧ t.mbx.out = [] :=
  ⟨_, rfl, by unfold Answers; decide +kernel⟩

/-- A payload of the wrong length is BAD_PARAM with DETAIL 0xFFFC (R470). -/
theorem test_wrong_length : Completes (.nop hdr [0]) ready fun t => Answers t 1 hdr 3 0xFFFC [] :=
  ⟨_, rfl, by unfold Answers; decide +kernel⟩

/-- EXC_SHORT of a regulating driver parks it and holds WFT (R91). -/
theorem test_exc_short : Completes (.excShort 31 0) (drv 31 .regulating) fun t =>
    (t.cluster 31).drv.st = .shortParked ∧ (t.cluster 31).drv.wftHold = true ∧ t.flt.wfLast.kind = 0x2001 :=
  ⟨_, rfl, by decide +kernel⟩

/-- The opening of a sealed device's switch breaks the seal at once (R526). -/
theorem test_seal_switch : Completes (.sealSwChange true 33) (sealing fun x => { x with life := .sealed }) fun t =>
    t.sec.life = .service ∧ t.sec.fuses = 1 := ⟨_, rfl, by decide +kernel⟩

/-- A HELLO of a root with a lower UID, for a device whose UID, which is Config's own, is not the lowest there is. -/
theorem witness_LinksComeUpAndBreak_7_1 (h : 0 < Config.uid.toNat) : ∃ (p : Nat) (m : HelloMsg) (s : State),
    p < 2 ∧ ((s.port p).st = .blockLock ∨ (s.port p).st = .hello) ∧ m.root = true ∧ s.isRoot = true ∧ s.portRole 0 = 0 ∧
    s.portRole 1 = 0 ∧ m.uid.toNat < Config.uid.toNat :=
  ⟨0, { msg 2 3 with root := true, uid := 0 }, inRing root fun r => { r with za := { r.za with st := .hello } },
    by and_intros <;> first | exact h | decide +kernel⟩

end Sys2Proof.Tests
end

/-!
PROOF. Spare rotation gives the spare a correction set (O15), and what the auxiliary converters and the temperature sensors
leave behind (O17). First the rules about the tables and the shared operations that both rest on.
-/
namespace Sys2Proof.Machine

/-! ### Tables: looking an entry up after `put`, reading after `setRun` -/

theorem Tbl.find?_put_self {α : Type} (t : Tbl α) (k : Nat) (v : α) :
    (Tbl.put t k v).find? (·.1 == k) = some (k, v) := by
  induction t with
  | nil => simp [Tbl.put]
  | cons e r ih =>
    simp only [Tbl.put]
    split
    · simp
    · split
      · simp
      · next hne => rw [List.find?_cons_of_neg (by simpa using Ne.symm hne), ih]

theorem Tbl.find?_put_ne {α : Type} (t : Tbl α) {k j : Nat} (v : α) (h : j ≠ k) :
    (Tbl.put t k v).find? (·.1 == j) = t.find? (·.1 == j) := by
  have skip : ∀ (e : Nat × α) (r : Tbl α), e.1 = k → (e :: r).find? (·.1 == j) = r.find? (·.1 == j) := fun e r hk =>
    List.find?_cons_of_neg (by simpa [hk] using Ne.symm h)
  induction t with
  | nil => exact skip _ _ rfl
  | cons e r ih =>
    simp only [Tbl.put]
    split
    · exact skip _ _ rfl
    · split
      · next heq => rw [skip _ r rfl, skip e r heq.symm]
      · simp only [List.find?_cons, ih]

theorem Tbl.get_setRun_lt {α : Type} [DecidableEq α] (d : α) (vs : List α) (t : Tbl α) {k j : Nat} (h : j < k) :
    Tbl.get d (Tbl.setRun d t k vs) j = Tbl.get d t j := by
  induction vs generalizing t k with
  | nil => rfl
  | cons v r ih => rw [Tbl.setRun, ih _ (by omega), Tbl.get_set_ne _ _ _ (by omega)]

/-- A run reads as it was written, and what lies behind its end as before. -/
theorem Tbl.get_setRun_add {α : Type} [DecidableEq α] (d : α) (vs : List α) (t : Tbl α) (k n : Nat) :
    Tbl.get d (Tbl.setRun d t k vs) (k + n) = (vs[n]?).getD (Tbl.get d t (k + n)) := by
  induction vs generalizing t k n with
  | nil => rfl
  | cons v r ih =>
    rw [Tbl.setRun]
    cases n with
    | zero => rw [Tbl.get_setRun_lt _ _ _ (by omega)]; simp
    | succ n =>
      rw [show k + (n + 1) = (k + 1) + n by omega, ih, Tbl.get_set_ne _ _ _ (by omega)]
      simp

variable (s : State)

/-! ### Correction sets and chains -/

@[simp] theorem State.setCorr_corrSet (sl g : Nat) (c : CorrSet) : (s.setCorr sl g c).corrSet sl g = c := by
  simp only [State.corrSet, State.setCorr, Tbl.find?_put_self]

theorem State.setCorr_corrSet_ne {sl g sl' g' : Nat} (c : CorrSet) (h : 8 * sl' + g' ≠ 8 * sl + g) :
    (s.setCorr sl g c).corrSet sl' g' = s.corrSet sl' g' := by
  simp only [State.corrSet, State.setCorr, Tbl.find?_put_ne _ _ h]

@[simp] theorem State.updRot_corrSet (cl sl g : Nat) (f : Rot → Rot) : (s.updRot cl f).corrSet sl g = s.corrSet sl g := rfl

/-! ### Spare rotation: the ladder and the settling spare -/

@[simp] theorem dropLadder_corrSet (cl sl g : Nat) : (dropLadder s cl).corrSet sl g = s.corrSet sl g := rfl

theorem dropLadder_holder_ne (cl : Nat) : ((dropLadder s cl).ladder (clRegion cl)).holder ≠ some cl := by
  simp only [dropLadder, State.updLadder_ladder]
  split
  · simp
  · assumption

theorem dropLadder_ladder_ne {cl rg : Nat} (h : rg ≠ clRegion cl) : (dropLadder s cl).ladder rg = s.ladder rg :=
  State.updLadder_ladder_ne _ _ h

@[simp] theorem restartChains_cluster (sls : List Nat) (x : Nat) : (restartChains s sls).cluster x = s.cluster x := rfl

theorem restartChains_one_chainMem (sl : Nat) : (restartChains s [sl]).chainMem sl = ChainMem.clear := by
  simp [restartChains, State.chainMem]

theorem restartChains_one_quadMem (sl : Nat) : (restartChains s [sl]).quadMem sl = ChainMem.clear := by
  simp [restartChains, State.quadMem]

theorem settle_cluster (cl : Nat) : (settle s cl).cluster cl = { s.cluster cl with rot := { (s.cluster cl).rot with
    phase := .settle, step := { (s.cluster cl).rot.step with waiting := false, settleAt := s.flt.rows.row } } } := by
  rw [settle, restartChains_cluster, State.updRot_cluster]

theorem settle_cluster_ne {cl x : Nat} (h : x ≠ cl) : (settle s cl).cluster x = s.cluster x := by
  rw [settle, restartChains_cluster, State.updRot_cluster_ne _ _ h]

@[simp] theorem settle_chainMem (cl : Nat) : (settle s cl).chainMem (s.spareSlice cl) = ChainMem.clear :=
  restartChains_one_chainMem ..

@[simp] theorem settle_quadMem (cl : Nat) : (settle s cl).quadMem (s.spareSlice cl) = ChainMem.clear :=
  restartChains_one_quadMem ..

/-! ### Spare rotation: a plausible set is kept (R120) -/

/-- The ladder is given back, the spare holds the set `c`, dated now, and its measurement is done. -/
def keepCal (cl : Nat) (c : CorrSet) : State :=
  ((dropLadder s cl).setCorr (s.spareSlice cl) (s.cluster cl).rot.step.gain { c with calAt := some s.time.b2.val }).updRot cl
    fun r => { r with step := { r.step with meas := .done } }

/-- The spare waits in OPEN with its new set (R127). -/
def waitFrozen (cl : Nat) : State :=
  s.updRot cl fun r => { r with phase := .frozen, step := { r.step with waiting := true } }

theorem waitFrozen_cluster (cl : Nat) : (waitFrozen s cl).cluster cl = { s.cluster cl with rot := { (s.cluster cl).rot with
    phase := .frozen, step := { (s.cluster cl).rot.step with waiting := true } } } := State.updRot_cluster ..

theorem waitFrozen_cluster_ne {cl x : Nat} (h : x ≠ cl) : (waitFrozen s cl).cluster x = s.cluster x :=
  State.updRot_cluster_ne _ _ h

@[simp] theorem keepCal_corrSet (cl : Nat) (c : CorrSet) :
    (keepCal s cl c).corrSet (s.spareSlice cl) (s.cluster cl).rot.step.gain = { c with calAt := some s.time.b2.val } := by
  simp only [keepCal, State.updRot_corrSet, State.setCorr_corrSet]

theorem keepCal_corrSet_ne {cl sl g : Nat} (c : CorrSet)
    (h : 8 * sl + g ≠ 8 * s.spareSlice cl + (s.cluster cl).rot.step.gain) : (keepCal s cl c).corrSet sl g = s.corrSet sl g := by
  simp only [keepCal, State.updRot_corrSet, State.setCorr_corrSet_ne _ _ h, dropLadder_corrSet]

theorem keepCal_holder_ne (cl : Nat) (c : CorrSet) : ((keepCal s cl c).ladder (clRegion cl)).holder ≠ some cl :=
  dropLadder_holder_ne s cl

theorem keepCal_ladder_ne {cl rg : Nat} (c : CorrSet) (h : rg ≠ clRegion cl) : (keepCal s cl c).ladder rg = s.ladder rg :=
  dropLadder_ladder_ne s h

theorem keepCal_cluster (cl : Nat) (c : CorrSet) : (keepCal s cl c).cluster cl = { s.cluster cl with
    rot := { (s.cluster cl).rot with step := { (s.cluster cl).rot.step with meas := .done } } } :=
  State.updRot_cluster ..

theorem keepCal_cluster_ne {cl x : Nat} (c : CorrSet) (h : x ≠ cl) : (keepCal s cl c).cluster x = s.cluster x :=
  State.updRot_cluster_ne _ _ h

theorem keepCal_spareSlice (cl : Nat) (c : CorrSet) : (keepCal s cl c).spareSlice cl = s.spareSlice cl := by
  simp only [State.spareSlice, keepCal_cluster]

/-- What keeping a set may change: clusters, ladders, correction sets and chains. -/
def OnlyCorr (s t : State) : Prop :=
  t = { s with flt := { s.flt with clusters := t.flt.clusters, ladders := t.flt.ladders, corr := t.flt.corr
                                   chainI := t.flt.chainI, chainQ := t.flt.chainQ } }

theorem onlyCorr_iff {s t : State} : OnlyCorr s t ↔ ∃ clusters ladders corr chainI chainQ,
    t = { s with flt := { s.flt with clusters := clusters, ladders := ladders, corr := corr
                                     chainI := chainI, chainQ := chainQ } } :=
  ⟨fun h => ⟨_, _, _, _, _, h⟩, by rintro ⟨_, _, _, _, _, rfl⟩; rfl⟩

theorem OnlyCorr.trans {s t u : State} (a : OnlyCorr s t) (b : OnlyCorr t u) : OnlyCorr s u := by
  rw [onlyCorr_iff] at *
  obtain ⟨_, _, _, _, _, rfl⟩ := a
  obtain ⟨_, _, _, _, _, rfl⟩ := b
  exact ⟨_, _, _, _, _, rfl⟩

theorem keepCal_only (cl : Nat) (c : CorrSet) : OnlyCorr s (keepCal s cl c) := rfl
theorem waitFrozen_only (cl : Nat) : OnlyCorr s (waitFrozen s cl) := rfl
theorem settle_only (cl : Nat) : OnlyCorr s (settle s cl) := rfl

/-- ROT_CAL_DONE with a plausible set, while the spare is frozen or its target still has the gain of the step. -/
theorem exec_rotCalDone_plausible {cl : Nat} {c : CorrSet} (ready : s.calReady cl = true)
    (hc : calResult (s.cluster cl).rot.step.sums (s.measPhases cl = 3)
      (s.corrSet (s.spareSlice cl) (s.cluster cl).rot.step.gain) = c)
    (ok : corrOk c.offset c.gain c.phase = true)
    (goes : s.rotFrozen cl = true ∨ (s.cluster cl).rot.step.gain = s.pat.gain (8 * cl + (s.cluster cl).rot.target)) :
    exec (.rotCalDone cl) s =
      .next (if s.rotFrozen cl then waitFrozen (keepCal s cl c) cl else settle (keepCal s cl c) cl) := by
  have frozen : (keepCal s cl c).rotFrozen cl = s.rotFrozen cl := rfl
  have pat : (keepCal s cl c).pat = s.pat := rfl
  show execRotCalDone cl s = _
  simp only [execRotCalDone, ready, hc, ok, if_true]
  show Host.Outcome.next (if (keepCal s cl c).rotFrozen cl then waitFrozen (keepCal s cl c) cl
    else if (s.cluster cl).rot.step.gain = (keepCal s cl c).pat.gain (8 * cl + (s.cluster cl).rot.target) then
      settle (keepCal s cl c) cl
    else beginStep (keepCal s cl c) cl (s.cluster cl).rot.target) = _
  rw [frozen, pat]
  rcases goes with fz | g
  · simp only [fz, if_true]
  · rw [if_pos g]

/-! ### Spare rotation: an implausible set counts as a failure (R121) -/

theorem OnlyReports.cluster {s t : State} (h : OnlyReports s t) (x : Nat) : t.cluster x = s.cluster x := by
  rw [State.cluster, h.flt, State.cluster]

theorem OnlyReports.slice {s t : State} (h : OnlyReports s t) (x : Nat) : t.slice x = s.slice x := by
  rw [State.slice, h.flt, State.slice]

theorem rotEvent_only (cl code subj arg : Nat) : OnlyReports s (rotEvent s cl code subj arg) := emitFrom_only ..

theorem calLimit_only (sl g : Nat) (offset : Int) (gain : Nat) : OnlyReports s (calLimit s sl g offset gain) :=
  rotEvent_only ..

/-- The frame of a rotation step that ends: clusters, ladders, slices, a lease's lapsed fault, and what reporting changes. -/
def OnlyRotation (s t : State) : Prop :=
  OnlyReports { s with flt := { s.flt with clusters := t.flt.clusters, ladders := t.flt.ladders, slices := t.flt.slices }
                       leases := { s.leases with faulty := t.leases.faulty } } t

theorem onlyRotation_iff {s t : State} : OnlyRotation s t ↔ ∃ clusters ladders slices faulty ic host queues,
    t = { s with flt := { s.flt with clusters := clusters, ladders := ladders, slices := slices }
                 leases := { s.leases with faulty := faulty }, ic := ic, host := host, queues := queues } :=
  ⟨fun h => ⟨_, _, _, _, _, _, _, h⟩, by rintro ⟨_, _, _, _, _, _, _, rfl⟩; rfl⟩

theorem OnlyRotation.trans {s t u : State} (a : OnlyRotation s t) (b : OnlyRotation t u) : OnlyRotation s u := by
  rw [onlyRotation_iff] at *
  obtain ⟨_, _, _, _, _, _, _, rfl⟩ := a
  obtain ⟨_, _, _, _, _, _, _, rfl⟩ := b
  exact ⟨_, _, _, _, _, _, _, rfl⟩

theorem updSlice_rotation (n : Nat) (f : Slice → Slice) : OnlyRotation s (s.updSlice n f) := rfl
theorem updCluster_rotation (n : Nat) (f : Cluster → Cluster) : OnlyRotation s (s.updCluster n f) := rfl

theorem OnlyReports.rotation {s t : State} (h : OnlyReports s t) : OnlyRotation s t := by
  unfold OnlyRotation
  rw [h.flt, h.leases]
  exact h

/-- Of clusters and slices, only the rotation of cluster `cl` differs. -/
structure OnlyRot (cl : Nat) (s t : State) : Prop where
  only : OnlyRotation s t
  cluster_ne : ∀ x ≠ cl, t.cluster x = s.cluster x
  cluster : t.cluster cl = { s.cluster cl with rot := (t.cluster cl).rot }
  slice : ∀ x, t.slice x = s.slice x

theorem OnlyRot.trans {cl : Nat} {s t u : State} (a : OnlyRot cl s t) (b : OnlyRot cl t u) : OnlyRot cl s u where
  only := a.only.trans b.only
  cluster_ne x hx := (b.cluster_ne x hx).trans (a.cluster_ne x hx)
  cluster := by rw [b.cluster, a.cluster]
  slice x := (b.slice x).trans (a.slice x)

theorem OnlyReports.rot {s t : State} (cl : Nat) (h : OnlyReports s t) : OnlyRot cl s t where
  only := h.rotation
  cluster_ne x _ := h.cluster x
  cluster := by rw [h.cluster]
  slice := h.slice

theorem updRot_rot (cl : Nat) (f : Rot → Rot) : OnlyRot cl s (s.updRot cl f) where
  only := rfl
  cluster_ne _ hx := State.updRot_cluster_ne _ _ hx
  cluster := by rw [State.updRot_cluster]
  slice _ := rfl

theorem dropLadder_rot (cl : Nat) : OnlyRot cl s (dropLadder s cl) := ⟨rfl, fun _ _ => rfl, rfl, fun _ => rfl⟩

theorem endLease_rot (cl : Nat) : OnlyRot cl s (endLease s cl) := ⟨rfl, fun _ _ => rfl, rfl, fun _ => rfl⟩

/-- A step begins: of clusters and slices only the rotation of its own cluster changes. -/
theorem beginStep_rot (cl from_ : Nat) : OnlyRot cl s (beginStep s cl from_) := by
  have cleared : OnlyRot cl s ((endLease (dropLadder s cl) cl).updRot cl fun r =>
      { r with target := ((endLease (dropLadder s cl) cl).nextTarget cl from_).getD (from_ % 8)
               step := RotStep.init, ended := false }) :=
    ((dropLadder_rot s cl).trans (endLease_rot _ cl)).trans (updRot_rot _ cl _)
  unfold beginStep
  dsimp only
  repeat' split
  all_goals exact cleared.trans (updRot_rot _ cl _)

/-- The spare slice of cluster `cl` has counted one failure more (R121, R125): the third makes it SUSPECT, and no spare. -/
structure FailureCounted (cl : Nat) (s t : State) : Prop where
  only : OnlyRotation s t
  cluster_ne : ∀ x ≠ cl, t.cluster x = s.cluster x
  cluster : t.cluster cl = { s.cluster cl with
    spareValid := (s.cluster cl).spareValid && !decide (2 ≤ (s.slice (s.spareSlice cl)).fails), rot := (t.cluster cl).rot }
  slice_ne : ∀ x ≠ s.spareSlice cl, t.slice x = s.slice x
  slice : t.slice (s.spareSlice cl) = { s.slice (s.spareSlice cl) with
    fails := (s.slice (s.spareSlice cl)).fails + 1
    suspect := (s.slice (s.spareSlice cl)).suspect || decide (2 ≤ (s.slice (s.spareSlice cl)).fails) }

theorem OnlyRot.spareSlice {cl : Nat} {s t : State} (h : OnlyRot cl s t) : t.spareSlice cl = s.spareSlice cl := by
  rw [State.spareSlice, h.cluster, State.spareSlice]

theorem FailureCounted.after_rot {cl : Nat} {s t u : State} (a : OnlyRot cl s t) (b : FailureCounted cl t u) :
    FailureCounted cl s u where
  only := a.only.trans b.only
  cluster_ne x hx := (b.cluster_ne x hx).trans (a.cluster_ne x hx)
  cluster := by rw [b.cluster, a.cluster, a.spareSlice, a.slice]
  slice_ne x hx := (b.slice_ne x (a.spareSlice ▸ hx)).trans (a.slice x)
  slice := by rw [← a.slice, ← a.spareSlice]; exact b.slice

theorem FailureCounted.then_rot {cl : Nat} {s t u : State} (a : FailureCounted cl s t) (b : OnlyRot cl t u) :
    FailureCounted cl s u where
  only := a.only.trans b.only
  cluster_ne x hx := (b.cluster_ne x hx).trans (a.cluster_ne x hx)
  cluster := by rw [b.cluster, a.cluster]
  slice_ne x hx := (b.slice x).trans (a.slice_ne x hx)
  slice := (b.slice _).trans a.slice

theorem countFailure_counted (cl : Nat) : FailureCounted cl s (countFailure s cl) := by
  unfold countFailure
  dsimp only
  split
  case isTrue third =>
    have hf : 2 ≤ (s.slice (s.spareSlice cl)).fails := by omega
    refine FailureCounted.then_rot ?_ ((rotEvent_only _ cl 0x1003 (s.spareSlice cl) 0).rot cl)
    exact
      { only := (updSlice_rotation s _ _).trans (updCluster_rotation _ _ _)
        cluster_ne := fun x hx => by rw [State.updCluster_cluster_ne _ _ hx, State.updSlice_cluster]
        cluster := by rw [State.updCluster_cluster]; simp [hf]
        slice_ne := fun x hx => by rw [State.updCluster_slice, State.updSlice_slice_ne _ _ hx]
        slice := by rw [State.updCluster_slice, State.updSlice_slice]; simp [hf] }
  case isFalse early =>
    have hf : ¬2 ≤ (s.slice (s.spareSlice cl)).fails := by omega
    exact
      { only := updSlice_rotation s _ _
        cluster_ne := fun _ _ => rfl
        cluster := by simp [hf]
        slice_ne := fun x hx => State.updSlice_slice_ne _ _ hx
        slice := by rw [State.updSlice_slice]; simp [hf] }

/-- ROT_CAL_DONE with an implausible set: reported, counted as a failure, and the next step begins. -/
theorem exec_rotCalDone_implausible {cl : Nat} {c : CorrSet} (ready : s.calReady cl = true)
    (hc : calResult (s.cluster cl).rot.step.sums (s.measPhases cl = 3)
      (s.corrSet (s.spareSlice cl) (s.cluster cl).rot.step.gain) = c)
    (bad : corrOk c.offset c.gain c.phase = false) :
    exec (.rotCalDone cl) s = .next (beginStep
      (countFailure (calLimit (dropLadder s cl) (s.spareSlice cl) (s.cluster cl).rot.step.gain c.offset c.gain) cl) cl
      ((s.cluster cl).rot.target + 1)) := by
  show execRotCalDone cl s = _
  simp only [execRotCalDone, ready, hc, bad, if_true, Bool.false_eq_true, if_false]

/-- Settles O15: either branch of ROT_CAL_DONE, read off the operations that it is made of. -/
theorem rotationCalibrates : Obligations.RotationCalibrates := by
  unfold Obligations.RotationCalibrates
  dsimp only
  refine ⟨fun cl s ready ok low goes => ?_, fun cl s ready bad => ?_⟩
  · generalize hc : calResult _ _ _ = c at ok ⊢
    have run := exec_rotCalDone_plausible s ready hc ok goes
    have other : ∀ k, k ≠ 8 * s.spareSlice cl + (s.cluster cl).rot.step.gain →
        (keepCal s cl c).corrSet (k / 8) (k % 8) = s.corrSet (k / 8) (k % 8) := fun k hk =>
      keepCal_corrSet_ne s c (by rwa [Nat.div_add_mod])
    cases fz : s.rotFrozen cl with
    | true =>
      rw [fz, if_pos rfl] at run
      refine ⟨_, run, (keepCal_only s cl c).trans (waitFrozen_only _ cl), keepCal_corrSet s cl c, other,
        keepCal_holder_ne s cl c, fun _ => keepCal_ladder_ne s c, fun x hx => ?_, ?_, nofun⟩
      · rw [waitFrozen_cluster_ne _ hx, keepCal_cluster_ne s c hx]
      · rw [waitFrozen_cluster, keepCal_cluster]
        simp only [if_true]
    | false =>
      rw [fz, if_neg Bool.false_ne_true] at run
      refine ⟨_, run, (keepCal_only s cl c).trans (settle_only _ cl), keepCal_corrSet s cl c, other,
        keepCal_holder_ne s cl c, fun _ => keepCal_ladder_ne s c, fun x hx => ?_, ?_, fun _ => ?_⟩
      · rw [settle_cluster_ne _ hx, keepCal_cluster_ne s c hx]
      · rw [settle_cluster, keepCal_cluster]
        simp only [Bool.false_eq_true, if_false]
        rfl
      · rw [← keepCal_spareSlice s cl c]
        exact ⟨settle_chainMem _ cl, settle_quadMem _ cl⟩
  · generalize hc : calResult _ _ _ = c at bad
    have told := (dropLadder_rot s cl).trans ((calLimit_only (dropLadder s cl) (s.spareSlice cl)
      (s.cluster cl).rot.step.gain c.offset c.gain).rot cl)
    have counted := ((countFailure_counted _ cl).after_rot told).then_rot
      (beginStep_rot _ cl ((s.cluster cl).rot.target + 1))
    refine ⟨_, exec_rotCalDone_implausible s ready hc bad, counted.only, counted.cluster_ne, counted.slice_ne,
      ?_, ?_, ?_, ?_, counted.slice, ?_⟩ <;> rw [counted.cluster]

/-! ### Auxiliary converters and temperatures (R136–R139, R184, R185) -/

/-- A report is made or not, by a condition on which nothing else turns. -/
theorem emit_if_only (b : Prop) [Decidable b] (code subj arg : Nat) :
    OnlyReports s (if b then emit s code subj arg else s) := by
  split
  · exact emit_only _ _ _ _
  · exact OnlyReports.refl s

theorem OnlyReports.aux {s t : State} (h : OnlyReports s t) (d : Nat) : t.aux d = s.aux d := by
  rw [State.aux, h.auxs, State.aux]

theorem OnlyReports.tempCh {s t : State} (h : OnlyReports s t) (ch : Nat) : t.tempCh ch = s.tempCh ch := by
  rw [State.tempCh, h.lin, State.tempCh]

/-- The converter puts a result into AUXDATA and moves its scan on (R136, R137): `bad` where the result is out of range, `more`
where the list has a further entry. -/
def AuxSt.store (a : AuxSt) (v : BitVec 24) (bad more : Bool) : AuxSt :=
  { a with
    data := ⟨v.toNat, a.next, a.data.isNew, true, a.scanRow, bad⟩
    lost := if a.data.isNew then a.data.entry else a.lost
    ovrLatch := a.ovrLatch || a.data.isNew
    ovrCount := if a.data.isNew then sat 65535 (a.ovrCount + 1) else a.ovrCount
    next := a.next + 1, running := more }

/-- The result of the slot in progress is at or above 98 % of full scale, in a mode other than 0 (R139). -/
def State.auxFault (d : Die) (v : BitVec 24) : Bool :=
  s.pat.f sAuxScan d (5 + 4 * (s.aux d).next) 1 % 16 ≠ 0 && decide (0x7D70A4 ≤ v.toInt)

def storeAux (d : Die) (v : BitVec 24) : State :=
  s.updAux d fun a => a.store v (s.auxFault d v) (a.next + 1 < s.pat.auxCount d)

/-- AUX_RESULT of a running scan: the result is stored, then an untaken result that it replaces and one out of range are
reported. -/
theorem exec_auxResult {d : Die} (v : BitVec 24) (run : (s.aux d).running = true) :
    exec (.auxResult d v) s = .next (
      let t := storeAux s d v
      let u := if (s.aux d).data.isNew then emit t 0x1010 d (s.aux d).data.entry else t
      if s.auxFault d v then emit u 0x1011 d (s.aux d).next else u) := by
  show execAuxResult d v s = _
  simp only [execAuxResult, run, if_true]
  rfl

/-- The channels of an entry that turn stale now. -/
def State.turnStale (d e : Nat) : List Nat := (tempUsers s.pat d e).filter fun ch => (s.tempCh ch).st ≠ 2 && s.tempOld ch

theorem State.mem_turnStale {d e ch : Nat} :
    ch ∈ s.turnStale d e ↔ ch ∈ tempUsers s.pat d e ∧ (s.tempCh ch).st ≠ 2 ∧ s.tempOld ch = true := by
  simp [State.turnStale]

theorem State.turnStale_nodup (d e : Nat) : (s.turnStale d e).Nodup :=
  (List.nodup_range.filter _).filter _

/-- These channels take the substitute. -/
def goStale (chs : List Nat) : State :=
  { s with lin := { s.lin with temps := Tbl.updAll TempCh.init s.lin.temps chs fun _ t => { t with st := 2 } } }

theorem goStale_tempCh_mem {chs : List Nat} {ch : Nat} (h : ch ∈ chs) (nd : chs.Nodup) :
    (goStale s chs).tempCh ch = { s.tempCh ch with st := 2 } := Tbl.get_updAll_mem _ _ _ h nd _

theorem goStale_tempCh_not_mem {chs : List Nat} {ch : Nat} (h : ch ∉ chs) : (goStale s chs).tempCh ch = s.tempCh ch :=
  Tbl.get_updAll_ne _ _ _ h _

/-- TEMP_STALE, where a channel of the entry turns stale: those channels take the substitute, and at most a report follows. -/
theorem exec_tempStale_only {d : Die} {e : Nat} (h : s.turnStale d e ≠ []) :
    ∃ t, exec (.tempStale d e) s = .next t ∧ OnlyReports (goStale s (s.turnStale d e)) t := by
  obtain ⟨ch, r, hl⟩ := List.exists_cons_of_ne_nil h
  refine ⟨if (tempUsers s.pat d e).any fun ch => (s.tempCh ch).st = 2 then goStale s (s.turnStale d e)
    else emit (goStale s (s.turnStale d e)) 0x1020 d (args [e, (s.tempCh ch).age]), ?_, ?_⟩
  · show execTempStale d e s = _
    rw [hl]
    unfold State.turnStale at hl
    simp only [execTempStale, hl]
    rfl
  · split
    · exact OnlyReports.refl _
    · exact emit_only _ _ _ _

/-- Settles O17: the three events one by one; a channel of an entry that is stale already reads the same when set to stale. -/
theorem auxiliaryResults : Obligations.AuxiliaryResults := by
  unfold Obligations.AuxiliaryResults
  refine ⟨fun d v s run => ?_, fun temps s => ?_, ?_⟩
  · have told := (emit_if_only (storeAux s d v) ((s.aux d).data.isNew = true) 0x1010 d (s.aux d).data.entry).trans
      (emit_if_only _ (s.auxFault d v = true) 0x1011 d (s.aux d).next)
    refine ⟨_, exec_auxResult s v run, ?_, fun x hx => ?_, ?_⟩
    · rw [told.auxs]
      exact told
    · rw [told.aux, storeAux, State.updAux_aux_ne _ _ hx]
    · rw [told.aux, storeAux, State.updAux_aux]
      rfl
  · have read : ∀ n, Tbl.get 2560 (Tbl.setRun 2560 s.lin.region 0 temps) n =
        (temps[n]?).getD (Tbl.get 2560 s.lin.region n) := fun n => by
      simpa using Tbl.get_setRun_add 2560 temps s.lin.region 0 n
    refine ⟨{ s with lin := { s.lin with region := Tbl.setRun 2560 s.lin.region 0 temps } }, rfl, rfl,
      fun n v h => ?_, fun n h => ?_⟩
    · rw [read, h, Option.getD_some]
    · rw [read, List.getElem?_eq_none h, Option.getD_none]
  · rintro d e s ⟨ch₀, user, fresh, old⟩
    have turns : s.turnStale d e ≠ [] := List.ne_nil_of_mem (s.mem_turnStale.2 ⟨user, fresh, old⟩)
    obtain ⟨t, run, told⟩ := exec_tempStale_only s turns
    refine ⟨t, run, ?_, fun ch hu ho => ?_, fun ch hn => ?_⟩
    · rw [told.lin]
      exact told
    · rw [told.tempCh]
      by_cases hs : (s.tempCh ch).st = 2
      · have stays : ch ∉ s.turnStale d e := fun hm => by
          obtain ⟨-, live, -⟩ := s.mem_turnStale.1 hm
          exact live hs
        rw [goStale_tempCh_not_mem s stays, ← hs]
      · exact goStale_tempCh_mem s (s.mem_turnStale.2 ⟨hu, hs, ho⟩) (s.turnStale_nodup d e)
    · rw [told.tempCh]
      refine goStale_tempCh_not_mem s fun hm => ?_
      obtain ⟨hu, -, ho⟩ := s.mem_turnStale.1 hm
      rcases hn with hn | hn
      · exact hn hu
      · exact Bool.false_ne_true (hn.symm.trans ho)

end Sys2Proof.Machine
